-- ==== Sys2Proof/Word.lean ====
section
/-! DEFINITION. The plain word types of the TLW-4608 model (00 R4, 01 R9-R12). -/

namespace Sys2Proof

/-- One byte of a memory (R4). -/
abbrev Byte := BitVec 8

/-- A 64-bit scalar register or control word (R12, R25). -/
abbrev Word := BitVec 64

/-- A tag (R339) or a policy version number (R353). -/
abbrev Half := BitVec 16

/-- One 96-bit instruction slot (R46). -/
abbrev Slot96 := BitVec 96

/-- One 64-byte code line (R33). -/
abbrev Line512 := BitVec 512

/-- A scalar register s0 to s15 (R12, R48). -/
abbrev Reg := Fin 16

/-- A logical tile, written as row * 256 + column (R314, R205). -/
abbrev TileId := Nat

end Sys2Proof
end

