-- ==== Sys2Proof/Syntax.lean ====
section
/-! DEFINITION. The operations and steps of the TLW-4608: one constructor of `Instr` for each row of the opcode table.
The instructions of tiles and harts carry their operand fields; the steps of hardware units and of outside parties carry
what identifies them (a tile, a partition, a message in flight) and what comes from outside. -/

namespace Sys2Proof

/-! ## Operand forms (02 R46-R50) -/

/-- Width codes WD (R47). -/
inductive Width | b8 | b16 | b32 | b64
  deriving DecidableEq, Repr, Inhabited

/-- Operand b (R50): register B, or imm48. -/
inductive Src
  | reg (r : Reg)
  | imm (v : BitVec 48)
  deriving DecidableEq, Repr, Inhabited

/-- Wait classes W (R47). -/
inductive WCls | none | tile | edge | net
  deriving DecidableEq, Repr, Inhabited

/-- Local spaces that SP names (R111). -/
inductive LSpace | data | act | ctl
  deriving DecidableEq, Repr, Inhabited

/-- Memory-plane virtual channels that OPB[53:52] names (R218). -/
inductive VcSel | vc0 | vc5 | vc6 | vc7
  deriving DecidableEq, Repr, Inhabited

/-- Atomic functions (R56, R222). -/
inductive AmoFn | add | and | or | xor | swap | smin | smax | umin | umax | fadd | bfadd
  deriving DecidableEq, Repr, Inhabited

/-- Branch conditions (R56). -/
inductive BrCond | eq | ne | lt | ge | ltu | geu | z | nz
  deriving DecidableEq, Repr, Inhabited

/-- Floating-point relations (R56, R105). -/
inductive FRel | eq | ne | lt | le | gt | ge | un | ord
  deriving DecidableEq, Repr, Inhabited

/-- Conversions of FCVT (R56, R106). -/
inductive CvtFn | ff | fsi | fui | sif | uif
  deriving DecidableEq, Repr, Inhabited

/-- Sign functions of FSGN (R56). -/
inductive SgnFn | sgn | nsg | xsg
  deriving DecidableEq, Repr, Inhabited

/-- Combining operations of VRED, VSCAN and RTRE (R56). -/
inductive RedFn | add | min | max
  deriving DecidableEq, Repr, Inhabited

/-- Conditions of WAIT (R240). -/
inductive WaitCond | eq | ne | geu | ltu | any
  deriving DecidableEq, Repr, Inhabited

/-- Kinds of ACQ (R237). -/
inductive AcqKind | rd | ge | eq | lk
  deriving DecidableEq, Repr, Inhabited

/-- Scopes of ACQ and REL (R237, R248). -/
inductive Scope | part | tile | wafer | sys
  deriving DecidableEq, Repr, Inhabited

/-- Address kinds of LDX and STX (R352). -/
inductive AddrKind | data | act | glob | virt
  deriving DecidableEq, Repr, Inhabited

/-- Spaces a blank may lie in (R227, R229). -/
inductive BlankSpc | wgt | act | acc
  deriving DecidableEq, Repr, Inhabited

/-- Spaces a PHINT entry may name (R372). -/
inductive HintSpc | data | wgt | act | acc
  deriving DecidableEq, Repr, Inhabited

/-- A blank number as operand b (R229). -/
inductive BlankRef
  | reg (r : Reg)
  | imm (n : Fin 64)
  deriving DecidableEq, Repr, Inhabited

/-- The notify bit and the token of an instruction that pushes into an engine queue (R51). -/
structure Tok where
  n   : Bool
  tok : Half
  deriving DecidableEq, Repr, Inhabited

/-- d, a, operand b, width, signedness: the shared shape of the integer forms (R94). -/
structure Alu where
  d : Reg
  a : Reg
  b : Src
  w : Width
  s : Bool
  deriving DecidableEq, Repr, Inhabited

/-- d, a and width: CLZ, CTZ, POPC (R96). -/
structure Alu1 where
  d : Reg
  a : Reg
  w : Width
  deriving DecidableEq, Repr, Inhabited

/-- Scalar floating-point operands (R103); `dbl` is WD = 0b11. -/
structure Fp where
  d   : Reg
  a   : Reg
  b   : Src
  dbl : Bool
  deriving DecidableEq, Repr, Inhabited

/-- A local access (R111): d, [a + b], width, space, wait class. -/
structure LMem where
  d  : Reg
  a  : Reg
  b  : Src
  w  : Width
  sp : LSpace
  wc : WCls
  deriving DecidableEq, Repr, Inhabited

/-- A paired local access (R112). -/
structure LPair where
  d  : Reg
  a  : Reg
  b  : Src
  c  : Reg
  sp : LSpace
  wc : WCls
  deriving DecidableEq, Repr, Inhabited

/-- A local atomic (R218): c is the operand or the new value; `act` chooses ACT over DATA. -/
structure LAmo where
  d   : Reg
  a   : Reg
  b   : Src
  c   : Reg
  w   : Width
  act : Bool
  wc  : WCls
  deriving DecidableEq, Repr, Inhabited

/-- A load through a global or virtual address (R218). -/
structure RLoad where
  d   : Reg
  a   : Reg
  b   : Src
  w   : Width
  acq : Bool
  sx  : Bool
  vc  : VcSel
  wc  : WCls
  deriving DecidableEq, Repr, Inhabited

/-- A store through a global or virtual address (R218). -/
structure RStore where
  d   : Reg
  a   : Reg
  b   : Src
  w   : Width
  rel : Bool
  vc  : VcSel
  col : Fin 8
  wc  : WCls
  deriving DecidableEq, Repr, Inhabited

/-- A remote atomic (R218); `post` is `.p`, and `ar` is `.acq` or, with `.p`, `.rel`. -/
structure RAmo where
  fn   : AmoFn
  d    : Reg
  a    : Reg
  b    : Src
  c    : Reg
  w    : Width
  post : Bool
  ar   : Bool
  vc   : VcSel
  col  : Fin 8
  wc   : WCls
  deriving DecidableEq, Repr, Inhabited

/-- A remote compare-and-swap (R218). -/
structure RCas where
  d   : Reg
  a   : Reg
  b   : Src
  c   : Reg
  w   : Width
  acq : Bool
  vc  : VcSel
  wc  : WCls
  deriving DecidableEq, Repr, Inhabited

/-- LDX (R352). -/
structure XLoad where
  d  : Reg
  a  : Reg
  b  : Src
  c  : Reg
  w  : Width
  ak : AddrKind
  acq : Bool
  sx : Bool
  vc : VcSel
  wc : WCls
  deriving DecidableEq, Repr, Inhabited

/-- STX (R352). -/
structure XStore where
  d  : Reg
  a  : Reg
  b  : Src
  c  : Reg
  w  : Width
  ak : AddrKind
  rel : Bool
  vc : VcSel
  col : Fin 8
  wc : WCls
  deriving DecidableEq, Repr, Inhabited

/-- ACQ (R237). -/
structure AcqArgs where
  kind : AcqKind
  d  : Reg
  a  : Reg
  b  : Src
  c  : Reg
  v  : Bool
  sc : Scope
  wc : WCls
  deriving DecidableEq, Repr, Inhabited

/-- REL (R238). -/
structure RelArgs where
  add : Bool
  a   : Reg
  b   : Src
  c   : Reg
  v   : Bool
  sc  : Scope
  col : Fin 8
  wc  : WCls
  deriving DecidableEq, Repr, Inhabited

/-- BIND (R236). -/
structure BindArgs where
  a  : Reg
  b  : Reg
  c  : Reg
  k  : Fin 8
  gv : Bool
  rv : Bool
  deriving DecidableEq, Repr, Inhabited

/-- WAIT (R240). -/
structure WaitArgs where
  cond : WaitCond
  d  : Reg
  a  : Reg
  b  : Src
  c  : Reg
  w  : Width
  sp : LSpace
  wc : WCls
  deriving DecidableEq, Repr, Inhabited

/-- SEND (R188, R190); with `stg`, register a names a stage queue. -/
structure SendArgs where
  a    : Reg
  b    : Reg
  c    : Reg
  slot : Fin 16
  n    : Fin 33
  pr   : Bool
  stg  : Bool
  col  : Fin 8
  wc   : WCls
  deriving DecidableEq, Repr, Inhabited

/-- SPAWN (R188, R191). -/
structure SpawnArgs where
  d      : Reg
  a      : Reg
  b      : Reg
  c      : Reg
  target : Half
  n      : Fin 33
  pr     : Bool
  stl    : Bool
  col    : Fin 8
  wc     : WCls
  deriving DecidableEq, Repr, Inhabited

/-- Three shapes with `.wrap` (R140): destination and two sources. -/
structure V2 where
  d : Reg
  a : Reg
  b : Reg
  wrap : Bool
  tk : Tok
  deriving DecidableEq, Repr, Inhabited

/-- VFMA (R139). -/
structure V3 where
  d : Reg
  a : Reg
  b : Reg
  c : Reg
  wrap : Bool
  tk : Tok
  deriving DecidableEq, Repr, Inhabited

/-- One source with `.wrap` (R141, R142). -/
structure V1 where
  d : Reg
  a : Reg
  wrap : Bool
  tk : Tok
  deriving DecidableEq, Repr, Inhabited

/-- Two sources (R139, R144, R146). -/
structure VBin where
  d : Reg
  a : Reg
  b : Reg
  tk : Tok
  deriving DecidableEq, Repr, Inhabited

/-- Three operands d, a, b and c (R143, R147). -/
structure VTri where
  d : Reg
  a : Reg
  b : Reg
  c : Reg
  tk : Tok
  deriving DecidableEq, Repr, Inhabited

/-- One source (R145, R148). -/
structure VUn where
  d : Reg
  a : Reg
  tk : Tok
  deriving DecidableEq, Repr, Inhabited

/-- The shift count of VSHL and VSHR (R144). -/
inductive VShAmt
  | shape (b : Reg)
  | imm (e : BitVec 5)
  deriving DecidableEq, Repr, Inhabited

/-- A copy form with colour and token (R254). -/
structure CpArgs where
  a   : Reg
  b   : Reg
  col : Fin 8
  tk  : Tok
  deriving DecidableEq, Repr, Inhabited

/-- A remote MDRAIN (R160, R173). -/
structure DrainRem where
  a    : Reg
  c    : Reg
  keep : Bool
  pr   : Bool
  wk   : Bool
  q    : Bool
  col  : Fin 8
  ofs  : BitVec 18
  slot : Fin 16
  tk   : Tok
  deriving DecidableEq, Repr, Inhabited

/-! ## What comes from outside with a step -/

/-- The four trap words the island may give a strand that it resumes (R30). -/
structure TrapWords where
  tcause : Word
  tepc   : Word
  tval   : Word
  tpxl   : BitVec 32
  deriving DecidableEq, Repr, Inhabited

/-- The island's choice for a strand held under R30. -/
inductive IslandAct
  | resume (w : TrapWords)
  | free
  deriving DecidableEq, Repr, Inhabited

/-- What a request on the memory plane does at its home (R219, R223, R237, R238). -/
inductive Machine.ReqOp
  | load (n : Nat) (sx : Bool)
  | store (bytes : List Byte)
  | amo (fn : AmoFn) (w : Width) (v : Word)
  | cas (w : Width) (exp new : Word)
  | acq (k : AcqKind) (v : Word)
  | rel (add : Bool) (v : Word)
  | ctr (ctr : Nat)              -- NCTR.rd of a counter (R285)
  | ctrWait (ctr n : Nat)        -- NCTR.wt: a counter and its bound
  deriving DecidableEq, Repr, Inhabited

/-- A global access of another wafer (R210, R212): its CHIP, the requester's row and column there, the address, the operation, and
whether it is posted. -/
structure PeerAcc where
  chip : Nat
  row  : Nat
  col  : Nat
  addr : Word
  op   : Machine.ReqOp
  post : Bool
  tag  : Half
  deriving DecidableEq, Repr, Inhabited

/-- What an arriving network packet carries (R212, R282-R284). -/
inductive PktBody
  | access (a : PeerAcc)
  | send (rq : Fin 16)
  | put (key : BitVec 32) (addr : Word) (rce : Bool) (rctr : Fin 32)
  | getReq (key : BitVec 32) (addr : Word)
  | getData (op : Nat)
  deriving DecidableEq, Repr, Inhabited

/-- A packet from a network peer (R284): the peer, its service (ROD?), the number of the message on that service, its number among
the peer's sends on it (for a read request, the operation that the answer names), the packet's number and the packet count, message
length, byte offset, content and bytes. -/
structure Packet where
  peer  : Nat
  rod   : Bool
  msg   : Nat
  ord   : Nat
  seq   : Nat
  count : Nat
  len   : Nat
  ofs   : Nat
  /-- The network edge port that carries it. -/
  port  : Fin 32
  body  : PktBody
  bytes : List Byte
  deriving DecidableEq, Repr, Inhabited

/-- An acknowledgement from a peer (R284): which packets of an operation it names, or a refusal. -/
inductive SackBody
  | acked (pkts : List Nat)
  | refusedKey
  | notReady
  deriving DecidableEq, Repr, Inhabited

/-- The island's network set-up of a partition (R277), which has no register layout (log 16): its ports, its MTU as 1,024 * 2^mtu, RTO,
RLIM, and the endpoint-table entries that name no peer. -/
structure NetSetup where
  ports  : List (Fin 32)
  mtu    : Fin 3
  rto    : Nat
  rlim   : Nat
  noPeer : List Nat
  deriving DecidableEq, Repr, Inhabited

/-- PARTITION_ENABLE of a partition, with its network set-up. -/
structure PartSetup where
  part : Fin 24
  net  : NetSetup
  deriving DecidableEq, Repr, Inhabited

/-- A copy going on: the operation, and by how many elements at most (log 8). -/
structure CopyStep where
  op : Nat
  n  : Nat
  deriving DecidableEq, Repr, Inhabited

/-- A network engine starting: its tile, and the source bytes it reads of its operation `op`, `n` at the offset `ofs`; with `n = 0` it takes a
command (log 16). -/
structure NetStart where
  tile : TileId
  ofs  : Nat
  n    : Nat
  op   : Nat := 0
  deriving DecidableEq, Repr, Inhabited

/-- What a pass of the scrubber over a granule finds, or an error that a read has corrected in an SRAM of an island's region (R400). -/
inductive ScrubFind
  | clean
  | corrected
  | poisoned
  | sram (island : Fin 48)
  deriving DecidableEq, Repr, Inhabited

/-- The cause of a partition stop: black-box KIND, data words and the place (R402-R405). -/
structure StopCause where
  kind : Fin 256
  d0   : Word
  d1   : Word
  row  : Nat
  col  : Nat
  deriving DecidableEq, Repr, Inhabited

/-- A service request of a guest or of the management server (R411). -/
structure SvcReq where
  caller : Nat
  rid    : Word
  reqPa  : Word
  repPa  : Word
  /-- The hart of a guest's ecall, whose registers then carry the three values; none for the management server. -/
  hart   : Option (Fin 384) := none
  deriving DecidableEq, Repr, Inhabited

/-- Every operation and every step of the opcode table, one constructor a row. -/
inductive Instr
  -- system (04 R115-R122)
  | nop
  | pfx (p : BitVec 32)
  | trap (e : BitVec 48)
  | tret
  | rdw (d : Reg) (idx : BitVec 12)
  | wrw (idx : BitVec 12) (a : Reg)
  | rdcyc (d : Reg) (c : Option Reg)
  | brk (e : BitVec 48)
  | qget (d : Reg) (q : Fin 8) (try_ : Bool)
  | qput (q : Fin 8) (a : Reg)
  -- integer (04 R96)
  | add (o : Alu)
  | sub (o : Alu)
  | mul (o : Alu)
  | mulh (o : Alu)
  | div (o : Alu)
  | rem (o : Alu)
  | and (o : Alu)
  | or (o : Alu)
  | xor (o : Alu)
  | andn (o : Alu)
  | shl (o : Alu)
  | shr (o : Alu)
  | sra (o : Alu)
  | rot (o : Alu)
  | min (o : Alu)
  | max (o : Alu)
  | slt (o : Alu)
  | seq (o : Alu)
  | sel (o : Alu) (c : Reg)
  | clz (o : Alu1)
  | ctz (o : Alu1)
  | popc (o : Alu1)
  | bfx (d : Reg) (a : Reg) (b : Src) (s : Bool)
  | bfi (d : Reg) (a : Reg) (b : Src) (c : Reg)
  | li (d : Reg) (v : BitVec 48) (s : Bool) (hi : Bool)
  | addx (d : Reg) (a : Reg) (b : Src) (y : Bool) (ci : Option Reg)
  | subx (d : Reg) (a : Reg) (b : Src) (y : Bool) (ci : Option Reg)
  | widx (d : Reg) (j : Fin 6)
  | gta (d : Reg) (a : Reg) (b : Src) (spc : Fin 8) (pr : Bool)
  -- scalar floating point (04 R104)
  | fadd (o : Fp)
  | fsub (o : Fp)
  | fmul (o : Fp)
  | fma (o : Fp) (c : Reg)
  | fdiv (o : Fp)
  | fsqrt (d : Reg) (a : Reg) (dbl : Bool)
  | fmin (o : Fp)
  | fmax (o : Fp)
  | fcmp (r : FRel) (o : Fp)
  | fcvt (fn : CvtFn) (d : Reg) (a : Reg) (dbl : Bool)
  | fclass (d : Reg) (a : Reg) (dbl : Bool)
  | fsgn (fn : SgnFn) (o : Fp)
  -- control (04 R109)
  | br (c : BrCond) (a : Reg) (b : Reg) (t : BitVec 48)
  | jmp (t : BitVec 48)
  | call (t : BitVec 48)
  | ret
  | jr (a : Reg)
  | loop (d : Reg) (t : BitVec 48)
  -- local memory (04 R111, R112; 08 R223)
  | ld (m : LMem) (sx : Bool)
  | st (m : LMem)
  | ldp (m : LPair)
  | stp (m : LPair)
  | amo (fn : AmoFn) (m : LAmo)
  | cas (m : LAmo)
  -- remote access (08 R218)
  | ldg (m : RLoad)
  | stg (m : RStore)
  | ldv (m : RLoad)
  | stv (m : RStore)
  | amog (m : RAmo)
  | amov (m : RAmo)
  | casg (m : RCas)
  | casv (m : RCas)
  | ldx (m : XLoad)
  | stx (m : XStore)
  -- ordering, blanks and gates (08 R227-R241)
  | fence (m : BitVec 8) (wc : WCls)
  | waitc (m : BitVec 3) (wc : WCls)
  | acq (m : AcqArgs)
  | rel (m : RelArgs)
  | bind (m : BindArgs)
  | bdef (a : Reg) (b : Reg) (spc : BlankSpc) (n : Fin 64)
  | bsetReady (b : BlankRef)
  | bsetFill (b : BlankRef) (c : Reg)
  | bwait (b : BlankRef) (emp : Bool)
  | brel (b : BlankRef)
  | wait (m : WaitArgs)
  -- pre-emption (15 R365, R372)
  | yield (d : Reg)
  | yieldQ (d : Reg)
  | phintSet (a : Reg) (b : Reg) (spc : HintSpc) (n : Fin 8)
  | phintClr
  | phintAll
  -- tasks (07 R188) and LAUNCH (12 R304)
  | send (m : SendArgs)
  | spawn (m : SpawnArgs)
  | migr (d : Reg) (a : Reg)
  | endt
  | arm (a : Reg) (slot : Fin 16) (target : Half)
  | trig (a : Reg) (slot : Fin 16)
  | steal (d : Reg) (a : Reg) (pr : Bool)
  | launch (d : Reg) (a : Reg)
  -- island hart (12 R305)
  | lnch (s : Fin 32) (d : Fin 32)
  -- an opcode that Table 1 does not assign (02 R57)
  | unassignedOpcode (w : Slot96)
  -- a partition stop (18 R402)
  | partitionStop (p : Fin 24) (c : StopCause)
  -- tags and versions (14 R348, R358)
  | taga (d : Reg)
  | tagr (d : Reg) (a : Reg)
  | tags (a : Reg)
  | tagq (d : Reg) (a : Reg)
  | vpub (d : Reg) (a : Reg) (w : Fin 64)
  | vsw (a : Reg) (w : Fin 64)
  | vswLat (w : Fin 64)
  | vget (d : Reg) (w : Fin 64)
  | vgetHome (d : Reg) (w : Fin 64)
  | vpin (a : Reg)
  | vpinOff
  -- vector (05 R139-R151)
  | vadd (v : V2)
  | vsub (v : V2)
  | vmul (v : V2)
  | vfma (v : V3)
  | vmin (v : VBin)
  | vmax (v : VBin)
  | vabs (v : V1)
  | vneg (v : V1)
  | vcvt (v : V1)
  | vcmp (r : FRel) (v : VBin)
  | vsel (v : VTri)
  | vand (v : VBin)
  | vor (v : VBin)
  | vxor (v : VBin)
  | vshl (d : Reg) (a : Reg) (b : VShAmt) (tk : Tok)
  | vshr (d : Reg) (a : Reg) (b : VShAmt) (ar : Bool) (tk : Tok)
  | vmov (v : VUn)
  | vbcast (v : VUn) (q : Bool)
  | viota (d : Reg) (start : BitVec 32) (wrap : Bool) (tk : Tok)
  | vgath (v : VBin)
  | vscat (v : VBin)
  | vpack (v : VTri)
  | vexp (v : VUn)
  | vlog (v : VUn)
  | vrcp (v : VUn)
  | vrsqrt (v : VUn)
  | vtanh (v : VUn)
  | vsigm (v : VUn)
  | vred (fn : RedFn) (v : VUn) (all : Bool)
  | vscan (fn : RedFn) (v : VUn) (hf : Option Reg) (excl : Bool)
  | vsamp (d : Reg) (a : Reg) (c : Reg) (t : BitVec 32) (tk : Tok)
  | vdraw (d : Reg) (raw : Bool) (tk : Tok)
  | vtopk (d : Reg) (a : Reg) (c : Reg) (k : Half) (tk : Tok)
  -- matrix (06 R160)
  | mcfg (rs : Bool) (iacc : Bool) (tk : Tok)
  | mload (a : Reg) (west : Bool) (tk : Tok)
  | mzero (tk : Tok)
  | mmul (d : Reg) (a : Reg) (acc : Bool) (tk : Tok)
  | mmulRs (a : Reg) (b : Reg) (tk : Tok)
  | mdrain (d : Reg) (keep : Bool) (tk : Tok)
  | mdrainRem (m : DrainRem)
  | mdrainTree (slot : BitVec 8) (keep : Bool) (tk : Tok)
  -- copy and edge (10 R254, R265, R270)
  | cpy (m : CpArgs)
  | cpyf (m : CpArgs) (q : Bool)
  | cpyg (m : CpArgs)
  | egemv (d : Reg) (a : Reg) (b : Reg) (tk : Tok)
  | epref (a : Reg) (len : BitVec 21) (tk : Tok)
  -- network and reduction tree (10 R275-R285)
  | nsend (a : Reg) (col : Fin 8) (tk : Tok)
  | nput (a : Reg) (col : Fin 8) (tk : Tok)
  | nget (a : Reg) (col : Fin 8) (tk : Tok)
  | nctrRd (d : Reg) (ctr : Fin 32)
  | nctrWt (d : Reg) (a : Reg) (ctr : Fin 32)
  | nrecv (a : Reg) (tk : Tok)
  | rtre (fn : RedFn) (a : Reg) (slot : BitVec 8) (tk : Tok)
  | rwait (d : Reg) (a : Reg) (slot : BitVec 8)
  -- steps of a tile and of the island towards it
  | codeLineRepair (t : TileId)
  | islandStrandAction (t : TileId) (k : Fin 4) (x : IslandAct)
  | waitExpired (t : TileId) (k : Fin 4)
  | deferredKeyGeneration (v : Fin 64)
  | postedRefusalTrap (t : TileId) (k : Fin 4)
  | taskStart (t : TileId)
  | triggerArrival (m : Nat)
  | spawnArrival (m : Nat)
  | migrArrival (m : Nat)
  | bounceArrival (m : Nat)
  | stealRequest (m : Nat)
  | stolenReply (m : Nat)
  | taskMessageAck (m : Nat)
  | taskMessageNack (m : Nat)
  | taskMessageRetry (m : Nat)
  | stageQueueAccept (m : Nat)
  | stageDispatch (p : Fin 24) (q : Fin 16)
  | elasticReassignment (p : Fin 24)
  | automaticSteal (t : TileId)
  -- memory plane and translation
  | remoteRequest (m : Nat)
  | remoteReply (m : Nat)
  | remoteAck (m : Nat)
  | remoteRefusal (m : Nat)
  | gateRequestResend (m : Nat)
  | virtualAccess (m : Nat)
  | translationResponse (req : BitVec 32) (walk : Bool)
  | fptailWrite (p : Fin 24) (v : BitVec 32)
  | shootdownGo (e : Fin 56)
  | shootdownComplete (e : Fin 56)
  -- partitions and virtual devices
  | partitionEnable (p : PartSetup)
  | partitionRelease (p : Fin 24)
  | scrubComplete (p : Fin 24)
  | stateDescheduled (v : Fin 64)
  | statePaused (v : Fin 64)
  | stateRunning (v : Fin 64)
  | vdevReset (v : Fin 64)
  | configWrite (addr : Word) (val : Word)
  -- launches
  | launchChoice (p : Fin 24)
  | deficitUpdate (p : Fin 24)
  | sliceExpiry (p : Fin 24)
  | launchStart (p : Fin 24)
  | loadBeat (t : TileId)
  | firstTasksFire (p : Fin 24)
  | streamDispatch (p : Fin 24)
  | quiescenceDetected (p : Fin 24)
  | eventDelivery (v : Fin 64)
  -- pre-emption
  | sliceEndSignal (t : TileId)
  | yieldDeadline (t : TileId)
  | settledReport (t : TileId)
  | gangStop (p : Fin 24)
  | drainEnd (p : Fin 24)
  | launchSuspended (p : Fin 24)
  | restore (p : Fin 24)
  | restoreRelease (p : Fin 24)
  | watchdogExpiry (p : Fin 24)
  -- engines
  | matrixCommandStart (t : TileId)
  | matrixCompletion (t : TileId)
  | remoteDrainCompletion (t : TileId)
  | vectorOperationStart (t : TileId)
  | vectorCompletion (t : TileId)
  | copyStart (t : TileId)
  | copyCompletion (t : TileId) (op : CopyStep)
  | copyFailure (t : TileId) (op : Nat)
  | egemvAccept (t : TileId) (op : Nat)
  | egemvPass (stack : Fin 24)
  | networkCommandStart (t : NetStart)
  | roundCombine (t : TileId) (slot : Fin 32)
  | treeDelivery (t : TileId) (slot : Fin 32)
  | packetArrival (p : Fin 24) (x : Packet)
  | sackArrival (p : Fin 24) (op : Nat) (x : SackBody)
  | rtoExpiry (p : Fin 24) (op : Nat) (pkt : Nat)
  | notReadyRetry (p : Fin 24) (op : Nat)
  | versionSwitchPass (p : Fin 24) (w : Fin 64)
  | tagRetirementComplete (p : Fin 24) (tag : Half)
  -- across hours
  | powerControlPeriod (watts : Half) (tmax : Byte)
  | stackThermalHold (k : Fin 24) (celsius : Nat)
  | stackThermalRelease (k : Fin 24) (celsius : Nat)
  | thermalTrip (tmax : Byte) (outlet : Nat)
  | thermalResetRelease (tmax : Byte)
  | undervoltage (millivolts : Nat) (micros : Nat)
  | undervoltageRecovery (millivolts : Nat) (micros : Nat)
  | overvoltage (millivolts : Nat)
  | linkBeatResend (island : Fin 48) (router : TileId) (port : Fin 8) (plane : Bool) (fails : Nat)
  | patrolScrub (stack : Fin 24) (granule : Nat) (found : ScrubFind)
  | firmwareRecord (island : Fin 48) (mmode : Bool) (d0 d1 d2 d3 : Word)
  | keyGeneration (v : Fin 64) (mmode : Bool) (id : Word)
  | serviceCall (r : SvcReq)
  | eprefWarmingEnd (t : TileId) (op : Nat)
  | contributionAccepted (t : TileId)
  | readBufferEntryAgeOut (e : Fin 56) (granule : Nat)
  | bootImageFetched (chip : Option (BitVec 16)) (image : List Byte)
  | securityVersionFloorRaise (v : BitVec 32)
  | referenceInputChange (present : Bool)
  -- steps that carry nothing
  | coldBoot
  | warmReset
  | powerLoss
  | bootFetchRetry
  | managementReset
  | meterShadowAdd
  | attestationReport
  | meterSnapshot
  | reportComplete
  | serviceRestart
  deriving DecidableEq, Repr, Inhabited

end Sys2Proof
end

