-- ==== Sys2Proof/WellFormed.lean ====
section
/-! DEFINITION. Which operand fields the encoding rules admit: everything R48 to R58 and the forms' own descriptions turn
into *illegal instruction* from the instruction's bits alone, beyond the fields that must be zero (R49), which the decoder
checks against the encoder. What depends on the machine's state (a prefix, a mode, a slot's configuration) is no matter of
this file. -/

namespace Sys2Proof

/-- A well-formed 16-bit PC (R13): bits [5:3] zero and a slot number of 0 to 4. -/
def pc16Ok (p : Half) : Bool :=
  p.extractLsb' 3 3 == 0#3 && p.extractLsb' 0 3 ≤ 4#3

/-- The prefix words that R52 accepts. -/
def prefixOk (p : BitVec 32) : Bool :=
  p.extractLsb' 29 3 == 0#3
  && p.extractLsb' 0 4 ≤ 10#4 && p.extractLsb' 4 4 ≤ 10#4 && p.extractLsb' 8 4 ≤ 10#4
  && p.extractLsb' 12 3 != 6#3
  && (p.getLsbD 21 || p.extractLsb' 22 4 == 0#4)
  && (p.getLsbD 15 || (p.extractLsb' 16 4 == 0#4 && !p.getLsbD 20))

/-- The immediate field descriptors that BFX and BFI accept (R98). -/
def fieldDescOk : Src → Bool
  | .reg _ => true
  | .imm v => v.extractLsb' 14 34 == 0#34 && v.extractLsb' 6 2 == 0#2

/-- Widths of the atomics (R222). -/
def amoWidthOk : AmoFn → Width → Bool
  | .fadd, w => w == .b32
  | .bfadd, w => w == .b16
  | _, w => w == .b32 || w == .b64

/-- Widths of the compare-and-swaps (R218). -/
def casWidthOk (w : Width) : Bool := w == .b32 || w == .b64

/-- A positive finite normal FP32 value (R154). -/
def posNormalBits (t : BitVec 32) : Bool :=
  !t.getLsbD 31 && t.extractLsb' 23 8 != 0#8 && t.extractLsb' 23 8 != 0xFF#8

/-- Opcodes that Table 1 does not assign (R57). -/
def opcUnassigned (o : BitVec 8) : Bool :=
  let n := o.toNat
  (0x0A ≤ n && n ≤ 0x0F) || (0x2D ≤ n && n ≤ 0x2F) || (0x3C ≤ n && n ≤ 0x3F) || (0x46 ≤ n && n ≤ 0x4F)
  || (0x56 ≤ n && n ≤ 0x5F) || (0x6A ≤ n && n ≤ 0x6F) || (0x7C ≤ n && n ≤ 0x7F) || (0x88 ≤ n && n ≤ 0x8F)
  || (0x98 ≤ n && n ≤ 0x9F) || n == 0xB6 || n == 0xB7 || (0xC3 ≤ n && n ≤ 0xC7) || (0xCD ≤ n && n ≤ 0xCF)
  || (0xD5 ≤ n && n ≤ 0xDF) || 0xE7 ≤ n

/-- The operand constraints of each form. Steps of hardware units and of outside parties have no encoding and no constraint. -/
def WellFormed : Instr → Bool
  | .pfx p => prefixOk p
  | .rdcyc d (some c) => d != c
  | .qget _ q _ => q.val % 2 == 1
  | .qput q _ => q.val % 2 == 0
  | .seq o => !o.s
  | .bfx _ _ b _ => fieldDescOk b
  | .bfi _ _ b _ => fieldDescOk b
  | .li _ v s hi => !hi || (!s && v.extractLsb' 16 32 == 0#32)
  | .br c _ b _ => (c != .z && c != .nz) || b == 0
  | .ldp m => m.d != m.c
  | .amo fn m => amoWidthOk fn m.w
  | .cas m => casWidthOk m.w
  | .ldv m => m.vc == .vc0
  | .stv m => m.vc == .vc0
  | .amog m => amoWidthOk m.fn m.w && (if m.post then m.d == 0 else m.col == 0)
  | .amov m => amoWidthOk m.fn m.w && (if m.post then m.d == 0 else m.col == 0) && m.vc == .vc0
  | .casg m => casWidthOk m.w
  | .casv m => casWidthOk m.w && m.vc == .vc0
  | .ldx m => (m.ak == .glob || m.vc == .vc0) && (m.ak == .glob || m.ak == .virt || !m.acq)
  | .stx m => (m.ak == .glob || m.vc == .vc0) && (m.ak == .glob || m.ak == .virt || (!m.rel && m.col == 0))
  | .send m => (m.n != 0 || m.c == 0) && (!m.stg || (!m.pr && m.slot == 0))
  | .spawn m => (m.n != 0 || m.c == 0) && pc16Ok m.target
  | .arm _ _ t => pc16Ok t
  | .vbcast v q => !q || v.a == 0
  | .vsamp _ _ _ t _ => posNormalBits t
  | .vtopk _ _ _ k _ => 1#16 ≤ k && k ≤ 256#16
  | .mdrainRem m => (!m.q || m.wk) && ((m.wk && !m.q) || m.c == 0)
  | .cpy m => m.b == 0
  | .cpyf m q => !q || m.b == 0
  | .epref _ len _ => 1#21 ≤ len && len ≤ 0x100000#21
  | .unassignedOpcode w => opcUnassigned (w.extractLsb' 88 8)
  | _ => true

end Sys2Proof
end

