-- ==== Sys2Proof/Decode.lean ====
section
/-! DEFINITION. The fields of an instruction slot (R46, R47), the encoder and the decoder of the 151 major forms (R55), and
of the hart word LNCH (R305). The decoder reads a candidate from the fields that a form names; the slot is that instruction
only if every other bit is as the encoder leaves it (zero: R49) and the operand constraints hold (R57). -/

namespace Sys2Proof

/-- The fields of a slot (R46, R47). -/
structure Fields where
  opc : BitVec 8
  fn  : BitVec 8 := 0#8
  d   : Reg := 0
  a   : Reg := 0
  b   : Reg := 0
  c   : Reg := 0
  i   : Bool := false
  w   : BitVec 2 := 0#2
  col : Fin 8 := 0
  wd  : BitVec 2 := 0#2
  s   : Bool := false
  n   : Bool := false
  opb : BitVec 6 := 0#6
  imm : BitVec 48 := 0#48
  deriving DecidableEq, Repr, Inhabited

/-- A slot's fields as its 96 bits (R46). -/
def pack (f : Fields) : Slot96 :=
  f.opc ++ f.fn ++ BitVec.ofFin (w := 4) f.d ++ BitVec.ofFin (w := 4) f.a ++ BitVec.ofFin (w := 4) f.b
  ++ BitVec.ofFin (w := 4) f.c ++ BitVec.ofBool f.i ++ f.w ++ BitVec.ofFin (w := 3) f.col ++ f.wd
  ++ BitVec.ofBool f.s ++ BitVec.ofBool f.n ++ f.opb ++ f.imm

/-- The fields of 96 bits (R46). -/
def unpack (x : Slot96) : Fields where
  opc := x.extractLsb' 88 8
  fn  := x.extractLsb' 80 8
  d   := (x.extractLsb' 76 4).toFin
  a   := (x.extractLsb' 72 4).toFin
  b   := (x.extractLsb' 68 4).toFin
  c   := (x.extractLsb' 64 4).toFin
  i   := x.getLsbD 63
  w   := x.extractLsb' 61 2
  col := (x.extractLsb' 58 3).toFin
  wd  := x.extractLsb' 56 2
  s   := x.getLsbD 55
  n   := x.getLsbD 54
  opb := x.extractLsb' 48 6
  imm := x.extractLsb' 0 48

/-! ## Codes of the small fields -/

/-- WD (R47). -/
def Width.code : Width → BitVec 2
  | .b8 => 0#2 | .b16 => 1#2 | .b32 => 2#2 | .b64 => 3#2
/-- WD read back. -/
def widthOf (x : BitVec 2) : Width :=
  if x = 0#2 then .b8 else if x = 1#2 then .b16 else if x = 2#2 then .b32 else .b64
/-- WD of a scalar floating-point form (R103). -/
def fpCode (dbl : Bool) : BitVec 2 := if dbl then 3#2 else 2#2
/-- W (R47). -/
def WCls.code : WCls → BitVec 2
  | .none => 0#2 | .tile => 1#2 | .edge => 2#2 | .net => 3#2
/-- W read back. -/
def wclsOf (x : BitVec 2) : WCls :=
  if x = 0#2 then .none else if x = 1#2 then .tile else if x = 2#2 then .edge else .net
/-- SP (R111). -/
def LSpace.code : LSpace → BitVec 2
  | .data => 0#2 | .act => 1#2 | .ctl => 2#2
/-- SP read back; the reserved code differs from its encoding and is refused. -/
def lspaceOf (x : BitVec 2) : LSpace :=
  if x = 0#2 then .data else if x = 1#2 then .act else .ctl
/-- OPB[53:52] (R218). -/
def VcSel.code : VcSel → BitVec 2
  | .vc0 => 0#2 | .vc5 => 1#2 | .vc6 => 2#2 | .vc7 => 3#2
/-- OPB[53:52] read back. -/
def vcOf (x : BitVec 2) : VcSel :=
  if x = 0#2 then .vc0 else if x = 1#2 then .vc5 else if x = 2#2 then .vc6 else .vc7
/-- AK (R352). -/
def AddrKind.code : AddrKind → BitVec 2
  | .data => 0#2 | .act => 1#2 | .glob => 2#2 | .virt => 3#2
/-- AK read back. -/
def addrKindOf (x : BitVec 2) : AddrKind :=
  if x = 0#2 then .data else if x = 1#2 then .act else if x = 2#2 then .glob else .virt
/-- K of ACQ (R237). -/
def AcqKind.code : AcqKind → BitVec 2
  | .rd => 0#2 | .ge => 1#2 | .eq => 2#2 | .lk => 3#2
/-- K of ACQ read back. -/
def acqKindOf (x : BitVec 2) : AcqKind :=
  if x = 0#2 then .rd else if x = 1#2 then .ge else if x = 2#2 then .eq else .lk
/-- SC (R237). -/
def Scope.code : Scope → BitVec 2
  | .part => 0#2 | .tile => 1#2 | .wafer => 2#2 | .sys => 3#2
/-- SC read back. -/
def scopeOf (x : BitVec 2) : Scope :=
  if x = 0#2 then .part else if x = 1#2 then .tile else if x = 2#2 then .wafer else .sys
/-- The condition code of WAIT (R240). -/
def WaitCond.code : WaitCond → BitVec 3
  | .eq => 0#3 | .ne => 1#3 | .geu => 2#3 | .ltu => 3#3 | .any => 4#3
/-- The condition code read back. -/
def waitCondOf (x : BitVec 3) : WaitCond :=
  if x = 0#3 then .eq else if x = 1#3 then .ne else if x = 2#3 then .geu else if x = 3#3 then .ltu else .any
/-- SPC of BDEF (R229). -/
def BlankSpc.code : BlankSpc → BitVec 3
  | .wgt => 2#3 | .act => 3#3 | .acc => 4#3
/-- SPC of BDEF read back. -/
def blankSpcOf (x : BitVec 3) : BlankSpc :=
  if x = 2#3 then .wgt else if x = 3#3 then .act else .acc
/-- SPC of PHINT (R372). -/
def HintSpc.code : HintSpc → BitVec 3
  | .data => 1#3 | .wgt => 2#3 | .act => 3#3 | .acc => 4#3
/-- SPC of PHINT read back. -/
def hintSpcOf (x : BitVec 3) : HintSpc :=
  if x = 1#3 then .data else if x = 2#3 then .wgt else if x = 3#3 then .act else .acc
/-- FN of BR (R56). -/
def BrCond.code : BrCond → BitVec 8
  | .eq => 0#8 | .ne => 1#8 | .lt => 2#8 | .ge => 3#8 | .ltu => 4#8 | .geu => 5#8 | .z => 6#8 | .nz => 7#8
/-- FN of BR read back; a code of no condition, which the decoder refuses, stands as `.nz` (in pairing, log 56). -/
def brCondOf (x : BitVec 8) : BrCond :=
  if x = 0#8 then .eq else if x = 1#8 then .ne else if x = 2#8 then .lt else if x = 3#8 then .ge
  else if x = 4#8 then .ltu else if x = 5#8 then .geu else if x = 6#8 then .z else .nz
/-- FN of the atomics (R56). -/
def AmoFn.code : AmoFn → BitVec 8
  | .add => 0#8 | .and => 1#8 | .or => 2#8 | .xor => 3#8 | .swap => 4#8 | .smin => 5#8 | .smax => 6#8
  | .umin => 7#8 | .umax => 8#8 | .fadd => 9#8 | .bfadd => 10#8
/-- FN of the atomics read back. -/
def amoFnOf (x : BitVec 8) : AmoFn :=
  if x = 0#8 then .add else if x = 1#8 then .and else if x = 2#8 then .or else if x = 3#8 then .xor
  else if x = 4#8 then .swap else if x = 5#8 then .smin else if x = 6#8 then .smax else if x = 7#8 then .umin
  else if x = 8#8 then .umax else if x = 9#8 then .fadd else .bfadd
/-- FN of FCMP and VCMP (R56). -/
def FRel.code : FRel → BitVec 8
  | .eq => 0#8 | .ne => 1#8 | .lt => 2#8 | .le => 3#8 | .gt => 4#8 | .ge => 5#8 | .un => 6#8 | .ord => 7#8
/-- FN of FCMP and VCMP read back. -/
def frelOf (x : BitVec 8) : FRel :=
  if x = 0#8 then .eq else if x = 1#8 then .ne else if x = 2#8 then .lt else if x = 3#8 then .le
  else if x = 4#8 then .gt else if x = 5#8 then .ge else if x = 6#8 then .un else .ord
/-- FN of FCVT (R56). -/
def CvtFn.code : CvtFn → BitVec 8
  | .ff => 0#8 | .fsi => 1#8 | .fui => 2#8 | .sif => 3#8 | .uif => 4#8
/-- FN of FCVT read back. -/
def cvtFnOf (x : BitVec 8) : CvtFn :=
  if x = 0#8 then .ff else if x = 1#8 then .fsi else if x = 2#8 then .fui else if x = 3#8 then .sif else .uif
/-- FN of FSGN (R56). -/
def SgnFn.code : SgnFn → BitVec 8
  | .sgn => 0#8 | .nsg => 1#8 | .xsg => 2#8
/-- FN of FSGN read back. -/
def sgnFnOf (x : BitVec 8) : SgnFn :=
  if x = 0#8 then .sgn else if x = 1#8 then .nsg else .xsg
/-- FN of VRED, VSCAN and RTRE (R56). -/
def RedFn.code : RedFn → BitVec 8
  | .add => 0#8 | .min => 1#8 | .max => 2#8
/-- FN of VRED, VSCAN and RTRE read back. -/
def redFnOf (x : BitVec 8) : RedFn :=
  if x = 0#8 then .add else if x = 1#8 then .min else .max

/-- One OPB bit, by its number 0 to 5 above bit 48. -/
def opbBit (k : Nat) (x : Bool) : BitVec 6 := if x then BitVec.twoPow 6 k else 0#6

/-- Operand b put into a slot's fields (R50). -/
def Fields.withB (f : Fields) : Src → Fields
  | .reg r => { f with b := r, i := false }
  | .imm v => { f with i := true, imm := v }

/-- Operand b of a slot's fields (R50). -/
def Fields.src (f : Fields) : Src := if f.i then .imm f.imm else .reg f.b

/-- A blank number put into a slot's fields (R229). -/
def Fields.withBlank (f : Fields) : BlankRef → Fields
  | .reg r => { f with b := r, i := false }
  | .imm n => { f with i := true, imm := BitVec.ofNat 48 n.val }

/-- The blank number of a slot's fields; an immediate of 64 or more differs from its encoding and is refused. -/
def Fields.blank (f : Fields) : BlankRef :=
  if f.i then .imm (Fin.ofNat 64 f.imm.toNat) else .reg f.b

/-- The token and notify bit of an engine instruction, with imm48[31:0] (R51). -/
def Fields.withTok (f : Fields) (t : Tok) (low : BitVec 32 := 0#32) : Fields :=
  { f with n := t.n, imm := t.tok ++ low }

/-- The token and notify bit of a slot's fields. -/
def Fields.tok (f : Fields) : Tok := ⟨f.n, f.imm.extractLsb' 32 16⟩

/-- imm48[31:0] of a slot's fields. -/
def Fields.low (f : Fields) : BitVec 32 := f.imm.extractLsb' 0 32

/-- One imm48 bit field as a number. -/
def Fields.immNat (f : Fields) (lo len : Nat) : Nat := (f.imm.extractLsb' lo len).toNat

/-- The fields of a tile instruction; none for the hart instruction and for the steps of units, which have no slot. -/
def encodeFields : Instr → Option Fields
  | .nop => some (({ opc := 0x00#8 } : Fields))
  | .pfx p => some (({ opc := 0x01#8, imm := 0#16 ++ p } : Fields))
  | .trap e => some (({ opc := 0x02#8, imm := e } : Fields))
  | .tret => some (({ opc := 0x03#8 } : Fields))
  | .rdw d x => some (({ opc := 0x04#8, d := d, imm := 0#36 ++ x } : Fields))
  | .wrw x a => some (({ opc := 0x05#8, a := a, imm := 0#36 ++ x } : Fields))
  | .rdcyc d c => some (({ opc := 0x06#8, d := d, c := c.getD 0, opb := opbBit 0 c.isSome } : Fields))
  | .brk e => some (({ opc := 0x07#8, imm := e } : Fields))
  | .qget d q t => some (({ opc := 0x08#8, d := d, a := Fin.castLE (by decide) q, opb := opbBit 0 t } : Fields))
  | .qput q a => some (({ opc := 0x09#8, d := Fin.castLE (by decide) q, a := a } : Fields))
  | .add o => some (({ opc := 0x10#8, d := o.d, a := o.a, wd := o.w.code, s := o.s } : Fields).withB o.b)
  | .sub o => some (({ opc := 0x11#8, d := o.d, a := o.a, wd := o.w.code, s := o.s } : Fields).withB o.b)
  | .mul o => some (({ opc := 0x12#8, d := o.d, a := o.a, wd := o.w.code, s := o.s } : Fields).withB o.b)
  | .mulh o => some (({ opc := 0x13#8, d := o.d, a := o.a, wd := o.w.code, s := o.s } : Fields).withB o.b)
  | .div o => some (({ opc := 0x14#8, d := o.d, a := o.a, wd := o.w.code, s := o.s } : Fields).withB o.b)
  | .rem o => some (({ opc := 0x15#8, d := o.d, a := o.a, wd := o.w.code, s := o.s } : Fields).withB o.b)
  | .and o => some (({ opc := 0x16#8, d := o.d, a := o.a, wd := o.w.code, s := o.s } : Fields).withB o.b)
  | .or o => some (({ opc := 0x17#8, d := o.d, a := o.a, wd := o.w.code, s := o.s } : Fields).withB o.b)
  | .xor o => some (({ opc := 0x18#8, d := o.d, a := o.a, wd := o.w.code, s := o.s } : Fields).withB o.b)
  | .andn o => some (({ opc := 0x19#8, d := o.d, a := o.a, wd := o.w.code, s := o.s } : Fields).withB o.b)
  | .shl o => some (({ opc := 0x1A#8, d := o.d, a := o.a, wd := o.w.code, s := o.s } : Fields).withB o.b)
  | .shr o => some (({ opc := 0x1B#8, d := o.d, a := o.a, wd := o.w.code, s := o.s } : Fields).withB o.b)
  | .sra o => some (({ opc := 0x1C#8, d := o.d, a := o.a, wd := o.w.code, s := o.s } : Fields).withB o.b)
  | .rot o => some (({ opc := 0x1D#8, d := o.d, a := o.a, wd := o.w.code, s := o.s } : Fields).withB o.b)
  | .min o => some (({ opc := 0x1E#8, d := o.d, a := o.a, wd := o.w.code, s := o.s } : Fields).withB o.b)
  | .max o => some (({ opc := 0x1F#8, d := o.d, a := o.a, wd := o.w.code, s := o.s } : Fields).withB o.b)
  | .slt o => some (({ opc := 0x20#8, d := o.d, a := o.a, wd := o.w.code, s := o.s } : Fields).withB o.b)
  | .seq o => some (({ opc := 0x21#8, d := o.d, a := o.a, wd := o.w.code, s := o.s } : Fields).withB o.b)
  | .sel o c => some (({ opc := 0x22#8, d := o.d, a := o.a, c := c, wd := o.w.code, s := o.s } : Fields).withB o.b)
  | .clz o => some (({ opc := 0x23#8, d := o.d, a := o.a, wd := o.w.code } : Fields))
  | .ctz o => some (({ opc := 0x24#8, d := o.d, a := o.a, wd := o.w.code } : Fields))
  | .popc o => some (({ opc := 0x25#8, d := o.d, a := o.a, wd := o.w.code } : Fields))
  | .bfx d a b s => some (({ opc := 0x26#8, d := d, a := a, wd := 3#2, s := s } : Fields).withB b)
  | .bfi d a b c => some (({ opc := 0x27#8, d := d, a := a, c := c, wd := 3#2 } : Fields).withB b)
  | .li d v s hi => some (({ opc := 0x28#8, d := d, wd := 3#2, s := s, opb := opbBit 0 hi, imm := v } : Fields))
  | .addx d a b y ci => some (({ opc := 0x29#8, d := d, a := a, c := ci.getD 0, wd := 3#2, opb := opbBit 0 y ||| opbBit 1 ci.isSome } : Fields).withB b)
  | .subx d a b y ci => some (({ opc := 0x2A#8, d := d, a := a, c := ci.getD 0, wd := 3#2, opb := opbBit 0 y ||| opbBit 1 ci.isSome } : Fields).withB b)
  | .widx d j => some (({ opc := 0x2B#8, d := d, wd := 3#2, imm := BitVec.ofNat 48 j.val } : Fields))
  | .gta d a b spc pr => some (({ opc := 0x2C#8, d := d, a := a, wd := 3#2, opb := BitVec.ofNat 6 spc.val ||| opbBit 3 pr } : Fields).withB b)
  | .fadd o => some (({ opc := 0x30#8, d := o.d, a := o.a, wd := fpCode o.dbl } : Fields).withB o.b)
  | .fsub o => some (({ opc := 0x31#8, d := o.d, a := o.a, wd := fpCode o.dbl } : Fields).withB o.b)
  | .fmul o => some (({ opc := 0x32#8, d := o.d, a := o.a, wd := fpCode o.dbl } : Fields).withB o.b)
  | .fdiv o => some (({ opc := 0x34#8, d := o.d, a := o.a, wd := fpCode o.dbl } : Fields).withB o.b)
  | .fmin o => some (({ opc := 0x36#8, d := o.d, a := o.a, wd := fpCode o.dbl } : Fields).withB o.b)
  | .fmax o => some (({ opc := 0x37#8, d := o.d, a := o.a, wd := fpCode o.dbl } : Fields).withB o.b)
  | .fma o c => some (({ opc := 0x33#8, d := o.d, a := o.a, c := c, wd := fpCode o.dbl } : Fields).withB o.b)
  | .fsqrt d a dbl => some (({ opc := 0x35#8, d := d, a := a, wd := fpCode dbl } : Fields))
  | .fcmp r o => some (({ opc := 0x38#8, fn := r.code, d := o.d, a := o.a, wd := fpCode o.dbl } : Fields).withB o.b)
  | .fcvt r d a dbl => some (({ opc := 0x39#8, fn := r.code, d := d, a := a, wd := fpCode dbl } : Fields))
  | .fclass d a dbl => some (({ opc := 0x3A#8, d := d, a := a, wd := fpCode dbl } : Fields))
  | .fsgn r o => some (({ opc := 0x3B#8, fn := r.code, d := o.d, a := o.a, wd := fpCode o.dbl } : Fields).withB o.b)
  | .br k a b t => some (({ opc := 0x40#8, fn := k.code, a := a, b := b, wd := 3#2, imm := t } : Fields))
  | .jmp t => some (({ opc := 0x41#8, imm := t } : Fields))
  | .call t => some (({ opc := 0x42#8, imm := t } : Fields))
  | .ret => some (({ opc := 0x43#8 } : Fields))
  | .jr a => some (({ opc := 0x44#8, a := a } : Fields))
  | .loop d t => some (({ opc := 0x45#8, d := d, wd := 3#2, imm := t } : Fields))
  | .ld m sx => some (({ opc := 0x50#8, d := m.d, a := m.a, w := m.wc.code, wd := m.w.code, opb := 0#4 ++ m.sp.code, s := sx } : Fields).withB m.b)
  | .st m => some (({ opc := 0x51#8, d := m.d, a := m.a, w := m.wc.code, wd := m.w.code, opb := 0#4 ++ m.sp.code } : Fields).withB m.b)
  | .ldp m => some (({ opc := 0x52#8, d := m.d, a := m.a, c := m.c, w := m.wc.code, wd := 3#2, opb := 0#4 ++ m.sp.code } : Fields).withB m.b)
  | .stp m => some (({ opc := 0x53#8, d := m.d, a := m.a, c := m.c, w := m.wc.code, wd := 3#2, opb := 0#4 ++ m.sp.code } : Fields).withB m.b)
  | .amo r m => some (({ opc := 0x54#8, fn := r.code, d := m.d, a := m.a, c := m.c, w := m.wc.code, wd := m.w.code, opb := opbBit 0 m.act } : Fields).withB m.b)
  | .cas m => some (({ opc := 0x55#8, d := m.d, a := m.a, c := m.c, w := m.wc.code, wd := m.w.code, opb := opbBit 0 m.act } : Fields).withB m.b)
  | .ldg m => some (({ opc := 0x60#8, d := m.d, a := m.a, w := m.wc.code, wd := m.w.code, s := m.acq, opb := m.vc.code ++ 0#4 ||| opbBit 0 m.sx } : Fields).withB m.b)
  | .ldv m => some (({ opc := 0x62#8, d := m.d, a := m.a, w := m.wc.code, wd := m.w.code, s := m.acq, opb := m.vc.code ++ 0#4 ||| opbBit 0 m.sx } : Fields).withB m.b)
  | .stg m => some (({ opc := 0x61#8, d := m.d, a := m.a, w := m.wc.code, wd := m.w.code, s := m.rel, opb := m.vc.code ++ 0#4, col := m.col } : Fields).withB m.b)
  | .stv m => some (({ opc := 0x63#8, d := m.d, a := m.a, w := m.wc.code, wd := m.w.code, s := m.rel, opb := m.vc.code ++ 0#4, col := m.col } : Fields).withB m.b)
  | .amog m => some (({ opc := 0x64#8, fn := m.fn.code, d := m.d, a := m.a, c := m.c, w := m.wc.code, wd := m.w.code, s := m.ar, opb := m.vc.code ++ 0#4 ||| opbBit 1 m.post, col := m.col } : Fields).withB m.b)
  | .amov m => some (({ opc := 0x65#8, fn := m.fn.code, d := m.d, a := m.a, c := m.c, w := m.wc.code, wd := m.w.code, s := m.ar, opb := m.vc.code ++ 0#4 ||| opbBit 1 m.post, col := m.col } : Fields).withB m.b)
  | .casg m => some (({ opc := 0x66#8, d := m.d, a := m.a, c := m.c, w := m.wc.code, wd := m.w.code, s := m.acq, opb := m.vc.code ++ 0#4 } : Fields).withB m.b)
  | .casv m => some (({ opc := 0x67#8, d := m.d, a := m.a, c := m.c, w := m.wc.code, wd := m.w.code, s := m.acq, opb := m.vc.code ++ 0#4 } : Fields).withB m.b)
  | .ldx m => some (({ opc := 0x68#8, d := m.d, a := m.a, c := m.c, w := m.wc.code, wd := m.w.code, s := m.acq, opb := m.vc.code ++ 0#2 ++ m.ak.code ||| opbBit 2 m.sx } : Fields).withB m.b)
  | .stx m => some (({ opc := 0x69#8, d := m.d, a := m.a, c := m.c, w := m.wc.code, wd := m.w.code, s := m.rel, opb := m.vc.code ++ 0#2 ++ m.ak.code, col := m.col } : Fields).withB m.b)
  | .fence m wc => some (({ opc := 0x70#8, w := wc.code, imm := 0#40 ++ m } : Fields))
  | .waitc m wc => some (({ opc := 0x71#8, w := wc.code, imm := 0#45 ++ m } : Fields))
  | .acq m => some (({ opc := 0x72#8, d := m.d, a := m.a, c := m.c, w := m.wc.code, wd := 3#2, opb := 0#1 ++ m.sc.code ++ BitVec.ofBool m.v ++ m.kind.code } : Fields).withB m.b)
  | .rel m => some (({ opc := 0x73#8, a := m.a, c := m.c, w := m.wc.code, wd := 3#2, col := m.col, opb := 0#1 ++ m.sc.code ++ BitVec.ofBool m.v ++ 0#1 ++ BitVec.ofBool m.add } : Fields).withB m.b)
  | .bind m => some (({ opc := 0x74#8, a := m.a, b := m.b, c := m.c, opb := opbBit 0 m.gv ||| opbBit 1 m.rv, imm := BitVec.ofNat 48 m.k.val } : Fields))
  | .bdef a b spc n => some (({ opc := 0x75#8, a := a, b := b, opb := 0#3 ++ spc.code, imm := BitVec.ofNat 48 n.val } : Fields))
  | .bsetReady b => some (({ opc := 0x76#8 } : Fields).withBlank b)
  | .bsetFill b c => some (({ opc := 0x76#8, c := c, opb := opbBit 0 true } : Fields).withBlank b)
  | .bwait b e => some (({ opc := 0x77#8, opb := opbBit 0 e } : Fields).withBlank b)
  | .brel b => some (({ opc := 0x78#8 } : Fields).withBlank b)
  | .wait m => some (({ opc := 0x79#8, d := m.d, a := m.a, c := m.c, w := m.wc.code, wd := m.w.code, opb := 0#1 ++ m.cond.code ++ m.sp.code } : Fields).withB m.b)
  | .yield d => some (({ opc := 0x7A#8, d := d } : Fields))
  | .yieldQ d => some (({ opc := 0x7A#8, d := d, opb := opbBit 0 true } : Fields))
  | .phintSet a b spc n => some (({ opc := 0x7B#8, a := a, b := b, opb := 0#3 ++ spc.code, imm := BitVec.ofNat 48 n.val } : Fields))
  | .phintClr => some (({ opc := 0x7B#8, opb := 0b001000#6 } : Fields))
  | .phintAll => some (({ opc := 0x7B#8, opb := 0b010000#6 } : Fields))
  | .send m => some (({ opc := 0x80#8, a := m.a, b := m.b, c := m.c, w := m.wc.code, col := m.col, opb := opbBit 0 m.pr ||| opbBit 1 m.stg, imm := 0#34 ++ BitVec.ofNat 6 m.n.val ++ 0#4 ++ BitVec.ofFin (w := 4) m.slot } : Fields))
  | .spawn m => some (({ opc := 0x81#8, d := m.d, a := m.a, b := m.b, c := m.c, w := m.wc.code, col := m.col, opb := opbBit 0 m.pr ||| opbBit 1 m.stl, imm := 0#26 ++ BitVec.ofNat 6 m.n.val ++ m.target } : Fields))
  | .migr d a => some (({ opc := 0x82#8, d := d, a := a } : Fields))
  | .endt => some (({ opc := 0x83#8 } : Fields))
  | .arm a slot t => some (({ opc := 0x84#8, a := a, imm := 0#28 ++ BitVec.ofFin (w := 4) slot ++ t } : Fields))
  | .trig a slot => some (({ opc := 0x85#8, a := a, imm := 0#44 ++ BitVec.ofFin (w := 4) slot } : Fields))
  | .steal d a pr => some (({ opc := 0x86#8, d := d, a := a, opb := opbBit 0 pr } : Fields))
  | .launch d a => some (({ opc := 0x87#8, d := d, a := a } : Fields))
  | .taga d => some (({ opc := 0x90#8, d := d } : Fields))
  | .tagr d a => some (({ opc := 0x91#8, d := d, a := a } : Fields))
  | .tags a => some (({ opc := 0x92#8, a := a } : Fields))
  | .tagq d a => some (({ opc := 0x93#8, d := d, a := a } : Fields))
  | .vpub d a w => some (({ opc := 0x94#8, d := d, a := a, imm := BitVec.ofNat 48 w.val } : Fields))
  | .vsw a w => some (({ opc := 0x95#8, a := a, imm := BitVec.ofNat 48 w.val } : Fields))
  | .vswLat w => some (({ opc := 0x95#8, opb := opbBit 0 true, imm := BitVec.ofNat 48 w.val } : Fields))
  | .vget d w => some (({ opc := 0x96#8, d := d, imm := BitVec.ofNat 48 w.val } : Fields))
  | .vgetHome d w => some (({ opc := 0x96#8, d := d, opb := opbBit 0 true, imm := BitVec.ofNat 48 w.val } : Fields))
  | .vpin a => some (({ opc := 0x97#8, a := a } : Fields))
  | .vpinOff => some (({ opc := 0x97#8, opb := opbBit 0 true } : Fields))
  | .vadd v => some (({ opc := 0xA0#8, d := v.d, a := v.a, b := v.b, opb := opbBit 0 v.wrap } : Fields).withTok v.tk)
  | .vsub v => some (({ opc := 0xA1#8, d := v.d, a := v.a, b := v.b, opb := opbBit 0 v.wrap } : Fields).withTok v.tk)
  | .vmul v => some (({ opc := 0xA2#8, d := v.d, a := v.a, b := v.b, opb := opbBit 0 v.wrap } : Fields).withTok v.tk)
  | .vfma v => some (({ opc := 0xA3#8, d := v.d, a := v.a, b := v.b, c := v.c, opb := opbBit 0 v.wrap } : Fields).withTok v.tk)
  | .vmin v => some (({ opc := 0xA4#8, d := v.d, a := v.a, b := v.b } : Fields).withTok v.tk)
  | .vmax v => some (({ opc := 0xA5#8, d := v.d, a := v.a, b := v.b } : Fields).withTok v.tk)
  | .vand v => some (({ opc := 0xAB#8, d := v.d, a := v.a, b := v.b } : Fields).withTok v.tk)
  | .vor v => some (({ opc := 0xAC#8, d := v.d, a := v.a, b := v.b } : Fields).withTok v.tk)
  | .vxor v => some (({ opc := 0xAD#8, d := v.d, a := v.a, b := v.b } : Fields).withTok v.tk)
  | .vgath v => some (({ opc := 0xB3#8, d := v.d, a := v.a, b := v.b } : Fields).withTok v.tk)
  | .vscat v => some (({ opc := 0xB4#8, d := v.d, a := v.a, b := v.b } : Fields).withTok v.tk)
  | .vabs v => some (({ opc := 0xA6#8, d := v.d, a := v.a, opb := opbBit 0 v.wrap } : Fields).withTok v.tk)
  | .vneg v => some (({ opc := 0xA7#8, d := v.d, a := v.a, opb := opbBit 0 v.wrap } : Fields).withTok v.tk)
  | .vcvt v => some (({ opc := 0xA8#8, d := v.d, a := v.a, opb := opbBit 0 v.wrap } : Fields).withTok v.tk)
  | .vcmp r v => some (({ opc := 0xA9#8, fn := r.code, d := v.d, a := v.a, b := v.b } : Fields).withTok v.tk)
  | .vsel v => some (({ opc := 0xAA#8, d := v.d, a := v.a, b := v.b, c := v.c } : Fields).withTok v.tk)
  | .vpack v => some (({ opc := 0xB5#8, d := v.d, a := v.a, b := v.b, c := v.c } : Fields).withTok v.tk)
  | .vshl d a (.shape b) tk => some (({ opc := 0xAE#8, d := d, a := a, b := b } : Fields).withTok tk)
  | .vshl d a (.imm e) tk => some (({ opc := 0xAE#8, d := d, a := a, opb := opbBit 1 true } : Fields).withTok tk (0#27 ++ e))
  | .vshr d a (.shape b) ar tk => some (({ opc := 0xAF#8, d := d, a := a, b := b, s := ar } : Fields).withTok tk)
  | .vshr d a (.imm e) ar tk => some (({ opc := 0xAF#8, d := d, a := a, opb := opbBit 1 true, s := ar } : Fields).withTok tk (0#27 ++ e))
  | .vmov v => some (({ opc := 0xB0#8, d := v.d, a := v.a } : Fields).withTok v.tk)
  | .vexp v => some (({ opc := 0xB8#8, d := v.d, a := v.a } : Fields).withTok v.tk)
  | .vlog v => some (({ opc := 0xB9#8, d := v.d, a := v.a } : Fields).withTok v.tk)
  | .vrcp v => some (({ opc := 0xBA#8, d := v.d, a := v.a } : Fields).withTok v.tk)
  | .vrsqrt v => some (({ opc := 0xBB#8, d := v.d, a := v.a } : Fields).withTok v.tk)
  | .vtanh v => some (({ opc := 0xBC#8, d := v.d, a := v.a } : Fields).withTok v.tk)
  | .vsigm v => some (({ opc := 0xBD#8, d := v.d, a := v.a } : Fields).withTok v.tk)
  | .vbcast v q => some (({ opc := 0xB1#8, d := v.d, a := v.a, opb := opbBit 0 q } : Fields).withTok v.tk)
  | .viota d st wrap tk => some (({ opc := 0xB2#8, d := d, opb := opbBit 0 wrap } : Fields).withTok tk st)
  | .vred r v all => some (({ opc := 0xBE#8, fn := r.code, d := v.d, a := v.a, opb := opbBit 0 all } : Fields).withTok v.tk)
  | .vscan r v hf excl => some (({ opc := 0xBF#8, fn := r.code, d := v.d, a := v.a, b := hf.getD 0, opb := opbBit 0 excl ||| opbBit 1 hf.isSome } : Fields).withTok v.tk)
  | .vsamp d a c t tk => some (({ opc := 0xC0#8, d := d, a := a, c := c } : Fields).withTok tk t)
  | .vdraw d raw tk => some (({ opc := 0xC1#8, d := d, opb := opbBit 0 raw } : Fields).withTok tk)
  | .vtopk d a c k tk => some (({ opc := 0xC2#8, d := d, a := a, c := c } : Fields).withTok tk (0#16 ++ k))
  | .mcfg rs ia tk => some (({ opc := 0xC8#8, opb := opbBit 0 rs ||| opbBit 1 ia } : Fields).withTok tk)
  | .mload a west tk => some (({ opc := 0xC9#8, a := a, opb := opbBit 0 west } : Fields).withTok tk)
  | .mzero tk => some (({ opc := 0xCA#8 } : Fields).withTok tk)
  | .mmul d a acc tk => some (({ opc := 0xCB#8, d := d, a := a, opb := opbBit 0 acc } : Fields).withTok tk)
  | .mmulRs a b tk => some (({ opc := 0xCB#8, a := a, b := b, opb := opbBit 1 true } : Fields).withTok tk)
  | .mdrain d keep tk => some (({ opc := 0xCC#8, d := d, opb := opbBit 2 keep } : Fields).withTok tk)
  | .mdrainRem m => some (({ opc := 0xCC#8, a := m.a, c := m.c, col := m.col, opb := opbBit 0 true ||| opbBit 2 m.keep ||| opbBit 3 m.pr ||| opbBit 4 m.wk ||| opbBit 5 m.q } : Fields).withTok m.tk
      (0#8 ++ BitVec.ofFin (w := 4) m.slot ++ 0#2 ++ m.ofs))
  | .mdrainTree slot keep tk => some (({ opc := 0xCC#8, opb := opbBit 1 true ||| opbBit 2 keep } : Fields).withTok tk (0#24 ++ slot))
  | .cpy m => some (({ opc := 0xD0#8, a := m.a, b := m.b, col := m.col } : Fields).withTok m.tk)
  | .cpyf m q => some (({ opc := 0xD1#8, a := m.a, b := m.b, col := m.col, opb := opbBit 0 q } : Fields).withTok m.tk)
  | .cpyg m => some (({ opc := 0xD2#8, a := m.a, b := m.b, col := m.col } : Fields).withTok m.tk)
  | .egemv d a b tk => some (({ opc := 0xD3#8, d := d, a := a, b := b } : Fields).withTok tk)
  | .epref a len tk => some (({ opc := 0xD4#8, a := a } : Fields).withTok tk (0#11 ++ len))
  | .nsend a col tk => some (({ opc := 0xE0#8, a := a, col := col } : Fields).withTok tk)
  | .nput a col tk => some (({ opc := 0xE1#8, a := a, col := col } : Fields).withTok tk)
  | .nget a col tk => some (({ opc := 0xE2#8, a := a, col := col } : Fields).withTok tk)
  | .nctrRd d ctr => some (({ opc := 0xE3#8, d := d, imm := BitVec.ofNat 48 ctr.val } : Fields))
  | .nctrWt d a ctr => some (({ opc := 0xE3#8, fn := 1#8, d := d, a := a, imm := BitVec.ofNat 48 ctr.val } : Fields))
  | .nrecv a tk => some (({ opc := 0xE4#8, a := a } : Fields).withTok tk)
  | .rtre r a slot tk => some (({ opc := 0xE5#8, fn := r.code, a := a } : Fields).withTok tk (0#24 ++ slot))
  | .rwait d a slot => some (({ opc := 0xE6#8, d := d, a := a, imm := 0#40 ++ slot } : Fields))
  | .unassignedOpcode w => some (unpack w)
  | _ => none

/-- The instruction that the fields named by a form give, before its checks; none for an unassigned opcode. -/
def candidate (f : Fields) : Option Instr :=
  match f.opc.toNat with
  | 0x00 => some (.nop)
  | 0x01 => some (.pfx f.low)
  | 0x02 => some (.trap f.imm)
  | 0x03 => some (.tret)
  | 0x04 => some (.rdw f.d (f.imm.extractLsb' 0 12))
  | 0x05 => some (.wrw (f.imm.extractLsb' 0 12) f.a)
  | 0x06 => some (.rdcyc f.d (if f.opb.getLsbD 0 then some f.c else none))
  | 0x07 => some (.brk f.imm)
  | 0x08 => some (.qget f.d (Fin.ofNat 8 f.a.val) (f.opb.getLsbD 0))
  | 0x09 => some (.qput (Fin.ofNat 8 f.d.val) f.a)
  | 0x10 => some (.add ⟨f.d, f.a, f.src, widthOf f.wd, f.s⟩)
  | 0x11 => some (.sub ⟨f.d, f.a, f.src, widthOf f.wd, f.s⟩)
  | 0x12 => some (.mul ⟨f.d, f.a, f.src, widthOf f.wd, f.s⟩)
  | 0x13 => some (.mulh ⟨f.d, f.a, f.src, widthOf f.wd, f.s⟩)
  | 0x14 => some (.div ⟨f.d, f.a, f.src, widthOf f.wd, f.s⟩)
  | 0x15 => some (.rem ⟨f.d, f.a, f.src, widthOf f.wd, f.s⟩)
  | 0x16 => some (.and ⟨f.d, f.a, f.src, widthOf f.wd, f.s⟩)
  | 0x17 => some (.or ⟨f.d, f.a, f.src, widthOf f.wd, f.s⟩)
  | 0x18 => some (.xor ⟨f.d, f.a, f.src, widthOf f.wd, f.s⟩)
  | 0x19 => some (.andn ⟨f.d, f.a, f.src, widthOf f.wd, f.s⟩)
  | 0x1A => some (.shl ⟨f.d, f.a, f.src, widthOf f.wd, f.s⟩)
  | 0x1B => some (.shr ⟨f.d, f.a, f.src, widthOf f.wd, f.s⟩)
  | 0x1C => some (.sra ⟨f.d, f.a, f.src, widthOf f.wd, f.s⟩)
  | 0x1D => some (.rot ⟨f.d, f.a, f.src, widthOf f.wd, f.s⟩)
  | 0x1E => some (.min ⟨f.d, f.a, f.src, widthOf f.wd, f.s⟩)
  | 0x1F => some (.max ⟨f.d, f.a, f.src, widthOf f.wd, f.s⟩)
  | 0x20 => some (.slt ⟨f.d, f.a, f.src, widthOf f.wd, f.s⟩)
  | 0x21 => some (.seq ⟨f.d, f.a, f.src, widthOf f.wd, f.s⟩)
  | 0x22 => some (.sel ⟨f.d, f.a, f.src, widthOf f.wd, f.s⟩ f.c)
  | 0x23 => some (.clz ⟨f.d, f.a, widthOf f.wd⟩)
  | 0x24 => some (.ctz ⟨f.d, f.a, widthOf f.wd⟩)
  | 0x25 => some (.popc ⟨f.d, f.a, widthOf f.wd⟩)
  | 0x26 => some (.bfx f.d f.a f.src f.s)
  | 0x27 => some (.bfi f.d f.a f.src f.c)
  | 0x28 => some (.li f.d f.imm f.s (f.opb.getLsbD 0))
  | 0x29 => some (.addx f.d f.a f.src (f.opb.getLsbD 0) (if f.opb.getLsbD 1 then some f.c else none))
  | 0x2A => some (.subx f.d f.a f.src (f.opb.getLsbD 0) (if f.opb.getLsbD 1 then some f.c else none))
  | 0x2B => some (.widx f.d (Fin.ofNat 6 (f.immNat 0 3)))
  | 0x2C => some (.gta f.d f.a f.src (Fin.ofNat 8 (f.opb.extractLsb' 0 3).toNat) (f.opb.getLsbD 3))
  | 0x30 => some (.fadd ⟨f.d, f.a, f.src, f.wd == 3#2⟩)
  | 0x31 => some (.fsub ⟨f.d, f.a, f.src, f.wd == 3#2⟩)
  | 0x32 => some (.fmul ⟨f.d, f.a, f.src, f.wd == 3#2⟩)
  | 0x34 => some (.fdiv ⟨f.d, f.a, f.src, f.wd == 3#2⟩)
  | 0x36 => some (.fmin ⟨f.d, f.a, f.src, f.wd == 3#2⟩)
  | 0x37 => some (.fmax ⟨f.d, f.a, f.src, f.wd == 3#2⟩)
  | 0x33 => some (.fma ⟨f.d, f.a, f.src, f.wd == 3#2⟩ f.c)
  | 0x35 => some (.fsqrt f.d f.a (f.wd == 3#2))
  | 0x38 => some (.fcmp (frelOf f.fn) ⟨f.d, f.a, f.src, f.wd == 3#2⟩)
  | 0x39 => some (.fcvt (cvtFnOf f.fn) f.d f.a (f.wd == 3#2))
  | 0x3A => some (.fclass f.d f.a (f.wd == 3#2))
  | 0x3B => some (.fsgn (sgnFnOf f.fn) ⟨f.d, f.a, f.src, f.wd == 3#2⟩)
  | 0x40 => some (.br (brCondOf f.fn) f.a f.b f.imm)
  | 0x41 => some (.jmp f.imm)
  | 0x42 => some (.call f.imm)
  | 0x43 => some (.ret)
  | 0x44 => some (.jr f.a)
  | 0x45 => some (.loop f.d f.imm)
  | 0x50 => some (.ld ⟨f.d, f.a, f.src, widthOf f.wd, lspaceOf (f.opb.extractLsb' 0 2), wclsOf f.w⟩ f.s)
  | 0x51 => some (.st ⟨f.d, f.a, f.src, widthOf f.wd, lspaceOf (f.opb.extractLsb' 0 2), wclsOf f.w⟩)
  | 0x52 => some (.ldp ⟨f.d, f.a, f.src, f.c, lspaceOf (f.opb.extractLsb' 0 2), wclsOf f.w⟩)
  | 0x53 => some (.stp ⟨f.d, f.a, f.src, f.c, lspaceOf (f.opb.extractLsb' 0 2), wclsOf f.w⟩)
  | 0x54 => some (.amo (amoFnOf f.fn) ⟨f.d, f.a, f.src, f.c, widthOf f.wd, f.opb.getLsbD 0, wclsOf f.w⟩)
  | 0x55 => some (.cas ⟨f.d, f.a, f.src, f.c, widthOf f.wd, f.opb.getLsbD 0, wclsOf f.w⟩)
  | 0x60 => some (.ldg ⟨f.d, f.a, f.src, widthOf f.wd, f.s, f.opb.getLsbD 0, (vcOf (f.opb.extractLsb' 4 2)), wclsOf f.w⟩)
  | 0x62 => some (.ldv ⟨f.d, f.a, f.src, widthOf f.wd, f.s, f.opb.getLsbD 0, (vcOf (f.opb.extractLsb' 4 2)), wclsOf f.w⟩)
  | 0x61 => some (.stg ⟨f.d, f.a, f.src, widthOf f.wd, f.s, (vcOf (f.opb.extractLsb' 4 2)), f.col, wclsOf f.w⟩)
  | 0x63 => some (.stv ⟨f.d, f.a, f.src, widthOf f.wd, f.s, (vcOf (f.opb.extractLsb' 4 2)), f.col, wclsOf f.w⟩)
  | 0x64 => some (.amog ⟨amoFnOf f.fn, f.d, f.a, f.src, f.c, widthOf f.wd, f.opb.getLsbD 1, f.s, (vcOf (f.opb.extractLsb' 4 2)), f.col, wclsOf f.w⟩)
  | 0x65 => some (.amov ⟨amoFnOf f.fn, f.d, f.a, f.src, f.c, widthOf f.wd, f.opb.getLsbD 1, f.s, (vcOf (f.opb.extractLsb' 4 2)), f.col, wclsOf f.w⟩)
  | 0x66 => some (.casg ⟨f.d, f.a, f.src, f.c, widthOf f.wd, f.s, (vcOf (f.opb.extractLsb' 4 2)), wclsOf f.w⟩)
  | 0x67 => some (.casv ⟨f.d, f.a, f.src, f.c, widthOf f.wd, f.s, (vcOf (f.opb.extractLsb' 4 2)), wclsOf f.w⟩)
  | 0x68 => some (.ldx ⟨f.d, f.a, f.src, f.c, widthOf f.wd, (addrKindOf (f.opb.extractLsb' 0 2)), f.s, f.opb.getLsbD 2, (vcOf (f.opb.extractLsb' 4 2)), wclsOf f.w⟩)
  | 0x69 => some (.stx ⟨f.d, f.a, f.src, f.c, widthOf f.wd, (addrKindOf (f.opb.extractLsb' 0 2)), f.s, (vcOf (f.opb.extractLsb' 4 2)), f.col, wclsOf f.w⟩)
  | 0x70 => some (.fence (f.imm.extractLsb' 0 8) (wclsOf f.w))
  | 0x71 => some (.waitc (f.imm.extractLsb' 0 3) (wclsOf f.w))
  | 0x72 => some (.acq ⟨acqKindOf (f.opb.extractLsb' 0 2), f.d, f.a, f.src, f.c, f.opb.getLsbD 2, scopeOf (f.opb.extractLsb' 3 2), wclsOf f.w⟩)
  | 0x73 => some (.rel ⟨f.opb.getLsbD 0, f.a, f.src, f.c, f.opb.getLsbD 2, scopeOf (f.opb.extractLsb' 3 2), f.col, wclsOf f.w⟩)
  | 0x74 => some (.bind ⟨f.a, f.b, f.c, Fin.ofNat 8 (f.immNat 0 3), f.opb.getLsbD 0, f.opb.getLsbD 1⟩)
  | 0x75 => some (.bdef f.a f.b (blankSpcOf (f.opb.extractLsb' 0 3)) (Fin.ofNat 64 (f.immNat 0 6)))
  | 0x76 => some (if f.opb.getLsbD 0 then .bsetFill f.blank f.c else .bsetReady f.blank)
  | 0x77 => some (.bwait f.blank (f.opb.getLsbD 0))
  | 0x78 => some (.brel f.blank)
  | 0x79 => some (.wait ⟨waitCondOf (f.opb.extractLsb' 2 3), f.d, f.a, f.src, f.c, widthOf f.wd, lspaceOf (f.opb.extractLsb' 0 2), wclsOf f.w⟩)
  | 0x7A => some (if f.opb.getLsbD 0 then .yieldQ f.d else .yield f.d)
  | 0x7B => some (if f.opb.extractLsb' 3 2 = 1#2 then .phintClr else if f.opb.extractLsb' 3 2 = 2#2 then .phintAll
    else .phintSet f.a f.b (hintSpcOf (f.opb.extractLsb' 0 3)) (Fin.ofNat 8 (f.immNat 0 3)))
  | 0x80 => some (.send ⟨f.a, f.b, f.c, (f.imm.extractLsb' 0 4).toFin, Fin.ofNat 33 (f.immNat 8 6), f.opb.getLsbD 0, f.opb.getLsbD 1, f.col, wclsOf f.w⟩)
  | 0x81 => some (.spawn ⟨f.d, f.a, f.b, f.c, f.imm.extractLsb' 0 16, Fin.ofNat 33 (f.immNat 16 6), f.opb.getLsbD 0, f.opb.getLsbD 1, f.col, wclsOf f.w⟩)
  | 0x82 => some (.migr f.d f.a)
  | 0x83 => some (.endt)
  | 0x84 => some (.arm f.a (f.imm.extractLsb' 16 4).toFin (f.imm.extractLsb' 0 16))
  | 0x85 => some (.trig f.a (f.imm.extractLsb' 0 4).toFin)
  | 0x86 => some (.steal f.d f.a (f.opb.getLsbD 0))
  | 0x87 => some (.launch f.d f.a)
  | 0x90 => some (.taga f.d)
  | 0x91 => some (.tagr f.d f.a)
  | 0x92 => some (.tags f.a)
  | 0x93 => some (.tagq f.d f.a)
  | 0x94 => some (.vpub f.d f.a (Fin.ofNat 64 (f.immNat 0 6)))
  | 0x95 => some (if f.opb.getLsbD 0 then .vswLat (Fin.ofNat 64 (f.immNat 0 6)) else .vsw f.a (Fin.ofNat 64 (f.immNat 0 6)))
  | 0x96 => some (if f.opb.getLsbD 0 then .vgetHome f.d (Fin.ofNat 64 (f.immNat 0 6)) else .vget f.d (Fin.ofNat 64 (f.immNat 0 6)))
  | 0x97 => some (if f.opb.getLsbD 0 then .vpinOff else .vpin f.a)
  | 0xA0 => some (.vadd ⟨f.d, f.a, f.b, f.opb.getLsbD 0, f.tok⟩)
  | 0xA1 => some (.vsub ⟨f.d, f.a, f.b, f.opb.getLsbD 0, f.tok⟩)
  | 0xA2 => some (.vmul ⟨f.d, f.a, f.b, f.opb.getLsbD 0, f.tok⟩)
  | 0xA3 => some (.vfma ⟨f.d, f.a, f.b, f.c, f.opb.getLsbD 0, f.tok⟩)
  | 0xA4 => some (.vmin ⟨f.d, f.a, f.b, f.tok⟩)
  | 0xA5 => some (.vmax ⟨f.d, f.a, f.b, f.tok⟩)
  | 0xAB => some (.vand ⟨f.d, f.a, f.b, f.tok⟩)
  | 0xAC => some (.vor ⟨f.d, f.a, f.b, f.tok⟩)
  | 0xAD => some (.vxor ⟨f.d, f.a, f.b, f.tok⟩)
  | 0xB3 => some (.vgath ⟨f.d, f.a, f.b, f.tok⟩)
  | 0xB4 => some (.vscat ⟨f.d, f.a, f.b, f.tok⟩)
  | 0xA6 => some (.vabs ⟨f.d, f.a, f.opb.getLsbD 0, f.tok⟩)
  | 0xA7 => some (.vneg ⟨f.d, f.a, f.opb.getLsbD 0, f.tok⟩)
  | 0xA8 => some (.vcvt ⟨f.d, f.a, f.opb.getLsbD 0, f.tok⟩)
  | 0xA9 => some (.vcmp (frelOf f.fn) ⟨f.d, f.a, f.b, f.tok⟩)
  | 0xAA => some (.vsel ⟨f.d, f.a, f.b, f.c, f.tok⟩)
  | 0xB5 => some (.vpack ⟨f.d, f.a, f.b, f.c, f.tok⟩)
  | 0xAE => some (.vshl f.d f.a (if f.opb.getLsbD 1 then .imm (f.imm.extractLsb' 0 5) else .shape f.b) f.tok)
  | 0xAF => some (.vshr f.d f.a (if f.opb.getLsbD 1 then .imm (f.imm.extractLsb' 0 5) else .shape f.b) f.s f.tok)
  | 0xB0 => some (.vmov ⟨f.d, f.a, f.tok⟩)
  | 0xB8 => some (.vexp ⟨f.d, f.a, f.tok⟩)
  | 0xB9 => some (.vlog ⟨f.d, f.a, f.tok⟩)
  | 0xBA => some (.vrcp ⟨f.d, f.a, f.tok⟩)
  | 0xBB => some (.vrsqrt ⟨f.d, f.a, f.tok⟩)
  | 0xBC => some (.vtanh ⟨f.d, f.a, f.tok⟩)
  | 0xBD => some (.vsigm ⟨f.d, f.a, f.tok⟩)
  | 0xB1 => some (.vbcast ⟨f.d, f.a, f.tok⟩ (f.opb.getLsbD 0))
  | 0xB2 => some (.viota f.d f.low (f.opb.getLsbD 0) f.tok)
  | 0xBE => some (.vred (redFnOf f.fn) ⟨f.d, f.a, f.tok⟩ (f.opb.getLsbD 0))
  | 0xBF => some (.vscan (redFnOf f.fn) ⟨f.d, f.a, f.tok⟩ (if f.opb.getLsbD 1 then some f.b else none) (f.opb.getLsbD 0))
  | 0xC0 => some (.vsamp f.d f.a f.c f.low f.tok)
  | 0xC1 => some (.vdraw f.d (f.opb.getLsbD 0) f.tok)
  | 0xC2 => some (.vtopk f.d f.a f.c (f.imm.extractLsb' 0 16) f.tok)
  | 0xC8 => some (.mcfg (f.opb.getLsbD 0) (f.opb.getLsbD 1) f.tok)
  | 0xC9 => some (.mload f.a (f.opb.getLsbD 0) f.tok)
  | 0xCA => some (.mzero f.tok)
  | 0xCB => some (if f.opb.getLsbD 1 then .mmulRs f.a f.b f.tok else .mmul f.d f.a (f.opb.getLsbD 0) f.tok)
  | 0xCC => some (if f.opb.getLsbD 1 then .mdrainTree (f.imm.extractLsb' 0 8) (f.opb.getLsbD 2) f.tok
    else if f.opb.getLsbD 0 then .mdrainRem ⟨f.a, f.c, f.opb.getLsbD 2, f.opb.getLsbD 3, f.opb.getLsbD 4, f.opb.getLsbD 5, f.col,
      f.imm.extractLsb' 0 18, (f.imm.extractLsb' 20 4).toFin, f.tok⟩
    else .mdrain f.d (f.opb.getLsbD 2) f.tok)
  | 0xD0 => some (.cpy ⟨f.a, 0, f.col, f.tok⟩)
  | 0xD1 => some (.cpyf ⟨f.a, f.b, f.col, f.tok⟩ (f.opb.getLsbD 0))
  | 0xD2 => some (.cpyg ⟨f.a, f.b, f.col, f.tok⟩)
  | 0xD3 => some (.egemv f.d f.a f.b f.tok)
  | 0xD4 => some (.epref f.a (f.imm.extractLsb' 0 21) f.tok)
  | 0xE0 => some (.nsend f.a f.col f.tok)
  | 0xE1 => some (.nput f.a f.col f.tok)
  | 0xE2 => some (.nget f.a f.col f.tok)
  | 0xE3 => some (if f.fn = 1#8 then .nctrWt f.d f.a (Fin.ofNat 32 (f.immNat 0 5)) else .nctrRd f.d (Fin.ofNat 32 (f.immNat 0 5)))
  | 0xE4 => some (.nrecv f.a f.tok)
  | 0xE5 => some (.rtre (redFnOf f.fn) f.a (f.imm.extractLsb' 0 8) f.tok)
  | 0xE6 => some (.rwait f.d f.a (f.imm.extractLsb' 0 8))
  | _ => none

/-- The decoder on fields: a form whose fields R49 leaves unused are not zero, or whose operands R57 refuses, is refused. -/
def decodeFields (f : Fields) : Option Instr :=
  let i := (candidate f).getD (.unassignedOpcode (pack f))
  if WellFormed i && encodeFields i == some f then some i else none

/-- The decoder of one 96-bit slot: total, refusing by `none` (R57: *illegal instruction*). -/
def decodeSlot (x : Slot96) : Option Instr := decodeFields (unpack x)

/-- The encoder of a tile instruction. -/
def encodeSlot (i : Instr) : Option Slot96 := (encodeFields i).map pack

/-- The hart word of LNCH (R305): rs2 = 0, funct7 = 0, funct3 = 0, opcode 0b0001011. -/
def encodeHart : Instr → Option (BitVec 32)
  | .lnch s d => some (0#12 ++ BitVec.ofFin (w := 5) s ++ 0#3 ++ BitVec.ofFin (w := 5) d ++ 0b0001011#7)
  | _ => none

/-- The decoder of a 32-bit hart word: LNCH alone (R305); any other word is refused. -/
def decodeHart (x : BitVec 32) : Option Instr :=
  let i := Instr.lnch (x.extractLsb' 15 5).toFin (x.extractLsb' 7 5).toFin
  if encodeHart i == some x then some i else none

/-- The instruction that the decoder reads from the bits `w` of an opcode-table row of `nbits` bits: a row of at most 32
bits is a hart word, any other a slot, whose least significant byte lies lowest (R33). -/
def decodeTableWord (nbits w : Nat) : Option Instr :=
  if nbits ≤ 32 then decodeHart (BitVec.ofNat 32 w) else decodeSlot (BitVec.ofNat 96 w)

end Sys2Proof
end

