-- ==== Sys2Proof/Config.lean ====
section
/-! DEFINITION. What the manual leaves open and what an implementation fixes: free values (no body, so nothing can
prove what they are) and the machine's sizes (00 R1, 01 R9, R20). -/

namespace Sys2Proof

/-- Who moves next: a strand of a tile, an island hart, or a unit or outside party that makes the step `e`. -/
inductive Mover
  | strand (t : TileId) (k : Fin 4)
  | hart (h : Fin 384)
  | event (e : Instr)
  deriving DecidableEq, Repr, Inhabited

/-- One turn: `dt` clks pass, then `who` moves (log 1, log 2). -/
structure Turn where
  dt  : Nat
  who : Mover
  deriving DecidableEq, Repr, Inhabited

namespace Config

/-- Which unit moves next, and how many clks pass, when the agenda names no turn (log 1). A free value. -/
opaque schedule : Nat → Turn

/-- A 64-bit value of the device's random source: BOOTID (R408). A free value (log 7). -/
opaque randomWord : Nat → BitVec 64

/-- 256 random bits of the device's random source: a tenant key (R410). A free value (log 7). -/
opaque randomKey : Nat → BitVec 256

/-- A bit of a failed or stopped operation: does this write land (R262, R402)? A free value (log 8). -/
opaque lands : Nat → Bool

/-- SHA3-256 (FIPS 202), named by R294 and not defined by the spec: uninterpreted (log 7). -/
opaque sha3 : List (BitVec 8) → BitVec 256

/-- Does the ML-DSA-44 signature verify over the digest under the public key with this digest (FIPS 204, R294)? (log 7) -/
opaque mldsaVerify : (keyId : BitVec 256) → (digest : BitVec 256) → (sig : List (BitVec 8)) → Bool

/-- An ML-DSA-44 signature, 2,420 bytes, under the key of the seed (FIPS 204, R409). (log 7) -/
opaque mldsaSign : (seed : BitVec 256) → (digest : BitVec 256) → List (BitVec 8)

/-- The ML-DSA-44 public key, 1,312 bytes, of the seed (FIPS 204, R386). (log 7) -/
opaque mldsaPublic : (seed : BitVec 256) → List (BitVec 8)

/-- AES-256-GCM: the sealed bytes of a plaintext under a key, an IV and the header bytes 0 to 47 (R374). (log 7) -/
opaque gcmBody : (key : BitVec 256) → (iv : BitVec 96) → (aad : List (BitVec 8)) → (plain : List (BitVec 8)) → List (BitVec 8)

/-- The authentication tag of the sealed plaintext (R374). (log 7) -/
opaque gcmTag : (key : BitVec 256) → (iv : BitVec 96) → (aad : List (BitVec 8)) → (plain : List (BitVec 8)) → BitVec 128

/-- The bytes of an opaque part of a saved image, as a function of what it holds (R373). A free value (log 8). -/
opaque imagePart {α : Type} : α → List (BitVec 8)

/-- TVAL of *wait expired* for a wait that R203 bounds and no table lists: 0, a push to a held queue; 1, a WRW of a generator word;
2, a push that waits for room in a queue. A free value (log 18). -/
opaque waitTval : Nat → Nat

/-- The physical page at which the operating system keeps a page of a guest's physical memory, by the guest's device, the step and the
page's number (18 R411). A free value (log 46). -/
opaque guestPage : Nat → Nat → Nat → Option Nat

/-- What the power controller reads at the end of a period: PWR and TMAX (20 R421). A free value (log 13). -/
opaque sensor : Nat → BitVec 16 × BitVec 8

/-- Does traffic of a partition to a hot stack wait for nothing but the hold in a held clk (20 R422)? A free value (log 2). -/
opaque stackHeld : Nat → Bool

/-- The error value that a machine check reports (R27, R405). A free value (log 7). -/
opaque syndrome : Nat → BitVec 64

/-- The ECC syndrome of poison that is met in a step (R405). A free value (log 7). -/
opaque eccWord : Nat → BitVec 64

/-- Which of its partition's ports the network engine chooses for a packet (R284). A free value (log 16). -/
opaque netPort : Nat → Nat

/-- Whether a network engine goes on after a step with what it can go on with. A free value (log 16). -/
opaque netTurn : Nat → Bool

/-- What memory of another wafer holds where an access of this one finds it (R212). A free value (log 20). -/
opaque peerWord : Nat → BitVec 64

end Config

/-- Tiles of the wafer: 180 logical rows of 256 columns (R1). -/
def numRows : Nat := 180
/-- Logical columns (R1). -/
def numCols : Nat := 256
/-- The four slots of a tile (R12). -/
def numSlots : Nat := 4
/-- Depth of queue q0 to q7 (R20). -/
def queueDepth : Nat → Nat
  | 0 | 1 => 8
  | 2 | 3 => 16
  | 4 | 5 => 8
  | 6 => 4
  | _ => 8
/-- Period of the clk-timed housekeeping steps (R199, R307, R408, R421). -/
def period14k : Nat := 14000
/-- Posted accesses a tile may have outstanding (R216). -/
def postedLimit : Nat := 256
/-- Task messages an interface may hold (R184). -/
def interfaceLimit : Nat := 16
/-- Gate requests a home may hold (R237). -/
def gateLimit : Nat := 16
/-- Bound of the hang watchdog (R378). -/
def watchdogBound : Nat := 2 ^ 33
/-- Read-buffer age bound (R220). -/
def readBufferAge : Nat := 14000

end Sys2Proof
end

