-- ==== Sys2Proof/Machine/State.lean ====
section
/-! DEFINITION. The machine's state as plain data: everything the spec gives the wafer, its tiles, partitions, virtual
devices, edge units, islands and boot logic, and what is in flight between them. -/

namespace Sys2Proof
namespace Machine

/-! ## Stops -/

/-- Why a step stops without a next state. -/
inductive Fault
  /-- Raised by `step` while the wafer has no power (00 R3, 20 R424): nothing is kept and nothing runs until a COLD_BOOT. Safe. -/
  | noPower
  deriving DecidableEq, Repr

/-- Why an instruction has no meaning in the model. -/
inductive Refusal
  /-- Raised by an arm of `exec` whose instruction has no meaning yet. Safe. -/
  | notModelled (mnemonic : String)
  /-- Raised by `step` when an island hart's turn meets a word outside the custom-0 opcode: the harts' base instruction set is
  RISC-V's, which the spec names and does not describe (12 R305, log 6), and the word lies outside the part that the model takes over
from RISC-V. Safe. -/
  | hartBase
  deriving DecidableEq, Repr

/-- What a meaning answers. -/
abbrev Out (σ : Type) := Host.Outcome σ Fault Refusal

/-! ## Small tables and sparse memory -/

/-- A sparse table: entries by rising key. -/
abbrev Tbl (α : Type) := List (Nat × α)

/-- A sparse byte memory: cells by rising address, no cell equal to zero, which an unlisted address reads as (log 4, log 5). -/
abbrev Mem := List Host.Cell

/-! ## Traps and waits -/

/-- Trap causes (R27). -/
inductive Cause
  | illegal | illegalLine | fetchBounds | controlFlow | localBounds | localRights | misaligned | rangeLock
  | remoteRefused | waitExpired | tagExhaustion | privileged | recordRefused | blankState | versionRefused
  | virtualRefused | trap | breakpoint | escalation | doubleTrap | machineCheck
  deriving DecidableEq, Repr, Inhabited

/-- A trap to take: cause, TEPC value and TVAL value (R27). -/
structure TrapRec where
  cause : Cause
  epc   : Word
  tval  : Word
  deriving DecidableEq, Repr, Inhabited

/-- What a blocked strand waits for (R203, R241, R361): the wait's own kind. -/
inductive WaitKind
  | qget (q : Fin 8)          -- a token (R120)
  | qput (q : Fin 4) (n : Bool)  -- a push to a command queue, with a completion reservation or without (R21)
  | posted                    -- counters to drain: W, .rel, FENCE, WAITC, REL (R214, R215, R238, R239)
  | limit                     -- the posted-access limit (R216)
  | sameGranule               -- an earlier posted write to the same granule (R217)
  | reply                     -- the reply of a request that has left (R224, R197)
  | gate                      -- ACQ at its home (R237)
  | word                      -- WAIT on a local word (R240)
  | blank (n : Fin 64)        -- BWAIT (R232)
  | engine                    -- an engine issue (R135, R165, R258)
  | genWord                   -- WRW of a word of the generator (R25)
  | issueBlank (n : Fin 64)   -- an engine issue waiting for a blank (R203)
  | pool                      -- pool granules of a tagged window (R343)
  | iface                     -- room in the interface (R190)
  | ownOps                    -- MIGR: engine operations of the strand (R192)
  | drains                    -- ENDT: remote drains (R194)
  | trig                      -- TRIG (R196)
  | bind                      -- BIND (R236)
  | tag                       -- TAGA (R349)
  | vsw (w : Fin 64)          -- VSW (R357)
  | vpub (key : Nat)          -- VPUB to a directory (R356)
  | counter                   -- NCTR.wt (R285)
  | delivery                  -- RWAIT (R276)
  deriving DecidableEq, Repr, Inhabited

/-- A wait in progress. -/
structure WaitRec where
  kind  : WaitKind
  /-- TVAL of *wait expired* (R203). -/
  tval  : Word
  /-- HANG as it stood when the wait began (R118); none where HANG does not bound the wait. -/
  bound : Option Nat
  /-- Unthrottled clks counted so far (R378, R232). -/
  count : Nat
  /-- Posted accesses that the wait covers (R214). -/
  cover : List Nat
  /-- Place in a waiting order (R21, R22). -/
  stamp : Nat
  /-- The step in which the instruction was last tried. -/
  last  : Nat
  /-- The request, message or operation whose answer is awaited. -/
  req   : Option Nat
  /-- The register that an answer from outside the tile writes (R349). -/
  dst : Reg
  /-- The target of a VSW; `none` inside is `.lat` (R357). -/
  target : Option (Option Half)
  /-- A VSW counts as its tile's arrival, until the wait of another strand of the tile expires (R357). -/
  arrived : Bool := true
  deriving DecidableEq, Repr, Inhabited

/-! ## Strands -/

/-- Why the island holds a strand (R30). -/
inductive HeldBy | double | escalation
  deriving DecidableEq, Repr, Inhabited

/-- The line that a strand executes (R37, R41). -/
structure HeldLine where
  addr : Nat
  bits : Line512
  deriving DecidableEq, Repr, Inhabited

/-- A strand slot and the strand resident in it (R12, R17). -/
structure Strand where
  live   : Bool := false
  regs   : Vector Word 16 := Vector.replicate 16 0#64
  pc     : Word := 0#64
  sw     : Word := 0#64
  ctx    : Half := 0#16
  vpin   : BitVec 17 := 0#17
  wid    : Word := 0#64
  line   : Option HeldLine := none
  /-- A trap that waits for the handler (R28, R32). -/
  pend   : Option TrapRec := none
  held   : Option HeldBy := none
  /-- Parked by YIELD; the register that receives the result (R365). -/
  parked : Option Reg := none
  wait   : Option WaitRec := none
  inbox  : Option (Fin 16) := none
  /-- A trap that is not precise, to take at the next instruction boundary (R211, R174, R262). -/
  late   : Option (Cause × Word) := none
  /-- Step of the strand's last acquire point (R220). -/
  acqAt  : Nat := 0
  /-- Identity of the resident strand, by which its operations in flight know it. -/
  uid    : Nat := 0
  /-- The line whose one rewrite for this entry has been made (R40). -/
  fixed  : Option Nat := none
  /-- The clk from which the strand can issue again, after a transfer, a SEND or a SPAWN (02 R42, 07 R186). -/
  stall  : Nat := 0
  /-- By register: the clk from which an instruction that reads it can issue (04 R93). -/
  regAt  : Tbl Nat := []
  deriving DecidableEq, Repr, Inhabited

/-! ## Records that engine instructions read at issue -/

/-- Local spaces (R9). -/
inductive Spc | code | data | wgt | act | acc | ctl
  deriving DecidableEq, Repr, Inhabited

/-- A shape record (R123). -/
structure Shape where
  at_   : Nat
  spc   : Nat
  base  : Nat
  bv    : Bool
  blk   : Fin 64
  rank  : Nat
  ext   : List Nat
  str   : List Int
  sbase : Nat
  deriving DecidableEq, Repr, Inhabited

/-- A copy record (R255); the extents and strides of dimensions 0 to RANK. -/
structure CopyRec where
  at_   : Nat
  rank  : Nat
  esz   : Nat
  vc    : Nat
  dbv   : Bool
  dblk  : Fin 64
  sbv   : Bool
  sblk  : Fin 64
  dk    : Nat
  sk    : Nat
  dspc  : Nat
  sspc  : Nat
  saddr : Word
  daddr : Word
  glim  : Nat
  ext   : List Nat
  dstr  : List Int
  sstr  : List Int
  deriving DecidableEq, Repr, Inhabited

/-- An edge record (R264). -/
structure EdgeRec where
  at_ : Nat
  wva : Word
  rp  : Nat
  k   : Nat
  n   : Nat
  sva : Word
  mep : Nat
  deriving DecidableEq, Repr, Inhabited

/-- A send record (R279). -/
structure SendRec where
  at_   : Nat
  rq    : Fin 16
  rce   : Bool
  rctr  : Fin 32
  ce    : Bool
  rod   : Bool
  ctr   : Fin 32
  lk    : Bool
  peer  : Nat
  laddr : Word
  len   : Nat
  raddr : Word
  rkey  : BitVec 32
  deriving DecidableEq, Repr, Inhabited

/-- The record, if any, that an engine instruction reads beside its shapes. -/
inductive OpRec
  | none
  | copy (r : CopyRec)
  | edge (r : EdgeRec)
  | send (r : SendRec)
  deriving DecidableEq, Repr, Inhabited

/-- The prefix fields of a prefixed engine instruction, resolved against the form's defaults (R52, R127). -/
structure Pfx where
  fa  : Nat
  fb  : Nat
  fd  : Nat
  rm  : Nat
  me  : Bool
  msk : Reg
  mz  : Bool
  ope : Bool
  opd : Reg
  bsa : Bool
  bsb : Bool
  bsd : Bool
  deriving DecidableEq, Repr, Inhabited

/-- An engine command: the instruction with everything it sampled at issue (R137, R166, R259, R268). -/
structure Cmd where
  id     : Nat
  ins    : Instr
  slot   : Fin 4
  uid    : Nat
  tok    : Tok
  pfx    : Pfx
  sw     : Word
  ctx    : Half
  vpin   : BitVec 17
  wid    : Word
  regs   : Vector Word 16
  key    : Word × Word
  ctr    : Nat
  d      : Option Shape
  a      : Option Shape
  b      : Option Shape
  c      : Option Shape
  mask   : Option Shape
  rc     : OpRec
  /-- The index array of CPYG, read at issue (R260). -/
  idx    : List Int
  /-- The version of VSAMP and VTOPK, and the stamp of an EGEMV (R153, R268). -/
  ver    : Option Half
  /-- Current versions of the tile's windows (R354). -/
  tcv    : List (Nat × Half)
  /-- The raw operand of a `.q` command (R122). -/
  raw    : Option Word
  /-- Posted accesses entered at issue. -/
  posted : List Nat
  /-- Pool granules reserved at issue (R343): window numbers and counts. -/
  pool   : List (Nat × Nat)
  /-- The destination tile of a remote drain. -/
  dest   : Nat
  deriving DecidableEq, Repr, Inhabited

/-- An entry of a command queue (R21, R121). -/
inductive QEntry
  | cmd (c : Cmd)
  | raw (v : Word)
  deriving DecidableEq, Repr, Inhabited

/-! ## The control space of a tile (R204) -/

/-- States of a blank (R227). -/
inductive BlankSt | empty | filling | ready | draining
  deriving DecidableEq, Repr, Inhabited

/-- A blank-table entry (R227). -/
structure Blank where
  spc  : Nat := 0
  base : Nat := 0
  len  : Nat := 0
  tok  : Half := 0#16
  rdr  : Nat := 0
  hold : Nat := 0
  fw   : Bool := false
  err  : Bool := false
  dfn  : Bool := false
  st   : BlankSt := .empty
  deriving DecidableEq, Repr, Inhabited

/-- A window register: its three words (R209). -/
structure WinReg where
  w0 : Word := 0#64
  w1 : Word := 0#64
  w2 : Word := 0#64
  deriving DecidableEq, Repr, Inhabited

/-- A range-lock entry in use (R225); `hold` is the engine code, `rd` says that reads are guarded too. -/
structure RLock where
  owner : Nat
  hold  : Nat
  rd    : Bool
  spc   : Spc
  lo    : Nat
  hi    : Nat
  deriving DecidableEq, Repr, Inhabited

/-- A binding-table entry (R234); CNT is the number of posted accesses that name the entry. -/
structure Binding where
  gate  : Word := 0#64
  rbase : Word := 0#64
  rlen  : Nat := 0
  gv    : Bool := false
  rv    : Bool := false
  deriving DecidableEq, Repr, Inhabited

/-- A trigger slot: its two words (R177). -/
structure Trigger where
  w0 : Word := 0#64
  w1 : Word := 0#64
  deriving DecidableEq, Repr, Inhabited

/-- The class counter that a posted access enters (R214). -/
inductive Cls | tile | edge | net
  deriving DecidableEq, Repr, Inhabited

/-- A posted access that is not yet acknowledged (R214 to R217, R235). -/
structure Posted where
  id    : Nat
  col   : Fin 8
  cls   : Cls
  /-- The strand that posted it. -/
  slot  : Fin 4
  uid   : Nat
  /-- Counts against the limit of R216. -/
  lim   : Bool
  /-- The granules it writes: virtual?, 64-byte granule number of the address (R217). -/
  gran  : List (Bool × Nat)
  /-- It travels on an adaptive channel (R217). -/
  adapt : Bool
  /-- The target tile and the channel of an access that a dimension-ordered channel keeps in issue order (R217). -/
  lane  : Option (TileId × VcSel) := none
  /-- The binding entries it counts in (R235). -/
  binds : List (Fin 8)
  deriving DecidableEq, Repr, Inhabited

/-! ## Tasks and messages -/

/-- The packed state of a strand that moves (R193). -/
structure Resume where
  regs : Vector Word 16
  pc   : Word
  sw   : Word
  wid  : Word
  ctx  : Half
  vpin : BitVec 17
  /-- The register written when the strand resumes, and its value (R192). -/
  res  : Option (Reg × Word)
  /-- Step of the strand's last acquire point (R220), which moves with it. -/
  acqAt : Nat := 0
  deriving DecidableEq, Repr, Inhabited

/-- A task in the ready queue (R179, R182). -/
structure Ready where
  stamp  : Nat
  ret    : Bool
  slot   : Nat
  pc     : Word
  arg    : Word
  inbox  : Option (Fin 16)
  /-- Doublewords of the payload. -/
  len    : Nat
  s2     : Word
  ctx    : Half
  wid    : Word
  stl    : Bool
  resume : Option Resume
  deriving DecidableEq, Repr, Inhabited

/-- Kinds of traffic on the task plane (R183, R208). -/
inductive MsgKind | send | spawn | wake | migr | stage | bounce | stolen | stealReq | emptyReply
  deriving DecidableEq, Repr, Inhabited

/-- Where a task message is. -/
inductive MsgPhase
  | out                    -- in the interface or the network, towards its receiver
  | retry (due : Nat)      -- held by the interface until a clk (R187)
  | ack                    -- its acknowledgement is on the way back
  | kept                   -- the same, but a stop buffer holds it, and with it what its sender has reserved (R367)
  | nack                   -- its NACK(retry) is on the way back
  deriving DecidableEq, Repr, Inhabited

/-- Who holds a message as its sender. -/
inductive MsgSrc
  | tile (t : TileId)            -- one of the 16 entries (R184)
  | wake (t : TileId)            -- the wake entry (R184)
  | unit (p : Fin 24) (q : Fin 16)  -- the launch unit's dispatch from a stage queue (R199)
  deriving DecidableEq, Repr, Inhabited

/-- A task message (R183). -/
structure TMsg where
  id    : Nat
  src   : MsgSrc
  dst   : TileId
  kind  : MsgKind
  slot  : Fin 16
  stq   : Option (Fin 16)
  srow  : Nat
  scol  : Nat
  ctx   : Half
  arg   : Word
  wid   : Word
  img   : Nat
  stl   : Bool
  pc    : Word
  pay   : List Word
  mig   : Option Resume
  /-- The posted access that counts it (R184). -/
  post  : Option Nat
  /-- The inbox entry reserved at the sender (R191, R197). -/
  resv  : Option (Fin 16)
  /-- The strand that waits for the answer of a STEAL. -/
  back  : Option (Fin 4 × Nat)
  /-- The register that the answer of a STEAL writes. -/
  dreg  : Reg
  nacks : Nat
  sent  : Bool
  phase : MsgPhase
  /-- It has been counted in MRECV (R368). -/
  counted : Bool := false
  /-- A BOUNCE or a STOLEN: the tile that it comes from. -/
  from_ : TileId := 0
  /-- The clk in which its last beat has reached its receiver's router, where it waits for its turn (R180). -/
  came : Option Nat := none
  deriving DecidableEq, Repr, Inhabited

/-! ## The memory plane -/

/-- A cached leaf (R329): ASID, level of the leaf, virtual page number at that level, and the entry as read. -/
structure Tlb where
  asid  : Half
  level : Nat
  vpn   : Nat
  pte   : Word
  deriving DecidableEq, Repr, Inhabited

/-- Where a request is. -/
inductive ReqPhase
  | out                          -- on its way to its home, or held in the interface (R217)
  | locked                       -- at the agent, before a range lock (R207)
  | gate (home : Nat)            -- held at its home as a gate request (R237); the physical address of a virtual gate
  | resend (due : Nat)           -- returned by a full gate (R237)
  | event (req : BitVec 32)      -- waiting for the island's answer (R332)
  | again                        -- to walk again (R332)
  | frame                        -- waiting for a frame (R330)
  | done (v : Word) (flags : BitVec 5)  -- the reply or acknowledgement is on its way back
  | refused (c : Cause) (tval : Word)   -- the refusal is on its way back
  deriving DecidableEq, Repr, Inhabited

/-- A request on the memory plane. -/
structure Req where
  id    : Nat
  tile  : TileId
  slot  : Fin 4
  uid   : Nat
  op    : ReqOp
  /-- Virtual address, or global tile address (R205). -/
  virt  : Bool
  addr  : Word
  tag   : Half
  /-- The pinned version, if any (R354). -/
  ver   : Option Half
  vc    : VcSel
  /-- Posted: its record in the sender's counters is `id`. -/
  post  : Bool
  acq   : Bool
  d     : Reg
  /-- A store of the remote drain of this command (R173). -/
  drain : Option Nat
  /-- The wafer of a requester that is not of this one (R210, R212); `tile` then holds its row and column there. -/
  from_ : Option Nat := none
  phase : ReqPhase
  /-- The leaf that has translated a virtual gate that its home holds (R333). -/
  leaf  : Option Tlb := none
  deriving DecidableEq, Repr, Inhabited

/-! ## Engines of a tile -/

/-- The stationary block (R157): its element codes w[k][n] as encoded, at 16*k + n, and its scale bytes. -/
structure StatBlock where
  fmt    : Nat
  scaled : Bool
  west   : Bool
  codes  : List Nat
  scales : List Nat
  deriving DecidableEq, Repr, Inhabited

/-- A started matrix command (R166). -/
structure MRun where
  cmd    : Cmd
  done   : Bool
  failed : Bool
  /-- A refused remote drain: its reserved completion entry has been released (R174). -/
  freed  : Bool := false
  /-- The drained values, converted, of an MDRAIN (R172), with the flags of the conversion. -/
  drain  : Option (List Nat)
  flags  : BitVec 5
  deriving DecidableEq, Repr, Inhabited

/-- The matrix engine (R157, R159). -/
structure Matrix where
  rs    : Bool := false
  iacc  : Bool := false
  blk   : Option StatBlock := none
  acc   : Vector (BitVec 32) 256 := Vector.replicate 256 0#32
  /-- The issue-side copy (R159): MODE, IACC, and the block's format, scale enable and edge. -/
  irs   : Bool := false
  iiacc : Bool := false
  iblk  : Option (Nat × Bool × Bool) := none
  run   : List MRun := []
  deriving DecidableEq, Repr, Inhabited

/-- Where an operation of the copy engine is. -/
inductive CPhase
  | running
  | event (req : BitVec 32) (va : Word) (acc : Option Nat)   -- paused at a translation (R261); an EGEMV may be accepted already
  | frame (acc : Option Nat)   -- paused until the ring has a frame (R330)
  | accepted (seq : Nat)       -- EGEMV: in the stack's order of passes (R268, R269)
  | failed (c : Cause) (tval : Word)  -- about to fail (R262)
  deriving DecidableEq, Repr, Inhabited

/-- A started operation of the copy engine (R254). -/
structure CRun where
  cmd   : Cmd
  phase : CPhase
  /-- Elements that have been moved. -/
  pos   : Nat := 0
  deriving DecidableEq, Repr, Inhabited

/-- One vector of FP32 codes on the reduction tree with its operation; `none` for mixed operations (R273). -/
structure Round where
  op   : Option RedFn
  vals : List (BitVec 32)
  deriving DecidableEq, Repr, Inhabited

/-- A contribution that waits in its engine for its router (R273). -/
structure Contrib where
  cmd  : Cmd
  slot : Fin 32
  round : Round
  deriving DecidableEq, Repr, Inhabited

/-- The router's rounds of one reduction slot (R273, R274). -/
structure TreeSlot where
  own   : List Round := []
  kids  : Tbl (List Round) := []
  /-- Totals to be delivered at this tile, in round order. -/
  deliv : List (List (BitVec 32)) := []
  /-- A delivery that holds before its token (R274 step 4). -/
  tokPending : Bool := false
  count : Nat := 0
  deriving DecidableEq, Repr, Inhabited

/-- A bead of a type 2 window: window, granule offset, tag and pool index (R341, R343). -/
structure Bead2 where
  win  : Nat
  gran : Nat
  tag  : Half
  idx  : Nat
  deriving DecidableEq, Repr, Inhabited

/-- A PHINT entry (R372). -/
structure Phint where
  spc  : Nat := 0
  base : Nat := 0
  len  : Nat := 0
  deriving DecidableEq, Repr, Inhabited

/-- A parity mismatch that holds a tile's strands (R40). -/
structure CodeHold where
  slot : Fin 4
  addr : Nat
  deriving DecidableEq, Repr, Inhabited

/-! ## Tiles -/

/-- Per-tile control words that hold a value of their own (R25). -/
structure TileWords where
  tvec     : Word := 0#64
  tcause   : Word := 0#64
  tepc     : Word := 0#64
  tval     : Word := 0#64
  tscratch : Word := 0#64
  tpxl     : Word := 0#64
  cyc      : Nat := 0
  retired  : Nat := 0
  widw     : Word := 0#64
  ydl      : Word := 0x36B0#64
  hang     : Word := 0x40000000#64
  keyl     : Word := 0#64
  keyh     : Word := 0#64
  ctrl     : Word := 0#64
  ctrh     : Word := 0#64
  deriving DecidableEq, Repr, Inhabited

/-- A tile. Its default is a tile as a release leaves it (R318). -/
structure Tile where
  strands : Vector Strand 4 := Vector.replicate 4 {}
  cw      : TileWords := {}
  code    : Mem := []
  data    : Mem := []
  wgt     : Mem := []
  act     : Mem := []
  acc     : Mem := []
  /-- Poisoned words: space and 8-byte word number (R401). -/
  poison  : List (Spc × Nat) := []
  /-- Lines that the copy engine has written since the launch (R40). -/
  written : List Nat := []
  blanks  : Vector Blank 64 := Vector.replicate 64 {}
  windows : Vector WinReg 8 := Vector.replicate 8 {}
  locks   : Vector (Option RLock) 16 := Vector.replicate 16 none
  binds   : Vector Binding 8 := Vector.replicate 8 {}
  trigs   : Vector Trigger 16 := Vector.replicate 16 {}
  /-- SET and STG (R178). -/
  stage   : Half := 0#16
  posted  : List Posted := []
  /-- Posted accesses of operations that a save has frozen: in no counter (R253), and still in the order of R217. -/
  frozen  : List Posted := []
  raddr   : Word := 0#64
  rv      : Bool := false
  rcnt    : Half := 0#16
  /-- Allocated or reserved inbox entries (R181, R191). -/
  inbox   : Vector Bool 16 := Vector.replicate 16 false
  ready   : List Ready := []
  credits : Nat := 16
  /-- Command queues q0, q2, q4, q6 and completion queues q1, q3, q5, q7 (R20). -/
  cmdq    : Vector (List QEntry) 4 := Vector.replicate 4 []
  tokq    : Vector (List Half) 4 := Vector.replicate 4 []
  resv    : Vector Nat 4 := Vector.replicate 4 0
  /-- The strand that holds a command queue (R122). -/
  hold    : Vector (Option (Fin 4)) 4 := Vector.replicate 4 none
  mat     : Matrix := {}
  vec     : Option Cmd := none
  copies  : List CRun := []
  contribs : List Contrib := []
  tree    : Vector TreeSlot 32 := Vector.replicate 32 {}
  beads   : List Bead2 := []
  /-- Current versions of type 3 windows (R355). -/
  tcv     : Tbl Half := []
  phint   : Vector Phint 8 := Vector.replicate 8 {}
  decl    : Bool := false
  /-- The clk of the slice-end signal, once received (R362). -/
  sliceEnd : Option Nat := none
  settled : Bool := false
  halted  : Bool := false
  stopBuf : List TMsg := []
  msent   : Nat := 0
  mrecv   : Nat := 0
  chold   : Option CodeHold := none
  /-- Step of the tile's last pass of a version switch, an acquire point of every strand that runs there later (R252, R357). -/
  acqAt   : Nat := 0
  /-- The slot after which the search for a pending trap starts (R28). -/
  lastH   : Fin 4 := 3
  /-- The clk in which the tile last applied an arriving message (R180). -/
  appliedAt : Option Nat := none
  /-- The clk of the last issue, and the slot that issued (R18). -/
  issuedAt : Option Nat := none
  lastK   : Fin 4 := 3
  /-- The next slot of that strand issues in the same clk, if it can (R18, R45). -/
  pairNext : Bool := false
  /-- The clk from which the divider is free (R93). -/
  divAt : Nat := 0
  /-- The clk in which a thief last took a ready task (R198). -/
  stolenAt : Option Nat := none
  /-- Last clk in which the tile was not idle, for R200. -/
  busyAt  : Nat := 0
  /-- Direction and clk of the last automatic steal (R201). -/
  stealDir : Nat := 0
  stealAt : Nat := 0
  /-- Number of the CODE image loaded (R183, R294). -/
  img     : Nat := 0
  role    : Option Nat := none
  /-- Beats of the container that have come since the launch started (R298). -/
  beats   : Nat := 0
  deriving DecidableEq, Repr, Inhabited

/-! ## The network engine of a partition -/

/-- One packet of a network operation (R284). -/
structure Pkt where
  no     : Nat
  acked  : Bool
  sentAt : Nat
  /-- Order of its latest transmission. -/
  order  : Nat
  resends : Nat
  /-- It is to be sent, for the first time or again, once its bytes have been read; and the port chosen for it. -/
  due    : Bool := true
  port   : Option (Fin 32) := none
  deriving DecidableEq, Repr, Inhabited

/-- Where a network operation is. -/
inductive NetPhase
  | going
  | event (req : BitVec 32)     -- waits for the island (R261, R282)
  | frame (j : Fin 32)          -- waits for a frame, at a port's unit
  | again                       -- may walk again after that wait
  | notReady (due : Nat)        -- waits for its retry (R283)
  deriving DecidableEq, Repr, Inhabited

/-- A network operation of this node (R281 to R284). -/
structure NetOp where
  id    : Nat
  tile  : TileId
  cmd   : Cmd
  rc    : SendRec
  pkts  : List Pkt
  tries : Nat
  phase : NetPhase
  /-- It has failed and ends (R284). -/
  failing : Bool
  /-- NGET: byte ranges already written, as first byte and end. -/
  got   : List (Nat × Nat)
  /-- Its number on its peer and service, and among the sends there (R284). -/
  msg   : Nat
  ord   : Nat
  /-- Source bytes that have been read for transmissions that are due: offset and bytes (R281). -/
  src   : List (Nat × List Byte) := []
  /-- Packets sent in this try. -/
  sent  : Nat := 0
  /-- The port of its latest packet. -/
  port  : Fin 32 := 0
  deriving DecidableEq, Repr, Inhabited

/-- The data that answer a peer's read: the device whose space they come from, and their packets as an operation that sends them (R284,
R325). -/
structure NetAns where
  v : Fin 64
  o : NetOp
  deriving DecidableEq, Repr, Inhabited

/-- A posted receive buffer (R283). -/
structure RBuf where
  tile  : TileId
  uid   : Nat
  tok   : Tok
  laddr : Word
  len   : Nat
  ce    : Bool
  ctr   : Fin 32
  deriving DecidableEq, Repr, Inhabited

/-- Where an incoming message is: arriving, ending (its counter is to be raised), at its end, or refused. -/
inductive InSt | going | ending | ended | refused
  deriving DecidableEq, Repr, Inhabited

/-- The target of an incoming RMA write: device, region base of the counters, address, RCE and RCTR (R325). -/
structure RmaIn where
  v    : Fin 64
  rcb  : Word
  addr : Word
  rce  : Bool
  rctr : Fin 32
  deriving DecidableEq, Repr, Inhabited

/-- An incoming message (R282, R283). -/
structure InMsg where
  id     : Nat
  peer   : Nat
  rod    : Bool
  msg    : Nat
  count  : Nat
  len    : Nat
  buf    : Option RBuf
  rma    : Option RmaIn
  placed : List Nat
  /-- ROD: packets that have come before their turn (R284). -/
  early  : List Nat := []
  /-- Its counter waits for the island, or for a frame; `quiet` after such a wait for a frame. -/
  wait   : Option (BitVec 32) := none
  frame  : Bool := false
  quiet  : Bool := false
  /-- The port of its latest packet. -/
  port   : Fin 32
  st     : InSt
  /-- What COUNT and ERR of the counter rise by at the end. -/
  cnt    : Nat
  err    : Nat
  deriving DecidableEq, Repr, Inhabited

/-- A packet that has come and is not placed yet (R283, R284, R325): until its turn, for the island under its request ID, or for a
frame; `ready` where it may be tried again. -/
structure HeldPkt where
  pkt   : Packet
  req   : Option (BitVec 32) := none
  quiet : Bool := false
  ready : Bool := true
  /-- It came before its turn, and has been acknowledged (R284). -/
  early : Bool := false
  deriving DecidableEq, Repr, Inhabited

/-! ## Launches -/

/-- A launch header (R301). -/
structure LHdr where
  peer  : Bool := false
  pri   : Fin 4 := 0
  vdev  : Fin 64 := 0
  imgva : Word := 0#64
  arg   : Word := 0#64
  wbase : Word := 0#64
  wcnt  : Nat := 0
  widw  : Word := 0#64
  dsw   : BitVec 14 := 0#14
  ydl   : Nat := 0
  hang  : Nat := 0
  cbase : Word := 0#64
  wtab  : Word := 0#64
  eq    : Nat := 0xFF
  nwin  : Nat := 0
  utag  : Word := 0#64
  deriving DecidableEq, Repr, Inhabited

/-- A segment of a role (R295): space, first byte, place of its bytes in the container, length. -/
structure Seg where
  spc : Spc
  dst : Nat
  src : Nat
  len : Nat
  deriving DecidableEq, Repr, Inhabited

/-- A role: its image, handler entry and segments (R295). -/
structure Role where
  img  : Nat
  tvec : Word
  segs : List Seg
  deriving DecidableEq, Repr, Inhabited

/-- A stage entry of the faceplate (R296). -/
structure StageEnt where
  steal : Bool
  set   : Nat
  role  : Nat
  max   : Nat
  min   : Nat
  trigs : List (Word × Word)
  deriving DecidableEq, Repr, Inhabited

/-- A stage queue of the faceplate (R296). -/
structure QueueEnt where
  dslot : Fin 16
  tstg  : Nat
  depth : Nat
  deriving DecidableEq, Repr, Inhabited

/-- A rectangle of the faceplate (R296). -/
structure RectEnt where
  fire : Half
  stg  : Nat
  row0 : Nat
  col0 : Nat
  rows : Nat
  cols : Nat
  deriving DecidableEq, Repr, Inhabited

/-- A reduction-slot entry (R271). -/
structure RedEnt where
  mode : Nat
  dn   : Bool
  rootr : Nat
  rootc : Nat
  dtok : Half
  dofs : Nat
  len  : Nat
  pr0  : Nat
  pr1  : Nat
  pc0  : Nat
  pc1  : Nat
  deriving DecidableEq, Repr, Inhabited

/-- A faceplate and its boot tree (R296, R297). -/
structure Faceplate where
  fh    : Nat := 0
  fw    : Nat := 0
  vca   : Byte := 0#8
  stages : List StageEnt := []
  queues : List QueueEnt := []
  rects  : List RectEnt := []
  reds   : List RedEnt := []
  rootr : Nat := 0
  rootc : Nat := 0
  masks : List Nat := []
  deriving DecidableEq, Repr, Inhabited

/-- A window-table entry (R337). -/
structure WinEnt where
  type : Nat
  home : Nat
  spc  : Nat
  wkey : BitVec 32
  base : Word
  len  : Nat
  psb  : Word
  wr   : Bool
  plv  : Half
  row0 : Nat
  row1 : Nat
  col0 : Nat
  col1 : Nat
  deriving DecidableEq, Repr, Inhabited

/-- States of a tag (R340); a tag that is not listed is free. -/
inductive TagSt | free | live | retiring
  deriving DecidableEq, Repr, Inhabited

/-- States of a launch (R309). -/
inductive LState | queued | starting | running | stopping | suspended
  deriving DecidableEq, Repr, Inhabited

/-- A byte range of a space. -/
structure Rng where
  spc : Spc
  lo  : Nat
  len : Nat
  deriving DecidableEq, Repr, Inhabited

/-- A saved tile by its partition-relative coordinates, with the byte ranges that were saved of it; all of DATA, WGT, ACT and ACC
where there is no list (R371). -/
structure SavedTile where
  row  : Nat
  col  : Nat
  tile : Tile
  only : Option (List Rng)
  deriving DecidableEq, Repr, Inhabited

/-- The saved state of a suspended launch (R369 to R375). -/
structure Saved where
  /-- The partition that it was saved on, which holds its version references. -/
  part  : Fin 24
  tiles : List SavedTile
  /-- Posted receive buffers, and messages that have taken one (R367). -/
  recvq : Vector (List RBuf) 16
  inMsgs : List InMsg
  /-- SEND.stg messages in the stop buffer of a top-left tile that is not placed. -/
  unitBuf : List TMsg
  /-- The key and the counter value that it was sealed with, the body before it was sealed (R373), and the header frame. -/
  key   : BitVec 256
  nctr  : Nat
  plain : List Byte
  frame : Nat
  /-- References that are still to be dropped (R357 step 5), as in `Part.drops`. -/
  drops : List (Nat × Fin 4 × Half) := []
  coop  : Bool
  row0  : Nat
  col0  : Nat
  deriving DecidableEq, Repr, Inhabited

/-- A launch, from its submission to its end (R303, R309). -/
structure Launch where
  id     : Nat
  vdev   : Fin 64
  seq    : Nat
  gen    : Half
  hdr    : LHdr
  st     : LState := .queued
  cursor : Nat := 0
  /-- The clk of the last message that the stream has offered and its queue has accepted (R310). -/
  streamAt : Option Nat := none
  charged : Nat := 0
  /-- The container, held from its reading until the first tasks fire (R309). -/
  container : List Byte := []
  /-- Place and length of the CODE images in it, and their bytes. -/
  imgAt  : List (Nat × Nat) := []
  images : List (List Byte) := []
  /-- Tiles of the area that the stream reaches, each with the tile that forwards it; the root with itself (R298). -/
  feeds  : List (TileId × TileId) := []
  /-- A read of the launch unit waits for the island (R332), for a frame (R330), or has been refused. -/
  wait   : Option (BitVec 32) := none
  noFrame : Bool := false
  denied : Bool := false
  roles  : List Role := []
  fp     : Faceplate := {}
  wins   : List WinEnt := []
  /-- Tiles of the area present at launch start, partition-relative (R376). -/
  present : List (Nat × Nat) := []
  queues : List (List TMsg) := []
  /-- Search position of each stage (R199). -/
  pos    : List (Option Nat) := []
  /-- Stages whose queue NACKed a SEND.stg in this period (R200). -/
  blocked : List Nat := []
  tags   : Tbl TagSt := []
  /-- Tiles that were not placed when this launch started are not in this list. -/
  placed : List TileId := []
  msent  : Nat := 0
  mrecv  : Nat := 0
  saved  : Option Saved := none
  /-- Frames that the launch keeps for its saves (R375). -/
  frames : List Nat := []
  deriving DecidableEq, Repr, Inhabited

/-- The homes of tagged windows: a tile, or the ETU of a virtual window (R343, R344). -/
inductive TagHome
  | tile (t : TileId)
  | etu (e : Fin 56)
  deriving DecidableEq, Repr, Inhabited

/-- A tag in retirement (R346), and the homes that have still to free it, each with the accesses that it had received when the retirement
reached it; none before it has reached them. -/
structure Retire where
  tag  : Half
  left : Option (List (TagHome × List (Nat × Nat))) := none
  deriving DecidableEq, Repr, Inhabited

/-! ## Partitions -/

/-- ST of a partition entry (R315). -/
inductive PSt | free | assigned | releasing | refused
  deriving DecidableEq, Repr, Inhabited

/-- A partition entry, its launch unit, spindle and network engine (R315 to R318). -/
structure Part where
  st     : PSt := .free
  en     : Bool := false
  tree   : Fin 4 := 0
  lvl    : Fin 4 := 0
  idx    : Fin 16 := 0
  slice  : BitVec 32 := 0#32
  stk    : BitVec 24 := 0#24
  mbw    : BitVec 10 := 0#10
  fpbase : Word := 0#64
  fptail : BitVec 32 := 0#32
  fphead : BitVec 32 := 0#32
  fplog  : Nat := 10
  fplow  : Nat := 0
  tqbase : Word := 0#64
  timp   : BitVec 30 := 0#30
  teiid  : BitVec 11 := 0#11
  /-- Records written into the translation event queue (R332). -/
  tqn    : Nat := 0
  /-- The launch that holds the partition, by its ID. -/
  cur    : Option Nat := none
  sliceAt : Nat := 0
  /-- The slice has ended while the launch was starting (R308). -/
  deferred : Bool := false
  deficitAt : Nat := 0
  elasticAt : Nat := 0
  /-- Tile-clks charged in the current period, per virtual device (R307). -/
  charge : Tbl Nat := []
  /-- The watchdog count (R378). -/
  dog    : Nat := 0
  /-- A stop that an access has brought about and that is to be carried out (R401, R402). -/
  stopDue : Option StopCause := none
  /-- The gang stop or the last halt has been reached, the drain is in progress (R367). -/
  draining : Bool := false
  gangStop : Bool := false
  /-- The image has been written and the last frame is on its way (R375). -/
  saving : Bool := false
  /-- The tiles have been loaded from an image and wait for the release (R377). -/
  restoring : Bool := false
  /-- Tags in retirement (R346). -/
  retire : List Retire := []
  /-- References that a switch has still to drop: directory (home * 2^32 + key), slot, old version (R357 step 5). -/
  drops : List (Nat × Fin 4 × Half) := []
  verified : List (BitVec 256 × BitVec 256) := []
  reserve : List Nat := []
  /-- A frame kept by an ETU after a failed compare-and-swap (R330). -/
  kept   : Tbl Nat := []
  /-- Network set-up by the island (R277); peers without an endpoint-table entry (log 16). -/
  mtu    : Nat := 4096
  rto    : Nat := 70000
  rlim   : Nat := 8
  noPeer : List Nat := []
  ports  : List (Fin 32) := List.finRange 32
  netBusy : List NetOp := []
  recvq  : Vector (List RBuf) 16 := Vector.replicate 16 []
  inMsgs : List InMsg := []
  /-- The next send of a peer that takes a buffer, by service (2 * peer + ROD), and the next message of a peer that ends under ROD. -/
  netNext : Tbl Nat := []
  netDone : Tbl Nat := []
  /-- Messages and sends of this node so far, by peer and service. -/
  outMsg : Tbl Nat := []
  outOrd : Tbl Nat := []
  heldPkts : List HeldPkt := []
  /-- Reads of peers that are being answered (R284, R325). -/
  answers : List NetAns := []
  deriving DecidableEq, Repr, Inhabited

/-! ## Virtual devices -/

/-- STATE of a virtual device (R323). -/
inductive VState | running | descheduled | paused
  deriving DecidableEq, Repr, Inhabited

/-- A completion event that waits for its ring (R335). -/
structure EvRec where
  gen    : Half
  status : Nat
  seq    : Nat
  utag   : Word
  clks   : Word
  deriving DecidableEq, Repr, Inhabited

/-- A virtual device (R306, R323, R324). -/
structure Vdev where
  sv57  : Bool := false
  asid  : Half := 0#16
  ppn   : BitVec 44 := 0#44
  rpa   : Word := 0#64
  cipa  : Word := 0#64
  imp   : BitVec 30 := 0#30
  gen   : Half := 0#16
  rlog  : Nat := 7
  part  : Fin 32 := 31
  st    : VState := .running
  ip    : Bool := false
  eiid  : BitVec 11 := 0#11
  pi    : BitVec 32 := 0#32
  en    : Bool := false
  dla   : Bool := false
  pcmax : Fin 4 := 0
  wgt   : Nat := 0
  deficit : Int := 0
  /-- Submissions so far; the next launch ID uses this number's successor (R303). -/
  seq   : Nat := 0
  queues : Vector (List Nat) 4 := Vector.replicate 4 []
  keys  : Vector (BitVec 256) 4 := Vector.replicate 4 0#256
  events : List EvRec := []
  deriving DecidableEq, Repr, Inhabited

/-- An RMA region entry (R325). -/
structure Rma where
  key  : BitVec 32 := 0#32
  en   : Bool := false
  rd   : Bool := false
  wr   : Bool := false
  vdev : Fin 64 := 0
  base : Word := 0#64
  len  : Word := 0#64
  rcb  : Word := 0#64
  deriving DecidableEq, Repr, Inhabited

/-! ## Edge ports -/

/-- A granule of a read buffer (R220): physical granule, its bytes, the clk and step of its fill, and who filled it. -/
structure RBufEnt where
  gran : Nat
  bytes : List Byte
  clk  : Nat
  step : Nat
  part : Fin 24
  deriving DecidableEq, Repr, Inhabited

/-- A shootdown mailbox (R333). -/
structure Mailbox where
  va   : Word := 0#64
  go   : Bool := false
  allAsid : Bool := false
  allVa : Bool := false
  asid : Half := 0#16
  size : Word := 0#64
  deriving DecidableEq, Repr, Inhabited

/-- An edge translation unit (R326, R329). -/
structure Etu where
  tlb  : List Tlb := []
  buf  : List RBufEnt := []
  box  : Mailbox := {}
  deriving DecidableEq, Repr, Inhabited

/-- An access that waits at an ETU (R332): for the island, under its request ID, or for a frame (R330). -/
structure EtuWait where
  etu  : Fin 56
  part : Fin 24
  va   : Word
  req  : Option (BitVec 32)
  /-- An RMA access of a peer, which no launch of the partition ends (R325). -/
  rma  : Bool := false
  deriving DecidableEq, Repr, Inhabited

/-- A slot of a version directory (R353). -/
structure VerSlot where
  st  : Fin 3      -- 0 empty, 1 filling, 2 published
  ver : Half
  seq : Nat
  /-- References by partition. -/
  ref : Tbl Nat
  deriving DecidableEq, Repr, Inhabited

/-- A version directory at its HOME (R353). -/
structure VerDir where
  wkey : BitVec 32
  home : Nat
  slots : Vector VerSlot 4
  next : Nat
  deriving DecidableEq, Repr, Inhabited

/-- A bead of a type 1 window, at its HOME (R344): launch, window, granule address, tag, and where its bytes lie. -/
structure Bead1 where
  launch : Nat
  win  : Nat
  gran : Nat
  tag  : Half
  pa   : Nat
  home : Fin 56
  /-- The partition whose ring gave its frame. -/
  part : Fin 24
  deriving DecidableEq, Repr, Inhabited

/-- Bead granules of a partition at an ETU that have been freed (R344). -/
structure BeadPool where
  part : Fin 24
  home : Fin 56
  free : List Nat := []
  deriving DecidableEq, Repr, Inhabited

/-! ## Islands, boot and services -/

/-- Privilege modes of a hart (R305). -/
inductive HMode | m | s | u | vs | vu
  deriving DecidableEq, Repr, Inhabited

/-- An island hart (log 6). -/
structure Hart where
  x       : Vector Word 32 := Vector.replicate 32 0#64
  pc      : Word := 0#64
  mode    : HMode := .m
  mstatus : Word := 0#64
  mtvec   : Word := 0#64
  mepc    : Word := 0#64
  mcause  : Word := 0#64
  mscratch : Word := 0#64
  mtval   : Word := 0#64
  satp    : Word := 0#64
  deriving DecidableEq, Repr, Inhabited

/-- A black-box record (R404). -/
structure BBRec where
  time : Nat
  kind : Nat
  part : Nat
  vdev : Nat
  row  : Nat
  col  : Nat
  d0   : Word
  d1   : Word
  deriving DecidableEq, Repr, Inhabited

/-- The black box of an island (R403). -/
structure BlackBox where
  wrst   : Half := 0#16
  wptr   : BitVec 32 := 0#32
  cesram : Word := 0#64
  cehbm  : Word := 0#64
  celink : Word := 0#64
  bootid : Word := 0#64
  /-- Records by their place n mod 2,046. -/
  recs   : Tbl BBRec := []
  /-- Doublewords 0 to 2 of a firmware record that is being stored (R406). -/
  fw     : Vector Word 3 := Vector.replicate 3 0#64
  /-- The clk of the last firmware record, and how many were committed in it (R406). -/
  fwAt   : Nat × Nat := (0, 0)
  deriving DecidableEq, Repr, Inhabited

/-- The fuses (R386): an outside input (log 13). -/
structure Fuses where
  seed    : BitVec 256 := 0#256
  digests : Vector (BitVec 256) 4 := Vector.replicate 4 0#256
  revoked : Vector Bool 4 := Vector.replicate 4 false
  svf     : BitVec 32 := 0#32
  primary : Nat × Nat := (0, 0)
  backup  : Nat × Nat := (1, 1)
  deriving DecidableEq, Repr, Inhabited

/-- What BIST finds (R392): an outside input (log 13). -/
structure Bist where
  /-- Physical sites, row * 256 + column. -/
  core   : List Nat := []
  router : List Nat := []
  islands : List Nat := []
  stripRouter : Bool := false
  badStacks : List Nat := []
  neps   : List Nat := []
  repeaters : Bool := false
  /-- Copies of the boot image that reach an island other than as they were sent: island and bytes, in the order of arrival (R390). -/
  spread : List (Nat × List Byte) := []
  deriving DecidableEq, Repr, Inhabited

/-- What the routers hold for a VC of a plane (R395): whether it is a torus, and the dead routers that its routes go round. -/
structure RouteTable where
  torus : Bool := false
  dead  : List TileId := []
  deriving DecidableEq, Repr, Inhabited

/-- Boot, measurement and the map of present units (R385 to R398). -/
structure Boot where
  phase   : Nat := 0
  pairB   : Bool := false
  fails   : Nat := 0
  stopped : Bool := false
  /-- The clk at which a retry may run (R387). -/
  retryAt : Option Nat := none
  chip    : BitVec 12 := 0#12
  mr      : BitVec 256 := 0#256
  dpk     : List Byte := []
  svn     : BitVec 32 := 0#32
  keyId   : BitVec 256 := 0#256
  entry   : Word := 0#64
  invDigest : BitVec 256 := 0#256
  absent  : List TileId := []
  dead    : List TileId := []
  retired : List Nat := []
  /-- Per region: spare used, spare bad, retired local row. -/
  spare   : Tbl (Bool × Bool × Nat) := []
  noIsland : List Nat := []
  noStack : List Nat := []
  noNep   : List Nat := []
  /-- The route tables: 8 of the task plane, 8 of the memory plane, once phase 3 has written them (R395). -/
  routes  : List RouteTable := []
  deriving DecidableEq, Repr, Inhabited

/-- A report in progress: the kind, the clk S and the counters as they stood at S (R409). -/
structure ReportReq where
  kind : Fin 4
  at_  : Nat
  dev  : Tbl Word
  ten  : Tbl Word
  /-- TEN as it stood at S. -/
  tens : Vector (BitVec 6) 64
  /-- The record of the service that asked for it: caller and RID (R412). -/
  rec_ : Option (Nat × Word)
  deriving DecidableEq, Repr, Inhabited

/-- The meter block (R407, R408). Counters are listed at 16 * v + c. -/
structure Meters where
  nonce  : BitVec 256 := 0#256
  kind   : Fin 4 := 0
  seq    : Word := 0#64
  bootid : Word := 0#64
  ten    : Vector (BitVec 6) 64 := Vector.replicate 64 0#6
  dev    : Tbl Word := []
  tenant : Tbl Word := []
  /-- The regions' shadows, not yet added, by device and by tenant (R408). -/
  shDev  : Tbl Word := []
  shTen  : Tbl Word := []
  /-- Counters and shadows together as they stood at the start of the clk (R409). -/
  dev0   : Tbl Word := []
  ten0   : Tbl Word := []
  addedAt : Nat := 0
  busy   : Option ReportReq := none
  report : List Byte := []
  deriving DecidableEq, Repr, Inhabited

/-- The key unit's entry of a virtual device (R410). -/
structure KeySlot where
  key  : Option (BitVec 256) := none
  ctr  : Nat := 0
  last : Word := 0#64
  pend : Option Word := none
  deriving DecidableEq, Repr, Inhabited

/-- A completion record of the service (R412). -/
structure SvcRec where
  caller : Nat
  rid    : Word
  digest : BitVec 128
  done   : Bool
  status : Nat
  seq    : Word
  /-- OP, device of OP 3, NONCE, output buffer and reply buffer. -/
  op     : Nat
  dev    : Nat
  nonce  : BitVec 256
  out    : Word
  rep    : Word
  /-- The clk of completion. -/
  at_    : Nat
  /-- The service has restarted since the call, which is not returned any more. -/
  lost   : Bool
  /-- OP 3: the request ID has been stored to the key unit since the call or the last restart. -/
  keyed  : Bool := false
  /-- The hart that made the call. -/
  hart   : Option (Fin 384) := none
  deriving DecidableEq, Repr, Inhabited

/-- The power controller and the holds (R420 to R424). -/
structure Power where
  on     : Bool := true
  /-- Held in reset for heat (R422), and for undervoltage (R424). -/
  hold   : Bool := false
  holdV  : Bool := false
  pwr    : Half := 0#16
  pcap   : Nat := 30000
  h      : Nat := 0
  tmax   : Byte := 0#8
  periodAt : Nat := 0
  /-- Held clks of the current period. -/
  held   : Nat := 0
  hotStacks : List Nat := []
  refclk : Bool := true
  deriving DecidableEq, Repr, Inhabited

/-- What the device has told an island or a guest: the messages and interrupts that have left the modelled state. -/
inductive Notice
  | strand (t : TileId) (k : Fin 4) (r : TrapRec) (w : TrapWords)  -- causes 0x20, 0x21 with the tile's trap words (R30)
  | codeCheck (t : TileId) (addr : Word)              -- cause 0x3F on a line (R40)
  | check (i : Fin 48) (p : Option (Fin 24)) (kind : Nat)  -- a machine check: identity 1 to the M-level file of island i (R402)
  | tileEvent (t : TileId)                            -- RCNT has left zero (R211)
  | netEvent (p : Fin 24) (op : Nat)                  -- a network operation has failed (R284)
  | msi (file : Word) (eiid : Nat)                    -- a write to an interrupt file
  | boot (phase cause : Nat)                          -- a boot failure report (R387)
  | reply (caller : Nat) (rid : Word) (a0 a1 : Word)  -- a service call returns (R411)
  | packet (p : Fin 24) (x : Packet)                  -- a packet leaves the node (R284)
  | sack (p : Fin 24) (peer : Nat) (rod : Bool) (msg : Nat) (x : SackBody)  -- an acknowledgement or refusal leaves (R284)
  | peer (chip id : Nat) (ok : Bool) (v : Word)       -- the answer to a request of another wafer (R212)
  deriving DecidableEq, Repr, Inhabited

/-! ## The machine -/

/-- The whole machine. -/
structure State where
  -- the model's own fields (log 1, log 2)
  agenda : List Turn := []
  steps  : Nat := 0
  now    : Nat := 0
  fresh  : Nat := 0
  /-- Index of the next free value (log 7, log 8, log 12). -/
  free   : Nat := 0
  /-- The first engine write under a dead tag of the operation at hand, as TVAL (R347). -/
  deadAt : Option Word := none
  /-- The strand whose instruction is executed, and its 96 bits. -/
  cur    : TileId × Fin 4 := (0, 0)
  ir     : Slot96 := 0#96
  /-- The hart whose instruction is executed. -/
  curHart : Fin 384 := 0
  -- tiles and planes
  tiles  : Tbl Tile := []
  plane  : List Req := []
  msgs   : List TMsg := []
  -- partitions, devices, launches
  parts  : Vector Part 24 := Vector.replicate 24 {}
  vdevs  : Vector Vdev 64 := Vector.replicate 64 {}
  launches : List Launch := []
  rma    : Tbl Rma := []
  -- memory and edge
  hbm    : Mem := []
  hbmBad : List Nat := []
  etus   : Vector Etu 56 := Vector.replicate 56 {}
  dirs   : List VerDir := []
  beads1 : List Bead1 := []
  pools1 : List BeadPool := []
  passSeq : Nat := 0
  reqId  : BitVec 32 := 0#32
  etuWaits : List EtuWait := []
  -- islands, boot, services, power
  harts  : Vector Hart 384 := Vector.replicate 384 {}
  hartsOn : Bool := false
  /-- Reservations of the harts' load-reserved: hart and 64-byte granule (log 6). -/
  lrs    : List (Nat × Nat) := []
  boxes  : Vector BlackBox 48 := Vector.replicate 48 {}
  fuses  : Fuses := {}
  bist   : Bist := {}
  /-- What BIST finds at the resets to come, each in its turn (R391, R399); the same as before where there is none (log 13). -/
  bistNext : List Bist := []
  boot   : Boot := {}
  meters : Meters := {}
  keys   : Vector KeySlot 64 := Vector.replicate 64 {}
  svc    : List SvcRec := []
  reports : List (Word × List Byte) := []
  power  : Power := {}
  notices : List Notice := []
  deriving DecidableEq, Repr

/-- The machine right after power has come up: nothing is kept from before (R3), and the cold boot is next (R385). -/
def State.reset : State := { agenda := [⟨0, .event .coldBoot⟩] }

end Machine
end Sys2Proof
end

