-- ==== Sys2Proof/Machine/Flags.lean ====
section
/-! DEFINITION. The status word SW: its fields (R14), the sticky flags, and what RDW, WRW, traps and TRET do to it. -/

namespace Sys2Proof
namespace Machine

/-- A word with bit `i` set to `b`. -/
def setBit (w : Word) (i : Nat) (b : Bool) : Word :=
  if b then w ||| BitVec.twoPow 64 i else w &&& ~~~(BitVec.twoPow 64 i)

/-- A word whose bits `lo .. lo+n-1` are replaced by those of `v`. -/
def setField (w : Word) (lo n : Nat) (v : Word) : Word :=
  let m := ((BitVec.twoPow 64 n - 1#64) <<< lo)
  (w &&& ~~~m) ||| ((v <<< lo) &&& m)

/-- Bits `lo .. lo+n-1` of a word as a number. -/
def field (w : Word) (lo n : Nat) : Nat := (w.toNat >>> lo) % 2 ^ n

/-- PP (R14). -/
def swPP (sw : Word) : Bool := sw.getLsbD 31
/-- MODE: true is handler mode (R14). -/
def swMode (sw : Word) : Bool := sw.getLsbD 30
/-- PM (R14). -/
def swPM (sw : Word) : Bool := sw.getLsbD 29
/-- SPP (R14). -/
def swSPP (sw : Word) : Bool := sw.getLsbD 28
/-- PXL, the prefix latch (R14). -/
def swPXL (sw : Word) : BitVec 32 := sw.extractLsb' 32 32
/-- DRM (R14). -/
def swDRM (sw : Word) : Nat := field sw 8 3

/-- The classes of formats that share flush bits (R14, R77). -/
inductive FlushClass | c8 | c16 | c32 | none
  deriving DecidableEq, Repr, Inhabited

/-- FR8, FR16, FR32 (R14). -/
def swFR (sw : Word) : FlushClass → Bool
  | .c8 => sw.getLsbD 21 | .c16 => sw.getLsbD 19 | .c32 => sw.getLsbD 17 | .none => false
/-- FI8, FI16, FI32 (R14). -/
def swFI (sw : Word) : FlushClass → Bool
  | .c8 => sw.getLsbD 20 | .c16 => sw.getLsbD 18 | .c32 => sw.getLsbD 16 | .none => false

/-- The sticky flags as five bits: NV DZ OF UF NX from bit 4 down (R14). -/
abbrev FpFlags := BitVec 5

/-- NV alone. -/
def fNV : FpFlags := 0b10000#5
/-- DZ alone. -/
def fDZ : FpFlags := 0b01000#5
/-- OF alone. -/
def fOF : FpFlags := 0b00100#5
/-- UF alone. -/
def fUF : FpFlags := 0b00010#5
/-- NX alone. -/
def fNX : FpFlags := 0b00001#5
/-- A flag if a condition holds. -/
def flagIf (b : Bool) (f : FpFlags) : FpFlags := if b then f else 0#5

/-- Flags merged into SW: an OR, so that none is ever lost (R14). -/
def swOr (sw : Word) (f : FpFlags) : Word := sw ||| f.zeroExtend 64

/-- SW after PFX retires (R31). -/
def swPrefix (sw : Word) (p : BitVec 32) : Word :=
  setBit ((sw &&& 0xFFFFFFFF#64) ||| (p.zeroExtend 64 <<< 32)) 31 true

/-- SW after the prefixed instruction has retired (R31). -/
def swClearPP (sw : Word) : Word := setBit sw 31 false

/-- SW after trap entry (R28). -/
def swTrap (sw : Word) : Word :=
  let a := setBit sw 28 (swPP sw)
  let b := setBit a 31 false
  let c := setBit b 29 (swMode sw)
  setBit c 30 true

/-- SW after TRET, with TPXL (R29). -/
def swTret (sw tpxl : Word) : Word :=
  let a := setBit sw 30 (swPM sw)
  let b := setBit a 31 (swSPP sw)
  let c := (b &&& 0xFFFFFFFF#64) ||| (tpxl <<< 32)
  setBit c 28 false

/-- DRM as WRW stores it: 6 and 7 are stored as 0 (R14). -/
def fixDRM (sw : Word) : Word := if 6 ≤ swDRM sw then setField sw 8 3 0#64 else sw

/-- Writable bits of SW in task mode: [21:16], [10:8] and [4:0] (R14). -/
def swTaskMask : Word := 0x3F071F#64
/-- Writable bits of SW in handler mode: also PXL, PP, PM and SPP (R14). -/
def swHandlerMask : Word := 0xFFFFFFFFB03F071F#64

/-- SW after a WRW of `v` (R14, R118). -/
def swWrite (sw v : Word) : Word :=
  let m := if swMode sw then swHandlerMask else swTaskMask
  fixDRM ((sw &&& ~~~m) ||| (v &&& m))

/-- SW at task start from the launch's DSW (R16). -/
def swStart (dsw : BitVec 14) : Word := (dsw.zeroExtend 64 <<< 8) &&& 0x3F0700#64

end Machine
end Sys2Proof
end

