-- ==== Sys2Proof/Machine/Operands.lean ====
section
/-! DEFINITION. Operand values: widths, extensions, operand b (R50, R95), program counters (R13), byte order (R4),
local spaces (R9) and global tile addresses (R205). -/

namespace Sys2Proof
namespace Machine

/-! ## Widths and extensions -/

/-- Width in bits (R47). -/
def wBits : Width → Nat
  | .b8 => 8 | .b16 => 16 | .b32 => 32 | .b64 => 64
/-- Width in bytes. -/
def wBytes (w : Width) : Nat := wBits w / 8

/-- The low `n` bits of a word. -/
def lowBits (x : Word) (n : Nat) : Nat := x.toNat % 2 ^ n

/-- The value of the low `n` bits, unsigned or signed (R95). -/
def valOf (sgn : Bool) (n : Nat) (x : Word) : Int :=
  let u := lowBits x n
  if sgn && 2 ^ (n - 1) ≤ u then (u : Int) - (2 ^ n : Nat) else (u : Int)

/-- The low `n` bits of an integer, extended to 64 bits (R95). -/
def extOf (sgn : Bool) (n : Nat) (v : Int) : Word :=
  let u := (v % ((2 ^ n : Nat) : Int)).toNat
  if sgn && 2 ^ (n - 1) ≤ u then BitVec.ofInt 64 ((u : Int) - (2 ^ n : Nat)) else BitVec.ofNat 64 u

/-- Extension of a word's low `n` bits (R95). -/
def extW (sgn : Bool) (n : Nat) (x : Word) : Word := extOf sgn n (lowBits x n : Int)

/-! ## Byte order (R4) -/

/-- Little-endian value of bytes. -/
def leNat : List Byte → Nat
  | [] => 0
  | b :: bs => b.toNat + 256 * leNat bs

/-- Little-endian bytes of a value. -/
def leBytes : Nat → Nat → List Byte
  | 0, _ => []
  | n + 1, v => BitVec.ofNat 8 (v % 256) :: leBytes n (v / 256)

/-! ## Program counters (R13) -/

/-- A well-formed PC: bits [5:3] zero, slot 0 to 4. -/
def pcOk (p : Word) : Bool := field p 3 3 == 0 && field p 0 3 ≤ 4

/-- next(p). -/
def nextPc (p : Word) : Word :=
  if field p 0 3 < 4 then p + 1#64 else ((p >>> 6) + 1#64) <<< 6

/-- The line address of a PC within CODE. -/
def lineOf (p : Word) : Nat := (p.toNat / 64) * 64

/-! ## Local spaces (R9) -/

/-- Space code. -/
def spcCode : Spc → Nat
  | .code => 0 | .data => 1 | .wgt => 2 | .act => 3 | .acc => 4 | .ctl => 5
/-- The space of a code; 6 and 7 name none. -/
def spcOf : Nat → Option Spc
  | 0 => some .code | 1 => some .data | 2 => some .wgt | 3 => some .act | 4 => some .acc | 5 => some .ctl
  | _ => none
/-- Size in bytes. -/
def spcSize : Spc → Nat
  | .code => 0x10000 | .data => 0x10000 | .wgt => 0x80000 | .act => 0x80000 | .acc => 0x40000 | .ctl => 0x1000
/-- The space that SP names (R111). -/
def lspc : LSpace → Spc
  | .data => .data | .act => .act | .ctl => .ctl
/-- TVAL of a local trap: space code in [63:61], offset in [60:0] (R27). -/
def spcTval (code : Nat) (ofs : Nat) : Word := BitVec.ofNat 64 ((code % 8) * 2 ^ 61 + ofs % 2 ^ 61)

/-! ## Global tile addresses (R205) -/

/-- Row of a tile. -/
def rowOf (t : TileId) : Nat := t / 256
/-- Column of a tile. -/
def colOf (t : TileId) : Nat := t % 256
/-- The tile at a row and column. -/
def tileAt (r c : Nat) : TileId := r * 256 + c

/-- A global tile address on this wafer, as GTA composes it (R102). -/
def gaddr (row col spc ofs : Nat) : Word :=
  BitVec.ofNat 64 (0xFFF * 2 ^ 52 + (row % 256) * 2 ^ 44 + (col % 256) * 2 ^ 36 + (spc % 8) * 2 ^ 33 + ofs % 2 ^ 24)
/-- CHIP. -/
def gChip (g : Word) : Nat := field g 52 12
/-- ROW. -/
def gRow (g : Word) : Nat := field g 44 8
/-- COL. -/
def gCol (g : Word) : Nat := field g 36 8
/-- SPC. -/
def gSpc (g : Word) : Nat := field g 33 3
/-- The reserved bits [32:24]. -/
def gRsv (g : Word) : Nat := field g 24 9
/-- OFS. -/
def gOfs (g : Word) : Nat := field g 0 24
/-- The tile that a global address names. -/
def gTile (g : Word) : TileId := tileAt (gRow g) (gCol g)
/-- A well-formed 57-bit virtual address (R221 step 1). -/
def vaCanon (g : Word) : Bool :=
  let top := field g 57 7
  top == (if g.getLsbD 56 then 127 else 0)

end Machine
end Sys2Proof
end

