-- ==== Sys2Proof/Machine/Ops.lean ====
section
/-! DEFINITION. The named operations over state: tables and memory, who owns a tile, registers, traps (R28 to R32), retiring,
waits (R203), posted accesses (R214) and the local access checks (R113). -/

namespace Sys2Proof
namespace Machine

/-! ## Tables -/

/-- The entry of a key, or a default. -/
def tget {α : Type} (d : α) : List (Nat × α) → Nat → α
  | [], _ => d
  | (k, v) :: r, i => if k = i then v else tget d r i

/-- The entry of a key, if listed. -/
def tfind {α : Type} : List (Nat × α) → Nat → Option α
  | [], _ => none
  | (k, v) :: r, i => if k = i then some v else tfind r i

/-- A table with the entry of a key set, keys rising. -/
def tset {α : Type} : List (Nat × α) → Nat → α → List (Nat × α)
  | [], i, v => [(i, v)]
  | (k, x) :: r, i, v =>
    if i < k then (i, v) :: (k, x) :: r else if i = k then (i, v) :: r else (k, x) :: tset r i v

/-- A table without a key. -/
def tdel {α : Type} : List (Nat × α) → Nat → List (Nat × α)
  | [], _ => []
  | (k, x) :: r, i => if k = i then r else (k, x) :: tdel r i

/-! ## Memory -/

/-- The canonical form: addresses strictly rising, no cell equal to what an unlisted address reads as (zero). -/
def Memory.wf : Mem → Bool
  | [] => true
  | (a, b) :: r => b != 0#8 && (match r with | [] => true | (a', _) :: _ => decide (a < a')) && Memory.wf r

/-- One byte. -/
def mget (m : Mem) (a : Nat) : Byte := tget 0#8 m a

/-- A memory with one byte written; a zero byte is not listed. -/
def mset (m : Mem) (a : Nat) (b : Byte) : Mem :=
  if b = 0#8 then tdel m a else tset m a b

/-- `n` bytes from an address up. -/
def mread (m : Mem) (a : Nat) : Nat → List Byte
  | 0 => []
  | n + 1 => mget m a :: mread m (a + 1) n

/-- Bytes written from an address up. -/
def mwrite (m : Mem) (a : Nat) : List Byte → Mem
  | [] => m
  | b :: bs => mwrite (mset m a b) (a + 1) bs

/-- A little-endian value of `n` bytes. -/
def mval (m : Mem) (a n : Nat) : Nat := leNat (mread m a n)

/-- A doubleword. -/
def mdw (m : Mem) (a : Nat) : Word := BitVec.ofNat 64 (mval m a 8)

/-- The cells outside an address range. -/
def mclear (m : Mem) (lo n : Nat) : Mem := m.filter (fun c => decide (c.1 < lo) || decide (lo + n ≤ c.1))

/-- The cells inside an address range. -/
def mkeep (m : Mem) (lo n : Nat) : Mem := m.filter (fun c => decide (lo ≤ c.1) && decide (c.1 < lo + n))

/-! ## Tiles and strands -/

/-- A tile. -/
def State.tile (s : State) (t : TileId) : Tile := tget {} s.tiles t
/-- A tile replaced. -/
def State.setTile (s : State) (t : TileId) (x : Tile) : State := { s with tiles := tset s.tiles t x }
/-- A tile changed. -/
def State.modTile (s : State) (t : TileId) (f : Tile → Tile) : State := s.setTile t (f (s.tile t))
/-- A strand slot of a tile. -/
def Tile.strand (x : Tile) (k : Fin 4) : Strand := x.strands[k]
/-- A strand slot replaced. -/
def Tile.setStrand (x : Tile) (k : Fin 4) (r : Strand) : Tile := { x with strands := x.strands.set k r }
/-- A strand slot of the machine. -/
def State.strand (s : State) (t : TileId) (k : Fin 4) : Strand := (s.tile t).strand k
/-- A strand slot replaced. -/
def State.setStrand (s : State) (t : TileId) (k : Fin 4) (r : Strand) : State :=
  s.setTile t ((s.tile t).setStrand k r)
/-- A strand slot changed. -/
def State.modStrand (s : State) (t : TileId) (k : Fin 4) (f : Strand → Strand) : State :=
  s.setStrand t k (f (s.strand t k))

/-- The tile of the issuing strand. -/
def State.ct (s : State) : TileId := s.cur.1
/-- The slot of the issuing strand. -/
def State.ck (s : State) : Fin 4 := s.cur.2
/-- The issuing strand. -/
def State.me (s : State) : Strand := s.strand s.ct s.ck
/-- The issuing strand's tile. -/
def State.my (s : State) : Tile := s.tile s.ct
/-- The issuing strand changed. -/
def State.modMe (s : State) (f : Strand → Strand) : State := s.modStrand s.ct s.ck f
/-- The issuing strand's tile changed. -/
def State.modMy (s : State) (f : Tile → Tile) : State := s.modTile s.ct f

/-- A scalar register of the issuing strand (R12: none is hard-wired). -/
def State.reg (s : State) (r : Reg) : Word := s.me.regs[r]
/-- A scalar register written. -/
def State.setReg (s : State) (r : Reg) (v : Word) : State :=
  s.modMe (fun x => { x with regs := x.regs.set r v })

/-- Operand b (R50): a register, or imm48 sign-extended. -/
def State.src (s : State) : Src → Word
  | .reg r => s.reg r
  | .imm v => v.signExtend 64

/-- A fresh identity. -/
def State.bump (s : State) : State := { s with fresh := s.fresh + 1 }

/-- A notice to an island or a guest. -/
def State.tell (s : State) (n : Notice) : State := { s with notices := s.notices ++ [n] }

/-! ## Partitions -/

/-- Height and width of a partition's node (R314). -/
def Part.height (p : Part) : Nat := if p.tree = 3 then 180 else 60
/-- Width of a partition's node. -/
def Part.width (p : Part) : Nat := if p.tree = 3 then 256 else 32 * 2 ^ p.lvl.val
/-- Row of the origin. -/
def Part.row0 (p : Part) : Nat := if p.tree = 3 then 0 else 60 * p.tree.val
/-- Column of the origin. -/
def Part.col0 (p : Part) : Nat := if p.tree = 3 then 0 else 32 * 2 ^ p.lvl.val * p.idx.val
/-- A partition that holds bays (R316). -/
def Part.owns (p : Part) : Bool := p.st == .assigned || p.st == .releasing
/-- Does the partition cover a tile? -/
def Part.covers (p : Part) (t : TileId) : Bool :=
  p.owns && decide (p.row0 ≤ rowOf t) && decide (rowOf t < p.row0 + p.height)
  && decide (p.col0 ≤ colOf t) && decide (colOf t < p.col0 + p.width)

/-- The partition of a tile, if any. -/
def State.partOf (s : State) (t : TileId) : Option (Fin 24) :=
  (List.finRange 24).find? (fun p => (s.parts[p]).covers t)
/-- A partition changed. -/
def State.modPart (s : State) (p : Fin 24) (f : Part → Part) : State :=
  { s with parts := s.parts.set p (f s.parts[p]) }
/-- A virtual device changed. -/
def State.modVdev (s : State) (v : Fin 64) (f : Vdev → Vdev) : State :=
  { s with vdevs := s.vdevs.set v (f s.vdevs[v]) }

/-- An absent tile (R394): listed, or of a retired region. -/
def State.absent (s : State) (t : TileId) : Bool :=
  s.boot.absent.contains t || s.boot.retired.contains (8 * (rowOf t / 30) + colOf t / 32)

/-- A present tile of a partition. -/
def State.presentIn (s : State) (p : Fin 24) (t : TileId) : Bool := (s.parts[p]).covers t && !s.absent t

/-- A launch by its ID. -/
def State.launch (s : State) (id : Nat) : Option Launch := s.launches.find? (fun l => l.id == id)
/-- A launch changed. -/
def State.modLaunch (s : State) (id : Nat) (f : Launch → Launch) : State :=
  { s with launches := s.launches.map (fun l => if l.id == id then f l else l) }
/-- The launch that holds a partition. -/
def State.curLaunch (s : State) (p : Fin 24) : Option Launch := (s.parts[p]).cur.bind s.launch
/-- The launch that runs on a tile. -/
def State.launchAt (s : State) (t : TileId) : Option Launch := (s.partOf t).bind s.curLaunch
/-- The placed tiles of the launch that holds a partition. -/
def State.placed (s : State) (p : Fin 24) : List TileId := ((s.curLaunch p).map (·.placed)).getD []

/-- CHIP names this wafer (R205). -/
def State.ownChip (s : State) (chip : Nat) : Bool := chip == 0xFFF || chip == s.boot.chip.toNat

/-- COORD of a tile (R25). -/
def State.coord (s : State) (t : TileId) : Word :=
  let (pr, pc) := match s.partOf t with
    | some p => (rowOf t - (s.parts[p]).row0, colOf t - (s.parts[p]).col0)
    | none => (0, 0)
  BitVec.ofNat 64 ((pr % 256) * 2 ^ 24 + (pc % 256) * 2 ^ 16 + (rowOf t % 256) * 2 ^ 8 + colOf t % 256)

/-! ## Posted accesses and their counters (R214, R235) -/

/-- A colour counter. -/
def Tile.cc (x : Tile) (c : Fin 8) : Nat := (x.posted.filter (fun q => q.col == c)).length
/-- A class counter. -/
def Tile.cls (x : Tile) (c : Cls) : Nat := (x.posted.filter (fun q => q.cls == c)).length
/-- CNT of a binding entry. -/
def Tile.cnt (x : Tile) (k : Fin 8) : Nat := (x.posted.filter (fun q => q.binds.contains k)).length

/-! ## Words of the control space (R204) -/

/-- States of a blank as codes. -/
def BlankSt.code : BlankSt → Nat
  | .empty => 0 | .filling => 1 | .ready => 2 | .draining => 3

/-- A Bool as a number. -/
def b2n (b : Bool) : Nat := if b then 1 else 0

/-- Doubleword `h` of a blank entry (R227). -/
def Blank.word (b : Blank) (h : Nat) : Nat :=
  if h = 0 then b.spc * 2 ^ 56 + b.base * 2 ^ 32 + b.len
  else b.tok.toNat * 2 ^ 48 + b.rdr * 2 ^ 40 + b.hold * 2 ^ 37 + b2n b.fw * 2 ^ 36 + b2n b.err * 2 ^ 35
    + b2n b.dfn * 2 ^ 34 + b.st.code * 2 ^ 32

/-- Doubleword `h` of a range-lock entry (R225). -/
def lockWord (l : Option RLock) (h : Nat) : Nat :=
  match l with
  | none => 0
  | some r =>
    if h = 0 then 2 ^ 63 + r.hold * 2 ^ 37 + (if r.rd then 3 else 1) * 2 ^ 35 + spcCode r.spc * 2 ^ 32 + r.lo
    else r.hi

/-- Doubleword `h` of a binding entry (R234). -/
def Tile.bindWord (x : Tile) (k : Fin 8) (h : Nat) : Nat :=
  let b := x.binds[k]
  if h = 0 then b.gate.toNat
  else if h = 1 then b.rbase.toNat
  else if h = 2 then x.cnt k * 2 ^ 48 + b2n b.rv * 2 ^ 41 + b2n b.gv * 2 ^ 40 + b.rlen
  else 0

/-- Doubleword `i` of CTL, as a number (R204). -/
def Tile.ctlWord (x : Tile) (i : Nat) : Nat :=
  let o := 8 * i
  if o < 0x400 then (x.blanks[Fin.ofNat 64 (o / 16)]).word (o / 8 % 2)
  else if o < 0x500 then
    let w := x.windows[Fin.ofNat 8 ((o - 0x400) / 32)]
    let h := o / 8 % 4
    (if h = 0 then w.w0 else if h = 1 then w.w1 else if h = 2 then w.w2 else 0#64).toNat
  else if o < 0x600 then lockWord (x.locks[Fin.ofNat 16 ((o - 0x500) / 16)]) (o / 8 % 2)
  else if o < 0x700 then x.bindWord (Fin.ofNat 8 ((o - 0x600) / 32)) (o / 8 % 4)
  else if o < 0x800 then 0
  else if o < 0x900 then
    let g := x.trigs[Fin.ofNat 16 ((o - 0x800) / 16)]
    (if o / 8 % 2 = 0 then g.w0 else g.w1).toNat
  else if o = 0x900 then x.stage.toNat
  else if o = 0xA00 then x.cc 0 + x.cc 1 * 2 ^ 16 + x.cc 2 * 2 ^ 32 + x.cc 3 * 2 ^ 48
  else if o = 0xA08 then x.cc 4 + x.cc 5 * 2 ^ 16 + x.cc 6 * 2 ^ 32 + x.cc 7 * 2 ^ 48
  else if o = 0xA10 then x.cls .tile + x.cls .edge * 2 ^ 16 + x.cls .net * 2 ^ 32
  else if o = 0xA18 then x.raddr.toNat
  else if o = 0xA20 then b2n x.rv * 2 ^ 16 + x.rcnt.toNat
  else 0

/-- The bytes of a space, CTL apart. -/
def Tile.mem (x : Tile) : Spc → Mem
  | .code => x.code | .data => x.data | .wgt => x.wgt | .act => x.act | .acc => x.acc | .ctl => []

/-- The bytes of a space replaced, CTL apart. -/
def Tile.setMem (x : Tile) (sp : Spc) (m : Mem) : Tile :=
  match sp with
  | .code => { x with code := m } | .data => { x with data := m } | .wgt => { x with wgt := m }
  | .act => { x with act := m } | .acc => { x with acc := m } | .ctl => x

/-- One byte of a local space, the base of a tagged window included. -/
def Tile.byte (x : Tile) (sp : Spc) (o : Nat) : Byte :=
  match sp with
  | .ctl => BitVec.ofNat 8 (x.ctlWord (o / 8) / 2 ^ (8 * (o % 8)) % 256)
  | _ => mget (x.mem sp) o

/-- Bytes of a local space. -/
def Tile.bytes (x : Tile) (sp : Spc) (o n : Nat) : List Byte :=
  (List.range n).map (fun i => x.byte sp (o + i))

/-- Bytes of a local space written, CTL apart. -/
def Tile.putBytes (x : Tile) (sp : Spc) (o : Nat) (bs : List Byte) : Tile :=
  x.setMem sp (mwrite (x.mem sp) o bs)

/-- Writable bits of a window register's words (R209). -/
def winMask (h : Nat) : Nat :=
  if h = 0 then 2 ^ 63 + 7 * 2 ^ 56 + (2 ^ 20 - 1) * 2 ^ 32 + (2 ^ 20 - 1)
  else if h = 1 then (2 ^ 32 - 1) * 2 ^ 32 + 7 else if h = 2 then 2 ^ 13 - 1 else 0
/-- Writable bits of a trigger slot's words (R177). -/
def trigMask (h : Nat) : Nat := if h = 0 then 2 ^ 48 - 1 else 1

/-- A word with one byte replaced under a mask of writable bits. -/
def putByte (old : Word) (mask : Nat) (pos : Nat) (b : Byte) : Word :=
  let m : Word := BitVec.ofNat 64 mask &&& (0xFF#64 <<< (8 * pos))
  (old &&& ~~~m) ||| ((b.zeroExtend 64 <<< (8 * pos)) &&& m)

/-- One byte stored into CTL by a handler (R204): window registers and trigger slots; every other range discards it. -/
def Tile.ctlPutByte (x : Tile) (o : Nat) (b : Byte) : Tile :=
  if 0x400 ≤ o ∧ o < 0x500 then
    let i := Fin.ofNat 8 ((o - 0x400) / 32)
    let w := x.windows[i]
    let h := o / 8 % 4
    let p := o % 8
    let w' : WinReg :=
      if h = 0 then { w with w0 := putByte w.w0 (winMask 0) p b }
      else if h = 1 then { w with w1 := putByte w.w1 (winMask 1) p b }
      else if h = 2 then { w with w2 := putByte w.w2 (winMask 2) p b } else w
    { x with windows := x.windows.set i w' }
  else if 0x800 ≤ o ∧ o < 0x900 then
    let i := Fin.ofNat 16 ((o - 0x800) / 16)
    let g := x.trigs[i]
    let p := o % 8
    let g' : Trigger :=
      if o / 8 % 2 = 0 then { g with w0 := putByte g.w0 (trigMask 0) p b }
      else { g with w1 := putByte g.w1 (trigMask 1) p b }
    { x with trigs := x.trigs.set i g' }
  else x

/-- Bytes stored into CTL. -/
def Tile.ctlPut (x : Tile) (o : Nat) : List Byte → Tile
  | [] => x
  | b :: bs => (x.ctlPutByte o b).ctlPut (o + 1) bs

/-! ## Range locks (R225, R226) -/

/-- Do two byte ranges meet? -/
def overlap (lo1 hi1 lo2 hi2 : Nat) : Bool := decide (lo1 ≤ hi2) && decide (lo2 ≤ hi1)

/-- The locks in use. -/
def Tile.lockList (x : Tile) : List RLock := x.locks.toList.filterMap id

/-- A range guarded against reads, or against writes. -/
def Tile.guarded (x : Tile) (sp : Spc) (lo n : Nat) (write : Bool) : Bool :=
  n != 0 && x.lockList.any (fun l => l.spc == sp && (write || l.rd) && overlap lo (lo + n - 1) l.lo l.hi)

/-- The locks of an operation released. -/
def Tile.unlock (x : Tile) (owner : Nat) : Tile :=
  { x with locks := x.locks.map (fun l => match l with
      | some r => if r.owner = owner then none else some r
      | none => none) }

/-- One lock placed in the lowest free entry of the table, the model's choice (log 21). -/
def Tile.lock1 (x : Tile) (r : RLock) : Tile :=
  match (List.finRange 16).find? (fun i => (x.locks[i]).isNone) with
  | some i => { x with locks := x.locks.set i (some r) }
  | none => x

/-! ## Traps (R26 to R32) -/

/-- Cause codes (R27). -/
def Cause.code : Cause → Nat
  | .illegal => 0x01 | .illegalLine => 0x02 | .fetchBounds => 0x03 | .controlFlow => 0x04 | .localBounds => 0x05
  | .localRights => 0x06 | .misaligned => 0x07 | .rangeLock => 0x08 | .remoteRefused => 0x09 | .waitExpired => 0x0A
  | .tagExhaustion => 0x0B | .privileged => 0x0C | .recordRefused => 0x0D | .blankState => 0x0E
  | .versionRefused => 0x0F | .virtualRefused => 0x10 | .trap => 0x11 | .breakpoint => 0x12 | .escalation => 0x20
  | .doubleTrap => 0x21 | .machineCheck => 0x3F

/-- A strand in handler mode. -/
def Strand.inHandler (r : Strand) : Bool := r.live && swMode r.sw

/-- Is another strand of the tile in handler mode (R28)? A strand that the island holds still is. -/
def Tile.otherInHandler (x : Tile) (k : Fin 4) : Bool :=
  (List.finRange 4).any (fun j => j != k && (x.strand j).inHandler)

/-- Entry to the handler, in R28's own steps. -/
def Tile.enterHandler (x : Tile) (k : Fin 4) (r : TrapRec) : Tile :=
  let z := x.strand k
  let cw := { x.cw with
    tepc := r.epc, tval := r.tval
    tcause := BitVec.ofNat 64 (k.val * 64 + r.cause.code)
    tpxl := (swPXL z.sw).zeroExtend 64 }
  ({ x with cw := cw }).setStrand k
    { z with sw := swTrap z.sw, pc := cw.tvec, line := none, pend := none, wait := none, fixed := none }

/-- The trap words of a tile (R25, R30). -/
def TileWords.trapWords (w : TileWords) : TrapWords := ⟨w.tcause, w.tepc, w.tval, w.tpxl.truncate 32⟩

/-- Is the tile halted, or in the clk at whose end it halts (R363)? A trap raised now is not entered (R366). -/
def Tile.halting (x : Tile) (now : Nat) : Bool :=
  x.halted || x.sliceEnd.any (fun c => decide (c + x.cw.ydl.toNat ≤ now))

/-- A trap of a strand: into the handler, pending behind another strand's handler run (R28), pending at a halt (R366), or, in
handler mode, a double trap that the island holds (R30). -/
def State.takeTrapAt (s : State) (t : TileId) (k : Fin 4) (r : TrapRec) : State :=
  let x := s.tile t
  let z := x.strand k
  if swMode z.sw then
    (s.setTile t (x.setStrand k { z with held := some .double, wait := none })).tell
      (.strand t k ⟨.doubleTrap, z.pc, BitVec.ofNat 64 r.cause.code⟩ x.cw.trapWords)
  else if x.otherInHandler k || x.halting s.now then
    s.setTile t (x.setStrand k { z with pend := some r, wait := none })
  else s.setTile t (x.enterHandler k r)

/-- The trap of the issuing strand. -/
def State.trapMe (s : State) (r : TrapRec) : State := s.takeTrapAt s.ct s.ck r

/-- A precise trap of the issuing strand with TEPC the trapping PC (R27). -/
def State.trapHere (s : State) (c : Cause) (tval : Word) : State := s.trapMe ⟨c, s.me.pc, tval⟩

/-- *Illegal instruction* at the issuing strand: TVAL holds instruction bits [95:64] (R57). -/
def State.trapIllegal (s : State) : State := s.trapHere .illegal ((s.ir.extractLsb' 64 32).zeroExtend 64)

/-- The slots after `k` in slot order, wrapping, `k` itself last. -/
def slotsAfter (k : Fin 4) : List (Fin 4) := [k + 1, k + 2, k + 3, k]

/-- The next pending trap enters the handler (R28); the search starts after slot `k`. -/
def Tile.nextPending (x : Tile) (k : Fin 4) : Tile :=
  let x := { x with lastH := k }
  if x.halted || (List.finRange 4).any (fun j => (x.strand j).inHandler) then x
  else match (slotsAfter k).find? (fun j => (x.strand j).live && (x.strand j).pend.isSome) with
    | some j => match (x.strand j).pend with
      | some r => x.enterHandler j r
      | none => x
    | none => x

/-! ## Retiring -/

/-- The issuing strand retires its instruction and goes on at `next`: RETIRED counts it (R25), and a prefix it ran under is
spent (R31). -/
def State.retireTo (s : State) (next : Word) : State :=
  let x := s.my
  let z := x.strand s.ck
  let z := { z with pc := next, sw := swClearPP z.sw, wait := none, fixed := none }
  s.setTile s.ct { x.setStrand s.ck z with
    cw := { x.cw with retired := (x.cw.retired + 1) % 2 ^ 64 } }

/-- The issuing strand retires its instruction and goes on at next(PC). -/
def State.retire (s : State) : State := s.retireTo (nextPc s.me.pc)

/-- A strand whose instruction, issued before, now retires (the reply of a request: R219, R366). -/
def State.retireAt (s : State) (t : TileId) (k : Fin 4) : State :=
  let c := s.cur
  { ({ s with cur := (t, k) }).retire with cur := c }

/-! ## Waits (R203) -/

/-- HANG in clks: 0 means 2^40 − 1 (R25). -/
def Tile.hangBound (x : Tile) : Nat :=
  let h := field x.cw.hang 0 40
  if h = 0 then 2 ^ 40 - 1 else h

/-- What a blocked instruction says of its wait. -/
structure WaitSpec where
  kind  : WaitKind
  tval  : Nat
  bound : Bool := true
  req   : Option Nat := none
  dst   : Reg := 0
  target : Option (Option Half) := none
  deriving DecidableEq, Repr

/-- The posted accesses that the issuing strand's waits cover: those counted when its instruction first issued (R214). -/
def State.cover (s : State) : List Nat :=
  match s.me.wait with
  | some r => r.cover
  | none => s.my.posted.map (·.id)

/-- Have the selected accesses that the wait covers drained? -/
def State.drained (s : State) (sel : Posted → Bool) : Bool :=
  !(s.my.posted.any (fun q => sel q && s.cover.contains q.id))

/-- The wait that begins now. -/
def State.newWait (s : State) (w : WaitSpec) (stamp : Nat) : WaitRec :=
  { kind := w.kind, tval := BitVec.ofNat 64 w.tval, bound := if w.bound then some s.my.hangBound else none, count := 0,
    cover := s.cover, stamp := stamp, last := s.steps, req := w.req, dst := w.dst, target := w.target }

/-- The issuing strand blocks, or goes on blocking in the same wait, known by its kind and its TVAL (R203); the instruction has no
effect. Another TVAL is a wait of its own, which counts anew and keeps its place in line. -/
def State.block (s : State) (w : WaitSpec) : State :=
  match s.me.wait with
  | some r =>
    let r' :=
      if r.kind = w.kind then
        if r.tval = BitVec.ofNat 64 w.tval then { r with last := s.steps } else s.newWait w r.stamp
      else s.newWait w s.fresh
    (s.modMe (fun z => { z with wait := some r' })).bump
  | none =>
    let r' := s.newWait w s.fresh
    (s.modMe (fun z => { z with wait := some r' })).bump

/-- The strands of a tile that are blocked in a wait of the kinds `sel` before stamp `st`. -/
def Tile.ahead (x : Tile) (sel : WaitKind → Bool) (me : Fin 4) (st : Option Nat) : Nat :=
  ((List.finRange 4).filter (fun j => j != me &&
    (match (x.strand j).wait with
      | some w => sel w.kind && (match st with | some n => decide (w.stamp < n) | none => true)
      | none => false))).length

/-- How many strands wait in the kinds `sel` before the issuing strand (R21, R22). -/
def State.rankOf (s : State) (sel : WaitKind → Bool) : Nat :=
  s.my.ahead sel s.ck (match s.me.wait with
    | some w => if sel w.kind then some w.stamp else none
    | none => none)

/-- How many strands wait in one kind of wait before the issuing strand. -/
def State.rank (s : State) (kind : WaitKind) : Nat := s.rankOf (· == kind)

/-- The wait of a strand in a switch has expired: the arrival of its tile is removed, and the other strands of the tile that wait join
the next one (R357, log 50). -/
def Tile.unarrive (x : Tile) (w : Fin 64) : Tile :=
  { x with strands := x.strands.map (fun z => match z.wait with
    | some r => if r.kind = .vsw w then { z with wait := some { r with arrived := false } } else z
    | none => z) }

/-! ## Acquire points (R220) -/

/-- The issuing strand passes an acquire point. -/
def State.acquire (s : State) : State := s.modMe (fun z => { z with acqAt := s.steps })

/-- A tile passes an acquire point: its resident strands do, and every strand that runs there later (R252, R357 step 4). -/
def State.acquireTile (s : State) (t : TileId) : State :=
  s.modTile t (fun x => { x with acqAt := s.steps, strands := x.strands.map (fun z => { z with acqAt := s.steps }) })

/-! ## Outcome of a meaning -/

/-- What the checks of an instruction find. -/
inductive Chk
  | ok
  | illegal                               -- *illegal instruction*
  | trap (c : Cause) (tval : Word)        -- a precise trap
  | wait (w : WaitSpec)                   -- the strand blocks
  | stop (c : StopCause)                  -- poison: the partition is stopped (R401)
  deriving DecidableEq, Repr, Inhabited

/-- The first check that does not pass. -/
def Chk.andThen (a : Chk) (b : Unit → Chk) : Chk :=
  match a with
  | .ok => b ()
  | r => r

/-- A trap unless a condition holds. -/
def need (b : Bool) (c : Cause) (tval : Word) : Chk := if b then .ok else .trap c tval

/-- Illegal unless a condition holds. -/
def legal (b : Bool) : Chk := if b then .ok else .illegal

/-- Checks made in order: the first that does not pass decides (R58). -/
def firstOf : List (Unit → Chk) → Chk
  | [] => .ok
  | c :: cs => (c ()).andThen (fun _ => firstOf cs)

/-- The partition of a tile is to be stopped (R401, R402). -/
def State.stopAt (s : State) (t : TileId) (c : StopCause) : State :=
  match s.partOf t with
  | some p => s.modPart p (fun q => { q with stopDue := some (q.stopDue.getD c) })
  | none => s

/-- One instruction of the issuing strand: its checks, and where they pass its effect. No check has an effect (R26). -/
def run (s : State) (c : Chk) (eff : State → State) : Out State :=
  match c with
  | .ok => .next (eff s)
  | .illegal => .next s.trapIllegal
  | .trap c v => .next (s.trapHere c v)
  | .wait w => .next (s.block w)
  | .stop c => .next (s.stopAt s.ct c)

/-- An instruction that accepts no prefix (R54): illegal while PP = 1 (R31). -/
def noPrefix (s : State) : Chk := legal (!swPP s.me.sw)

/-- An instruction without prefix: its own checks after R58 step 1. -/
def plain (s : State) (c : Chk) (eff : State → State) : Out State :=
  run s ((noPrefix s).andThen (fun _ => c)) eff

end Machine
end Sys2Proof
end

