-- ==== Sys2Proof/Machine/Local.lean ====
section
/-! DEFINITION. Local accesses: the checks of R113, the tagged windows of a tile (R341, R343), poison (R401), refusals that are
recorded or delivered late (R211), and the reads and writes themselves (R114). -/

namespace Sys2Proof
namespace Machine

/-! ## Tagged windows of a tile (R337, R343) -/

/-- Does a window's rectangle hold a tile of the launch's partition? -/
def State.inRect (s : State) (w : WinEnt) (t : TileId) : Bool :=
  match s.partOf t with
  | some p =>
    let r := rowOf t - (s.parts[p]).row0
    let c := colOf t - (s.parts[p]).col0
    decide (w.row0 ≤ r) && decide (r ≤ w.row1) && decide (w.col0 ≤ c) && decide (c ≤ w.col1)
  | none => false

/-- The window table of the launch that runs on a tile, with window numbers. -/
def State.wins (s : State) (t : TileId) : List (Nat × WinEnt) :=
  match s.launchAt t with
  | some l => (List.range l.wins.length).zip l.wins
  | none => []

/-- The type 2 windows of a tile. -/
def State.wins2 (s : State) (t : TileId) : List (Nat × WinEnt) :=
  (s.wins t).filter (fun w => w.2.type == 2 && s.inRect w.2 t)

/-- The type 2 window that holds a byte. -/
def State.win2 (s : State) (t : TileId) (sp : Spc) (o : Nat) : Option (Nat × WinEnt) :=
  (s.wins2 t).find? (fun w => w.2.spc == spcCode sp && decide (w.2.base.toNat ≤ o) && decide (o < w.2.base.toNat + w.2.len))

/-- Does an access touch the pool of a type 2 window? -/
def State.inPool (s : State) (t : TileId) (sp : Spc) (o n : Nat) : Bool :=
  (s.wins2 t).any (fun w => w.2.spc == spcCode sp && n != 0
    && overlap o (o + n - 1) w.2.psb.toNat (w.2.psb.toNat + 64 * w.2.plv.toNat - 1))

/-- The bead of a granule and a tag (R341). -/
def Tile.bead (x : Tile) (w : Nat) (o : Nat) (tag : Half) : Option Bead2 :=
  x.beads.find? (fun b => b.win == w && b.gran == o / 64 && b.tag == tag)

/-- State of a tag of a launch (R340). -/
def Launch.tag (l : Launch) (t : Half) : TagSt := if t = 0#16 then .live else tget .free l.tags t.toNat

/-- Has a home freed the tag, whose retirement other homes have still to end (R346)? Tag 0 is never retired. -/
def Part.tagFreed (q : Part) (h : TagHome) (t : Half) : Bool :=
  t != 0#16 && q.retire.any (fun r => r.tag == t && (match r.left with | some l => !l.any (fun x => x.1 == h) | none => false))

/-- May the tag be written with on this tile (R341, R347)? A retiring tag still may, until its homes have freed it (log 19). -/
def State.tagLive (s : State) (t : TileId) (tag : Half) : Bool :=
  match s.launchAt t with
  | some l => l.tag tag != .free && !(match s.partOf t with | some p => (s.parts[p]).tagFreed (.tile t) tag | none => false)
  | none => tag == 0#16

/-- Pool granules that queued or running operations have reserved (R343). -/
def Tile.poolReserved (x : Tile) (w : Nat) : Nat :=
  let of (c : Cmd) : Nat := (c.pool.map (fun p => if p.1 = w then p.2 else 0)).sum
  let q := (x.cmdq.toList.flatten.map (fun e => match e with | .cmd c => of c | .raw _ => 0)).sum
  let m := (x.mat.run.map (fun r => of r.cmd)).sum
  let v := match x.vec with | some c => of c | none => 0
  q + m + v + (x.copies.map (fun r => of r.cmd)).sum

/-- Free pool indices of a window. -/
def Tile.poolFree (x : Tile) (w : Nat) (plv : Nat) : List Nat :=
  (List.range plv).filter (fun i => !(x.beads.any (fun b => b.win == w && b.idx == i)))

/-- Does a write with this tag need a bead that does not exist? -/
def State.needsBead (s : State) (t : TileId) (sp : Spc) (o : Nat) (tag : Half) : Option (Nat × WinEnt) :=
  if tag = 0#16 then none
  else match s.win2 t sp o with
    | some (w, e) => if ((s.tile t).bead w o tag).isSome then none else some (w, e)
    | none => none

/-- Where a byte lies for a tag: in its bead, or in the base (R341). -/
def State.place (s : State) (t : TileId) (sp : Spc) (o : Nat) (tag : Half) : Nat :=
  if tag = 0#16 then o
  else match s.win2 t sp o with
    | some (w, e) => match (s.tile t).bead w o tag with
      | some b => e.psb.toNat + 64 * b.idx + o % 64
      | none => o
    | none => o

/-- The bytes of a local access under a tag. An access lies within one granule (R341). -/
def State.lread (s : State) (t : TileId) (sp : Spc) (o n : Nat) (tag : Half) : List Byte :=
  (s.tile t).bytes sp (s.place t sp o tag) n

/-- Poisoned words that an access meets. -/
def Tile.poisoned (x : Tile) (sp : Spc) (o n : Nat) : List Nat :=
  if n = 0 then [] else
    (x.poison.filter (fun p => p.1 == sp && overlap (8 * p.2) (8 * p.2 + 7) o (o + n - 1))).map (·.2)

/-- A write leaves poison only in words that it does not cover whole (R401). -/
def Tile.unpoison (x : Tile) (sp : Spc) (o n : Nat) : Tile :=
  { x with poison := x.poison.filter (fun p => !(p.1 == sp && decide (o ≤ 8 * p.2) && decide (8 * p.2 + 8 ≤ o + n))) }

/-- The first write with a tag to a granule makes its bead: the 64 base bytes, in the lowest free pool granule (R341, R342). -/
def State.materialise (s : State) (t : TileId) (sp : Spc) (o : Nat) (tag : Half) : State :=
  match s.needsBead t sp o tag with
  | none => s
  | some (w, e) =>
    let x := s.tile t
    match x.poolFree w e.plv.toNat with
    | [] => s
    | i :: _ =>
      let x1 := x.putBytes sp (e.psb.toNat + 64 * i) (x.bytes sp (o / 64 * 64) 64)
      s.setTile t { x1 with beads := x1.beads ++ [⟨w, o / 64, tag, i⟩] }

/-- The write of a local access under a tag, the bead made first where it is needed. -/
def State.lwrite (s : State) (t : TileId) (sp : Spc) (o : Nat) (bs : List Byte) (tag : Half) : State :=
  let s1 := s.materialise t sp o tag
  let p := s1.place t sp o tag
  s1.modTile t (fun x => (match sp with
    | .ctl => x.ctlPut o bs
    | _ => x.putBytes sp p bs).unpoison sp p bs.length)

/-- A write of an engine: one under a dead tag is refused, and the first such is noted for the operation's failure (R347). -/
def State.ewrite (s : State) (t : TileId) (sp : Spc) (o : Nat) (bs : List Byte) (tag : Half) : State :=
  if !s.tagLive t tag && (s.win2 t sp o).isSome then { s with deadAt := some (s.deadAt.getD (spcTval (spcCode sp) o)) }
  else s.lwrite t sp o bs tag

/-- The stop that the poisoned word at offset `o` of a space brings about, with its syndrome (R401, R405). -/
def State.poisonStop (s : State) (t : TileId) (sp : Spc) (o : Nat) : StopCause :=
  { kind := 0x10, d0 := spcTval (spcCode sp) o, d1 := Config.eccWord s.steps, row := rowOf t, col := colOf t }

/-- The stop that an access to `n` bytes brings about, by the lowest poisoned word that it meets. -/
def State.poisonCause (s : State) (t : TileId) (sp : Spc) (o n : Nat) : StopCause :=
  match (s.tile t).poisoned sp o n with
  | w :: r => s.poisonStop t sp (8 * r.foldl min w)
  | [] => s.poisonStop t sp o

/-- Does an access read poison? A write does where it covers a poisoned word in part (R401). -/
def State.poisonHit (s : State) (t : TileId) (sp : Spc) (o n : Nat) (write : Bool) : Bool :=
  ((s.tile t).poisoned sp o n).any (fun w => !write || !(decide (o ≤ 8 * w) && decide (8 * w + 8 ≤ o + n)))

/-! ## The checks of R113 -/

/-- One local access of the issuing strand. -/
structure LAcc where
  sp    : Spc
  addr  : Word
  size  : Nat
  align : Nat
  write : Bool
  tag   : Half

/-- TVAL of a trap of the access. -/
def LAcc.tval (a : LAcc) : Word := spcTval (spcCode a.sp) a.addr.toNat

/-- Checks 1 to 4 of R113 in their order, the tag of a write (R347) among the rights, then poison (R401). -/
def State.localChk (s : State) (a : LAcc) : Chk :=
  let o := a.addr.toNat
  if spcSize a.sp < o + a.size then .trap .localBounds a.tval
  else if (a.write && a.sp == .ctl && !swMode s.me.sw) || s.inPool s.ct a.sp o a.size
      || (a.write && (s.win2 s.ct a.sp o).isSome && !s.tagLive s.ct a.tag) then .trap .localRights a.tval
  else if o % a.align ≠ 0 then .trap .misaligned a.tval
  else if s.my.guarded a.sp o a.size a.write then .trap .rangeLock a.tval
  else if s.poisonHit s.ct a.sp (s.place s.ct a.sp o a.tag) a.size a.write then
    .stop (s.poisonCause s.ct a.sp (s.place s.ct a.sp o a.tag) a.size)
  else .ok

/-- A store that needs a bead waits while its window's pool has no free granule (R343); the bead's making reads the base (R401). -/
def State.poolChk (s : State) (a : LAcc) : Chk :=
  match s.needsBead s.ct a.sp a.addr.toNat a.tag with
  | none => .ok
  | some (w, e) =>
    let g := a.addr.toNat / 64 * 64
    if (s.my.poolFree w e.plv.toNat).length ≤ s.my.poolReserved w then .wait { kind := .pool, tval := 0x0402 }
    else if s.poisonHit s.ct a.sp g 64 false then .stop (s.poisonCause s.ct a.sp g 64)
    else .ok

/-- The value of a local load. -/
def State.lval (s : State) (a : LAcc) : Nat := leNat (s.lread s.ct a.sp a.addr.toNat a.size a.tag)

/-- A local store by the issuing strand. -/
def State.lput (s : State) (a : LAcc) (v : Nat) : State :=
  s.lwrite s.ct a.sp a.addr.toNat (leBytes a.size v) a.tag

/-- A clearing read: any load that touches a byte of 0xA20 to 0xA27 of CTL sets RCNT to 0 (R211). -/
def State.clearingRead (s : State) (a : LAcc) : State :=
  if a.sp = .ctl ∧ overlap a.addr.toNat (a.addr.toNat + a.size - 1) 0xA20 0xA27 = true
  then s.modMy (fun x => { x with rcnt := 0#16 }) else s

/-- A read of a record or a payload in DATA under R113. -/
def State.recAcc (s : State) (addr : Word) (size align : Nat) : LAcc :=
  { sp := .data, addr := addr, size := size, align := align, write := false, tag := s.me.ctx }

/-- A read of a record or a payload in DATA: the checks of R113 in order, poison in any doubleword of it. -/
def State.recChk (s : State) (addr : Word) (size align : Nat) : Chk :=
  let a := s.recAcc addr size align
  let o := addr.toNat
  if spcSize .data < o + size then .trap .localBounds a.tval
  else if s.inPool s.ct .data o size then .trap .localRights a.tval
  else if o % align ≠ 0 then .trap .misaligned a.tval
  else if s.my.guarded .data o size false then .trap .rangeLock a.tval
  else match (List.range (size / 8)).find? (fun i => s.poisonHit s.ct .data (s.place s.ct .data (o + 8 * i) s.me.ctx) 8 false) with
    | some i => .stop (s.poisonCause s.ct .data (s.place s.ct .data (o + 8 * i) s.me.ctx) 8)
    | none => .ok

/-- The bytes of a record in DATA: granule by granule, each under the strand's CTX (R339). -/
def State.recBytes (s : State) (addr : Nat) (size : Nat) (tag : Half) : List Byte :=
  (List.range size).map (fun i => (s.tile s.ct).byte .data (s.place s.ct .data (addr + i) tag))

/-- Doubleword `i` of a record's bytes. -/
def dwOf (bs : List Byte) (i : Nat) : Word := BitVec.ofNat 64 (leNat ((bs.drop (8 * i)).take 8))

/-! ## Refusals (R211) -/

/-- A refusal that is not delivered as a trap is recorded; the island is told when RCNT leaves zero. -/
def State.recordRefusal (s : State) (t : TileId) (addr : Word) (virt : Bool) : State :=
  let x := s.tile t
  if x.rcnt = 0#16 then
    (s.setTile t { x with rcnt := 1#16, raddr := addr, rv := virt }).tell (.tileEvent t)
  else s.setTile t { x with rcnt := if x.rcnt = 0xFFFF#16 then 0xFFFF#16 else x.rcnt + 1#16 }

/-- Is the partition of a tile draining (R367)? -/
def State.drainingAt (s : State) (t : TileId) : Bool :=
  match s.partOf t with
  | some p => (s.parts[p]).draining
  | none => false

/-- A trap that this manual delivers at the next instruction boundary of the strand `uid` in slot `k`, or the record that
replaces it: strand freed, in handler mode, with a trap pending, halted under R30, or the partition draining (R211, R367). -/
def State.lateTrap (s : State) (t : TileId) (k : Fin 4) (uid : Nat) (c : Cause) (tval : Word) : State :=
  let z := s.strand t k
  if z.live && z.uid == uid && !swMode z.sw && z.pend.isNone && z.late.isNone && z.held.isNone && !s.drainingAt t
  then s.setStrand t k { z with late := some (c, tval) }
  else s.recordRefusal t tval (c == .virtualRefused)

end Machine
end Sys2Proof
end

