-- ==== Sys2Proof/Machine/Fetch.lean ====
section
/-! DEFINITION. Lines: their parity and pairing rules (R33 to R44), the checks on entering one (R37), transfers of control
(R36, R38), and fetching a strand's next slot. -/

namespace Sys2Proof
namespace Machine

/-! ## Registers that an instruction names (R44 condition 2) -/

/-- The register of operand b, if it is one. -/
def srcRegs : Src → List Reg
  | .reg r => [r]
  | .imm _ => []
/-- The register of a blank number, if it is one. -/
def blankRegs : BlankRef → List Reg
  | .reg r => [r]
  | .imm _ => []

/-- Registers that an integer form reads. -/
def aluReads (o : Alu) : List Reg := o.a :: srcRegs o.b
/-- Registers that a floating-point form reads. -/
def fpReads (o : Fp) : List Reg := o.a :: srcRegs o.b

/-- The scalar registers that an instruction reads. A BR `.z` or `.nz` has no operand b: its zero B field is not counted as a read of s0
(log 56). -/
def instrReads : Instr → List Reg
  | .wrw _ a => [a]
  | .qput _ a => [a]
  | .add o | .sub o | .mul o | .mulh o | .div o | .rem o | .and o | .or o | .xor o | .andn o | .shl o | .shr o | .sra o
  | .rot o | .min o | .max o | .slt o | .seq o => aluReads o
  | .sel o c => c :: aluReads o
  | .clz o | .ctz o | .popc o => [o.a]
  | .bfx _ a b _ => a :: srcRegs b
  | .bfi _ a b c => a :: c :: srcRegs b
  | .li d _ _ hi => if hi then [d] else []
  | .addx _ a b _ ci | .subx _ a b _ ci => a :: (srcRegs b ++ ci.toList)
  | .gta _ a b _ _ => a :: srcRegs b
  | .fadd o | .fsub o | .fmul o | .fdiv o | .fmin o | .fmax o | .fcmp _ o | .fsgn _ o => fpReads o
  | .fma o c => c :: fpReads o
  | .fsqrt _ a _ | .fcvt _ _ a _ | .fclass _ a _ => [a]
  | .br c a b _ => if c = .z ∨ c = .nz then [a] else [a, b]
  | .ret => [14]
  | .jr a => [a]
  | .loop d _ => [d]
  | .ld m _ => m.a :: srcRegs m.b
  | .st m => m.d :: m.a :: srcRegs m.b
  | .ldp m => m.a :: srcRegs m.b
  | .stp m => m.d :: m.c :: m.a :: srcRegs m.b
  | .amo _ m => m.a :: m.c :: srcRegs m.b
  | .cas m => m.d :: m.a :: m.c :: srcRegs m.b
  | .ldg m | .ldv m => m.a :: srcRegs m.b
  | .stg m | .stv m => m.d :: m.a :: srcRegs m.b
  | .amog m | .amov m => m.a :: m.c :: srcRegs m.b
  | .casg m | .casv m => m.d :: m.a :: m.c :: srcRegs m.b
  | .ldx m => m.a :: m.c :: srcRegs m.b
  | .stx m => m.d :: m.a :: m.c :: srcRegs m.b
  | .acq m => m.a :: m.c :: srcRegs m.b
  | .rel m => m.a :: m.c :: srcRegs m.b
  | .bind m => [m.a, m.b, m.c]
  | .bdef a b _ _ => [a, b]
  | .bsetReady b => blankRegs b
  | .bsetFill b c => c :: blankRegs b
  | .bwait b _ => blankRegs b
  | .brel b => blankRegs b
  | .wait m => m.a :: m.c :: srcRegs m.b
  | .phintSet a b _ _ => [a, b]
  | .send m => m.a :: m.b :: (if m.n = 0 then [] else [m.c])
  | .spawn m => m.a :: m.b :: (if m.n = 0 then [] else [m.c])
  | .migr _ a | .arm a _ _ | .trig a _ | .steal _ a _ | .launch _ a | .tagr _ a | .tags a | .tagq _ a | .vpub _ a _
  | .vsw a _ | .vpin a => [a]
  | .vadd v | .vsub v | .vmul v => [v.d, v.a, v.b]
  | .vfma v => [v.d, v.a, v.b, v.c]
  | .vmin v | .vmax v | .vcmp _ v | .vand v | .vor v | .vxor v | .vgath v | .vscat v => [v.d, v.a, v.b]
  | .vabs v | .vneg v | .vcvt v => [v.d, v.a]
  | .vsel v | .vpack v => [v.d, v.a, v.b, v.c]
  | .vshl d a b _ | .vshr d a b _ _ => d :: a :: (match b with | .shape r => [r] | .imm _ => [])
  | .vmov v | .vexp v | .vlog v | .vrcp v | .vrsqrt v | .vtanh v | .vsigm v | .vred _ v _ => [v.d, v.a]
  | .vbcast v q => if q then [v.d] else [v.d, v.a]
  | .viota d _ _ _ | .vdraw d _ _ => [d]
  | .vscan _ v hf _ => v.d :: v.a :: hf.toList
  | .vsamp d a c _ _ | .vtopk d a c _ _ => [d, a, c]
  | .mload a _ _ => [a]
  | .mmul d a _ _ => [d, a]
  | .mmulRs a b _ => [a, b]
  | .mdrain d _ _ => [d]
  | .mdrainRem m => m.a :: (if m.wk && !m.q then [m.c] else [])
  | .cpy m => [m.a]
  | .cpyf m q => if q then [m.a] else [m.a, m.b]
  | .cpyg m => [m.a, m.b]
  | .egemv d a b _ => [d, a, b]
  | .epref a _ _ => [a]
  | .nsend a _ _ | .nput a _ _ | .nget a _ _ | .nrecv a _ | .rtre _ a _ _ => [a]
  | .nctrWt _ a _ => [a]
  | .rwait _ a _ => [a]
  | _ => []

/-- The scalar registers that an instruction writes. -/
def instrWrites : Instr → List Reg
  | .rdw d _ | .qget d _ _ => [d]
  | .rdcyc d c => d :: c.toList
  | .add o | .sub o | .mul o | .mulh o | .div o | .rem o | .and o | .or o | .xor o | .andn o | .shl o | .shr o | .sra o
  | .rot o | .min o | .max o | .slt o | .seq o | .sel o _ => [o.d]
  | .clz o | .ctz o | .popc o => [o.d]
  | .bfx d _ _ _ | .bfi d _ _ _ | .li d _ _ _ | .addx d _ _ _ _ | .subx d _ _ _ _ | .widx d _ | .gta d _ _ _ _ => [d]
  | .fadd o | .fsub o | .fmul o | .fma o _ | .fdiv o | .fmin o | .fmax o | .fcmp _ o | .fsgn _ o => [o.d]
  | .fsqrt d _ _ | .fcvt _ d _ _ | .fclass d _ _ => [d]
  | .call _ => [14]
  | .loop d _ => [d]
  | .ld m _ => [m.d]
  | .ldp m => [m.d, m.c]
  | .amo _ m | .cas m => [m.d]
  | .ldg m | .ldv m => [m.d]
  | .amog m | .amov m => if m.post then [] else [m.d]
  | .casg m | .casv m => [m.d]
  | .ldx m => [m.d]
  | .acq m => [m.d]
  | .wait m => [m.d]
  | .yield d | .yieldQ d => [d]
  | .spawn m => [m.d]
  | .migr d _ | .steal d _ _ | .launch d _ | .taga d | .tagr d _ | .tagq d _ | .vpub d _ _ | .vget d _ | .vgetHome d _
  | .nctrRd d _ | .nctrWt d _ _ | .rwait d _ _ => [d]
  | _ => []

/-! ## Pairing (R43, R44) -/

/-- Pairing classes; the engine classes carry the command queue they push, 0 to 3 for q0, q2, q4, q6. -/
inductive PairClass | n | p | a | l | e (q : Fin 4) | b | x | u
  deriving DecidableEq, Repr

/-- The class of a slot (R43). A QPUT whose D is 8 to 15 names no queue, and R43 gives it no class; the model makes it class X
(log 56). -/
def pairClass (f : Fields) : PairClass :=
  let o := f.opc.toNat
  if opcUnassigned f.opc then .u
  else if o = 0x00 then .n
  else if o = 0x01 then .p
  else if 0x10 ≤ o ∧ o ≤ 0x3B then .a
  else if 0x40 ≤ o ∧ o ≤ 0x45 then .b
  else if 0x50 ≤ o ∧ o ≤ 0x55 then .l
  else if 0xC8 ≤ o ∧ o ≤ 0xCC then .e 0
  else if 0xA0 ≤ o ∧ o ≤ 0xC2 then .e 1
  else if 0xD0 ≤ o ∧ o ≤ 0xD4 then .e 2
  else if o = 0xE0 ∨ o = 0xE1 ∨ o = 0xE2 ∨ o = 0xE4 ∨ o = 0xE5 then .e 3
  else if o = 0x09 then (if f.d.val < 8 ∧ f.d.val % 2 = 0 then .e (Fin.ofNat 4 (f.d.val / 2)) else .x)
  else .x

/-- The table of R44. -/
def pairAllowed : PairClass → PairClass → Bool
  | .n, y => y != .p && y != .u
  | .p, y => y != .n && y != .p && y != .u
  | .a, y => y != .p && y != .x && y != .u
  | .l, y => y != .p && y != .l && y != .x && y != .u
  | .e i, y => match y with
    | .e j => i != j
    | .n | .a | .l | .b => true
    | _ => false
  | .b, y => y == .n
  | .x, y => y == .n
  | .u, _ => false

/-- Registers read, by the encoding's fields, of a slot, one with an unused FN among them (log 56). -/
def slotReads (f : Fields) : List Reg := ((candidate f).map instrReads).getD []
/-- Registers written, by the encoding's fields. -/
def slotWrites (f : Fields) : List Reg := ((candidate f).map instrWrites).getD []

/-- Do slots j and j+1 pass the pairing rules (R44)? -/
def pairOk (f g : Fields) : Bool :=
  pairAllowed (pairClass f) (pairClass g)
  && (slotWrites f).all (fun r => !(slotReads g).contains r && !(slotWrites g).contains r)

/-! ## Lines (R33 to R37) -/

/-- The line word. -/
def lineWord (l : Line512) : BitVec 32 := l.extractLsb' 0 32
/-- Slot `i`. -/
def lineSlot (l : Line512) (i : Nat) : Slot96 := l.extractLsb' (32 + 96 * i) 96
/-- The XOR of the low `n` bits of a number. -/
def parityOf (x : Nat) : Nat → Bool
  | 0 => false
  | n + 1 => xor (x.testBit n) (parityOf x n)

/-- Are all parities of a line right (R35)? -/
def lineParityOk (l : Line512) : Bool :=
  let w := (lineWord l).toNat
  (List.range 5).all (fun i => w.testBit (18 + i) == parityOf (lineSlot l i).toNat 96)
  && (w.testBit 17 == xor (parityOf w 17) (parityOf (w / 2 ^ 18) 14))

/-- TGT of slot `i`. -/
def lineTarget (l : Line512) (i : Nat) : Bool := (lineWord l).toNat.testBit (27 + i)

/-- Check 4 of R37: the pairing template. -/
def lineTplOk (l : Line512) : Bool :=
  (List.range 4).all (fun j => !(lineWord l).toNat.testBit (23 + j)
    || pairOk (unpack (lineSlot l j)) (unpack (lineSlot l (j + 1))))

/-- The bits of the line at a CODE address. -/
def Tile.lineAt (x : Tile) (addr : Nat) : Line512 := BitVec.ofNat 512 (mval x.code addr 64)

/-- What the checks 1 to 4 of R37 find at an entry PC. -/
inductive Entry
  | bounds
  | parity
  | bad (word : BitVec 32)
  | ok (l : HeldLine)
  deriving DecidableEq, Repr

/-- Checks 1 to 4 of R37. -/
def Tile.enterAt (x : Tile) (pc : Word) : Entry :=
  if !pcOk pc || decide (0x10000 ≤ pc.toNat) then .bounds
  else
    let l := x.lineAt (lineOf pc)
    if !lineParityOk l then .parity
    else if (lineWord l).extractLsb' 0 17 != 0#17 then .bad (lineWord l)
    else if !lineTplOk l then .bad (lineWord l)
    else .ok ⟨lineOf pc, l⟩

/-! ## Transfers (R36, R38) -/

/-- What the checks 1 to 4 of R37 bring about at the entry PC of the issuing strand: a trap, or on a parity mismatch the hold of the
tile's strands (R40); after the one rewrite of the line for this entry, `again`, the stop of the partition. -/
def State.entryFails (s : State) (pc : Word) (again : Bool) : Entry → State
  | .bounds => s.trapMe ⟨.fetchBounds, pc, pc⟩
  | .bad w => s.trapMe ⟨.illegalLine, BitVec.ofNat 64 (lineOf pc), w.zeroExtend 64⟩
  | .parity =>
    let a := BitVec.ofNat 64 (lineOf pc)
    if again then s.stopAt s.ct { kind := 0x14, d0 := a, d1 := 0#64, row := rowOf s.ct, col := colOf s.ct }
    else (s.modMy (fun x => { x with chold := some ⟨s.ck, lineOf pc⟩ })).tell (.codeCheck s.ct a)
  | .ok _ => s

/-- A transfer of the issuing strand that R36 checks. `eff` is what the transferring instruction writes when it retires. The strand
cannot issue in the next 2 clks (R42). What a target line fails is raised at the target once the instruction has retired (R38). -/
def transfer (s : State) (target : Word) (eff : State → State) : Out State :=
  if !pcOk target then run s (.trap .controlFlow target) id
  else match s.my.enterAt target with
    | .ok l =>
      if lineTarget l.bits (field target 0 3) then
        .next (((eff s).retireTo target).modMe (fun z => { z with line := some l, stall := s.now + 3 }))
      else run s (.trap .controlFlow target) id
    | e => .next ((((eff s).retireTo target).modMe (fun z => { z with line := none, stall := s.now + 3 })).entryFails target false e)

/-! ## Fetching -/

/-- What a strand's turn comes to before its instruction is executed. -/
inductive Fetched
  | still (s : State)               -- nothing is issued in this turn
  | issue (s : State) (i : Instr)   -- an instruction is issued
  | stop (s : State)                -- a trap or a hold has been taken instead

/-- May the strand issue (R18, R28, R30, R40, R365, R366, R402, R421)? -/
def State.ready (s : State) (t : TileId) (k : Fin 4) : Bool :=
  let x := s.tile t
  let z := x.strand k
  z.live && z.pend.isNone && z.held.isNone && z.parked.isNone && !x.halted && x.chold.isNone

/-- The strand issues the slot that its PC names in the line it holds. -/
def State.issueSlot (s : State) (t : TileId) (k : Fin 4) (l : HeldLine) : Fetched :=
  let bits := lineSlot l.bits (field (s.strand t k).pc 0 3)
  let s := { s with ir := bits }
  match decodeSlot bits with
  | some i => .issue s i
  | none => .stop s.trapIllegal

/-- The strand enters the line of its PC (R37). -/
def State.enterLine (s : State) (t : TileId) (k : Fin 4) (z : Strand) : Fetched :=
  match (s.tile t).enterAt z.pc with
  | .ok l => (s.modMe (fun z => { z with line := some l, fixed := none })).issueSlot t k l
  | e => .stop (s.entryFails z.pc (z.fixed == some (lineOf z.pc)) e)

/-- A strand's turn: a trap that waits for the instruction boundary (R211), the fetch (R37 to R41), and the decoded slot. -/
def State.fetchStrand (s : State) (t : TileId) (k : Fin 4) : Fetched :=
  let s := { s with cur := (t, k) }
  let z := s.strand t k
  if !s.ready t k then .still s
  else match z.late with
    | some (c, v) => .stop ((s.modMe (fun z => { z with late := none })).trapMe ⟨c, z.pc, v⟩)
    | none =>
      match z.line with
      | some l =>
        if l.addr = lineOf z.pc ∧ pcOk z.pc = true ∧ z.pc.toNat < 0x10000 then s.issueSlot t k l
        else s.enterLine t k z
      | none => s.enterLine t k z
end Machine
end Sys2Proof
end

