-- ==== Sys2Proof/Machine/Queue.lean ====
section
/-! DEFINITION. The queue registers (R20 to R23) and the hold of a command queue (R122). -/

namespace Sys2Proof
namespace Machine

/-- Free entries of a command queue. -/
def Tile.cmdFree (x : Tile) (q : Fin 4) : Nat := queueDepth (2 * q.val) - (x.cmdq[q]).length

/-- Completion entries of a queue that are neither held nor reserved (R21). -/
def Tile.tokFree (x : Tile) (q : Fin 4) : Nat := queueDepth (2 * q.val + 1) - ((x.tokq[q]).length + x.resv[q])

/-- A push of one entry waits for its turn (R21). HANG bounds the wait, but for the forms of the vector and copy engines, whose wait ends
when engines complete, as R135 says and R258 takes over (R203, log 18). -/
def pushWait (q : Fin 4) (n bd : Bool) : WaitSpec := { kind := .qput q n, tval := if bd then Config.waitTval 2 else 0, bound := bd }

/-- A push waits for the end of another strand's hold, which may never come: HANG bounds the wait (R122, R203, log 18). -/
def heldWait (q : Fin 4) (n : Bool) : WaitSpec := { kind := .qput q n, tval := Config.waitTval 0 }

/-- Does strand `j` wait for a free entry of a command queue: it wants to push, and lacks no completion entry (R21)? -/
def Tile.wantsCmd (x : Tile) (q : Fin 4) (j : Fin 4) : Bool :=
  match (x.strand j).wait with
  | some w => (match w.kind with
    | .qput p n => p == q && (!n || decide (x.ahead (· == .qput q true) j (some w.stamp) < x.tokFree q))
    | _ => false)
  | none => false

/-- How many strands have blocked on a command queue before the issuing strand. -/
def State.cmdRank (s : State) (q : Fin 4) : Nat :=
  ((List.finRange 4).filter (fun j => j != s.ck && s.my.wantsCmd q j &&
    (match (s.my.strand j).wait, s.me.wait with
      | some w, some v => if v.kind = .qput q true ∨ v.kind = .qput q false then decide (w.stamp < v.stamp) else true
      | some _, none => true
      | none, _ => false))).length

/-- May the issuing strand push one entry into a command queue, reserving a completion entry with `n` (R21, R122)? A free entry of
either queue goes to the strand that blocked for one earliest; `bd` says that HANG bounds its wait. -/
def State.pushChk (s : State) (q : Fin 4) (n raw bd : Bool) : Chk :=
  let x := s.my
  match x.hold[q] with
  | some k =>
    if k = s.ck then
      if raw then (if 0 < x.cmdFree q then .ok else .wait (pushWait q n bd)) else .illegal
    else .wait (heldWait q n)
  | none =>
    if s.cmdRank q < x.cmdFree q ∧ (!n || decide (s.rank (.qput q true) < x.tokFree q)) = true then .ok
    else .wait (pushWait q n bd)

/-- One entry pushed by the issuing strand, with its reservation and its hold. -/
def State.push (s : State) (q : Fin 4) (e : QEntry) (n : Bool) (hold : Option (Fin 4)) : State :=
  s.modMy (fun x => { x with
    cmdq := x.cmdq.set q (x.cmdq[q] ++ [e])
    resv := if n then x.resv.set q (x.resv[q] + 1) else x.resv
    hold := x.hold.set q hold })

/-- The token of a completed operation enters the entry reserved for it (R22). -/
def Tile.complete (x : Tile) (q : Fin 4) (tk : Tok) : Tile :=
  if tk.n then { x with
    tokq := x.tokq.set q (x.tokq[q] ++ [tk.tok])
    resv := x.resv.set q (x.resv[q] - 1) } else x

end Machine
end Sys2Proof
end

