-- ==== Sys2Proof/Machine/System.lean ====
section
/-! DEFINITION. System instructions (04 R115 to R122): NOP, PFX, TRAP, TRET, RDW, WRW, RDCYC, BRK, QGET, QPUT, and the slot whose
opcode Table 1 does not assign (02 R57). -/

namespace Sys2Proof
namespace Machine

/-- An instruction without prefix that retires after its effect. -/
def simple (s : State) (c : Chk) (eff : State → State) : Out State := plain s c (fun s => (eff s).retire)

/-- NOP (R115). -/
def execNop (s : State) : Out State := simple s .ok id

/-- PFX (R31, R115). -/
def execPfx (p : BitVec 32) (s : State) : Out State :=
  plain s .ok (fun s => s.retire.modMe (fun z => { z with sw := swPrefix z.sw p }))

/-- An opcode of no row of Table 1 (R57). -/
def execUnassignedOpcode (_w : Slot96) (s : State) : Out State := run s .illegal id

/-- TRAP (R116): cause 0x11, or in handler mode a double trap, after which the PC stands behind the TRAP (log 17). -/
def execTrap (e : BitVec 48) (s : State) : Out State :=
  plain s .ok (fun s =>
    if swMode s.me.sw then
      (s.trapMe ⟨.trap, s.me.pc, e.zeroExtend 64⟩).retire
    else
      let s1 := s.retire
      s1.trapMe ⟨.trap, s1.me.pc, e.zeroExtend 64⟩)

/-- BRK (R116): cause 0x12, or in handler mode the escalation of the current trap words (R30). -/
def execBrk (e : BitVec 48) (s : State) : Out State :=
  plain s .ok (fun s =>
    if swMode s.me.sw then
      let w := s.my.cw
      (s.retire.modMe (fun z => { z with held := some .escalation })).tell
        (.strand s.ct s.ck ⟨.escalation, w.tepc, w.tval⟩ w.trapWords)
    else
      let s1 := s.retire
      s1.trapMe ⟨.breakpoint, s1.me.pc, e.zeroExtend 64⟩)

/-- TRET (R29, R117); the next pending trap then enters the handler (R28). -/
def execTret (s : State) : Out State :=
  plain s (need (swMode s.me.sw) .privileged 0#64) (fun s =>
    let w := s.my.cw
    let s1 := s.retireTo w.tepc
    let s2 := s1.modMe (fun z => { z with sw := swTret z.sw w.tpxl, line := none })
    s2.modMy (fun x => x.nextPending s2.ck))

/-! ## Control words (R24, R25, R118) -/

/-- Rights of a control word: read in task mode, write in task mode, write in handler mode; none if the index is absent. -/
def cwRights (idx : Nat) : Option (Bool × Bool × Bool) :=
  match idx with
  | 0x000 => some (true, true, true)
  | 0x001 | 0x002 => some (true, false, true)
  | 0x003 => some (true, false, false)
  | 0x100 | 0x101 | 0x102 | 0x103 | 0x104 | 0x105 => some (false, false, true)
  | 0x110 | 0x111 | 0x112 | 0x113 | 0x120 => some (true, false, false)
  | 0x121 => some (true, false, true)
  | 0x130 | 0x131 | 0x132 | 0x133 => some (true, true, true)
  | _ => none

/-- The value of a control word (R24, R25). -/
def State.cwRead (s : State) (idx : Nat) : Word :=
  let z := s.me
  let w := s.my.cw
  match idx with
  | 0x000 => z.sw
  | 0x001 => z.ctx.zeroExtend 64
  | 0x002 => z.vpin.zeroExtend 64
  | 0x003 => z.wid
  | 0x100 => w.tvec
  | 0x101 => w.tcause
  | 0x102 => w.tepc
  | 0x103 => w.tval
  | 0x104 => w.tscratch
  | 0x105 => w.tpxl
  | 0x110 => BitVec.ofNat 64 w.cyc
  | 0x111 => BitVec.ofNat 64 w.retired
  | 0x112 => s.coord s.ct
  | 0x113 => w.widw
  | 0x120 => w.ydl
  | 0x121 => w.hang
  | 0x130 => w.keyl
  | 0x131 => w.keyh
  | 0x132 => w.ctrl
  | 0x133 => w.ctrh
  | _ => 0#64

/-- The strand's words after a WRW (R14, R15). -/
def Strand.cwWrite (z : Strand) (idx : Nat) (v : Word) : Strand :=
  match idx with
  | 0x000 => { z with sw := swWrite z.sw v }
  | 0x001 => { z with ctx := v.truncate 16 }
  | 0x002 => { z with vpin := v.truncate 17 }
  | _ => z

/-- The tile's words after a WRW; reserved bits are discarded (R5, R25). -/
def TileWords.cwWrite (w : TileWords) (idx : Nat) (v : Word) : TileWords :=
  match idx with
  | 0x100 => { w with tvec := v }
  | 0x101 => { w with tcause := v &&& 0xFF#64 }
  | 0x102 => { w with tepc := v }
  | 0x103 => { w with tval := v }
  | 0x104 => { w with tscratch := v }
  | 0x105 => { w with tpxl := v &&& 0xFFFFFFFF#64 }
  | 0x121 => { w with hang := v &&& 0xFFFFFFFFFF#64 }
  | 0x130 => { w with keyl := v }
  | 0x131 => { w with keyh := v }
  | 0x132 => { w with ctrl := v }
  | 0x133 => { w with ctrh := v }
  | _ => w

/-- RDW (R118). -/
def execRdw (d : Reg) (idx : BitVec 12) (s : State) : Out State :=
  simple s
    (match cwRights idx.toNat with
      | none => .illegal
      | some (r, _, _) => need (r || swMode s.me.sw) .privileged (idx.zeroExtend 64))
    (fun s => s.setReg d (s.cwRead idx.toNat))

/-- Does a command use the generator: VDRAW, and every command that rounds under SR (R76, R89)? -/
def Cmd.usesRng (c : Cmd) : Bool :=
  c.pfx.rm == 5 || (match c.ins with
    | .vdraw .. => true
    | .vsamp .. => true
    | _ => false)

/-- Has the tile an engine operation in flight that uses the generator's words (R25)? -/
def Tile.rngBusy (x : Tile) : Bool :=
  x.cmdq.toList.flatten.any (fun e => match e with | .cmd c => c.usesRng | .raw _ => false)
  || x.mat.run.any (fun r => r.cmd.usesRng)
  || (match x.vec with | some c => c.usesRng | none => false)
  || x.contribs.any (fun c => c.cmd.usesRng)

/-- The checks of WRW in the order of R118; a write to the generator's words then waits for the operations that use them
(R25, log 18). -/
def State.wrwChk (s : State) (idx : Nat) (v : Word) : Chk :=
  match cwRights idx with
  | none => .illegal
  | some (_, t, h) =>
    if !(if swMode s.me.sw then h else t) then .trap .privileged (BitVec.ofNat 64 idx)
    else if (idx = 0x100 ∨ idx = 0x102) ∧ pcOk v = false then .illegal
    else if 0x130 ≤ idx ∧ s.my.rngBusy = true then .wait { kind := .genWord, tval := Config.waitTval 1 }
    else .ok

/-- WRW (R118): the instruction retires, then the word holds the value. -/
def execWrw (idx : BitVec 12) (a : Reg) (s : State) : Out State :=
  plain s (s.wrwChk idx.toNat (s.reg a)) (fun s =>
    let v := s.reg a
    let s1 := s.retire
    let x := s1.my
    s1.setTile s1.ct ({ x with cw := x.cw.cwWrite idx.toNat v }.setStrand s1.ck ((x.strand s1.ck).cwWrite idx.toNat v)))

/-- RDCYC (R119). -/
def execRdcyc (d : Reg) (c : Option Reg) (s : State) : Out State :=
  simple s .ok (fun s =>
    let w := s.my.cw
    let s1 := s.setReg d (BitVec.ofNat 64 w.cyc)
    match c with
    | some r => s1.setReg r (BitVec.ofNat 64 w.retired)
    | none => s1)

/-- QGET (R22, R120): the token whose turn is the strand's; with `.try`, 0x1_0000 where there is none. -/
def execQget (d : Reg) (q : Fin 8) (try_ : Bool) (s : State) : Out State :=
  let i : Fin 4 := Fin.ofNat 4 (q.val / 2)
  let r := s.rank (.qget q)
  simple s
    (if r < (s.my.tokq[i]).length || try_ then .ok else .wait { kind := .qget q, tval := 0x0800 + q.val })
    (fun s =>
      match (s.my.tokq[i])[r]? with
      | some t => (s.modMy (fun x => { x with tokq := x.tokq.set i ((x.tokq[i]).eraseIdx r) })).setReg d (t.zeroExtend 64)
      | none => s.setReg d 0x10000#64)

/-- QPUT (R121, R122): one raw operand; the strand's own hold of the queue ends. -/
def execQput (q : Fin 8) (a : Reg) (s : State) : Out State :=
  let i : Fin 4 := Fin.ofNat 4 (q.val / 2)
  simple s (s.pushChk i false true true) (fun s => s.push i (.raw (s.reg a)) false none)

end Machine
end Sys2Proof
end

