-- ==== Sys2Proof/Machine/Control.lean ====
section
/-! DEFINITION. Control transfers (04 R108 to R110). -/

namespace Sys2Proof
namespace Machine

/-- A transfer that is taken, after the prefix check (R31, R36). -/
def jump (s : State) (target : Word) (eff : State → State) : Out State :=
  match noPrefix s with
  | .ok => transfer s target eff
  | c => run s c id

/-- The condition of BR (R56, R109). -/
def brHolds (c : BrCond) (a b : Word) : Bool :=
  match c with
  | .eq => a == b
  | .ne => a != b
  | .lt => BitVec.slt a b
  | .ge => !BitVec.slt a b
  | .ltu => BitVec.ult a b
  | .geu => !BitVec.ult a b
  | .z => a == 0#64
  | .nz => a != 0#64

/-- BR (R109): not taken, it continues at next(PC). -/
def execBr (c : BrCond) (a b : Reg) (t : BitVec 48) (s : State) : Out State :=
  if brHolds c (s.reg a) (s.reg b) then jump s (t.zeroExtend 64) id else simple s .ok id

/-- JMP (R109). -/
def execJmp (t : BitVec 48) (s : State) : Out State := jump s (t.zeroExtend 64) id

/-- CALL (R109): s14 := next(PC). -/
def execCall (t : BitVec 48) (s : State) : Out State :=
  jump s (t.zeroExtend 64) (fun s => s.setReg 14 (nextPc s.me.pc))

/-- RET (R109). -/
def execRet (s : State) : Out State := jump s (s.reg 14) id

/-- JR (R109). -/
def execJr (a : Reg) (s : State) : Out State := jump s (s.reg a) id

/-- LOOP (R109): the count falls by one, and the branch is taken while it is not zero. -/
def execLoop (d : Reg) (t : BitVec 48) (s : State) : Out State :=
  let n := s.reg d - 1#64
  if n ≠ 0#64 then jump s (t.zeroExtend 64) (fun s => s.setReg d n) else simple s .ok (fun s => s.setReg d n)

end Machine
end Sys2Proof
end

