-- ==== Sys2Proof/Machine/Integer.lean ====
section
/-! DEFINITION. Integer instructions (04 R94 to R102). -/

namespace Sys2Proof
namespace Machine

/-- The value of operand a (R95). -/
def State.aluA (s : State) (o : Alu) : Int := valOf o.s (wBits o.w) (s.reg o.a)
/-- The value of operand b (R95). -/
def State.aluB (s : State) (o : Alu) : Int := valOf o.s (wBits o.w) (s.src o.b)
/-- The shift count (R95). -/
def State.aluSh (s : State) (o : Alu) : Nat := (s.src o.b).toNat % wBits o.w
/-- The low w bits of register a, as a number. -/
def State.aluX (s : State) (o : Alu) : Nat := lowBits (s.reg o.a) (wBits o.w)
/-- ext (R95). -/
def aluExt (o : Alu) (v : Int) : Word := extOf o.s (wBits o.w) v
/-- ext of a word's bits. -/
def aluBits (o : Alu) (v : Word) : Word := extW o.s (wBits o.w) v

/-- An integer form: d := value, and retire. It never traps on its values and sets no flag (R95). -/
def alu (d : Reg) (v : State → Word) (s : State) : Out State := simple s .ok (fun s => s.setReg d (v s))

/-- ADD (R96). -/
def execAdd (o : Alu) (s : State) : Out State := alu o.d (fun s => aluExt o (s.aluA o + s.aluB o)) s
/-- SUB (R96). -/
def execSub (o : Alu) (s : State) : Out State := alu o.d (fun s => aluExt o (s.aluA o - s.aluB o)) s
/-- MUL (R96). -/
def execMul (o : Alu) (s : State) : Out State := alu o.d (fun s => aluExt o (s.aluA o * s.aluB o)) s
/-- MULH (R96): floor division by 2^w. -/
def execMulh (o : Alu) (s : State) : Out State :=
  alu o.d (fun s => aluExt o (s.aluA o * s.aluB o / ((2 ^ wBits o.w : Nat) : Int))) s

/-- Quotient and remainder (R97). -/
def divRem (a b : Int) : Int × Int := if b = 0 then (-1, a) else (a.tdiv b, a - b * a.tdiv b)

/-- DIV (R97). -/
def execDiv (o : Alu) (s : State) : Out State := alu o.d (fun s => aluExt o (divRem (s.aluA o) (s.aluB o)).1) s
/-- REM (R97). -/
def execRem (o : Alu) (s : State) : Out State := alu o.d (fun s => aluExt o (divRem (s.aluA o) (s.aluB o)).2) s
/-- AND (R96). -/
def execAnd (o : Alu) (s : State) : Out State := alu o.d (fun s => aluBits o (s.reg o.a &&& s.src o.b)) s
/-- OR (R96). -/
def execOr (o : Alu) (s : State) : Out State := alu o.d (fun s => aluBits o (s.reg o.a ||| s.src o.b)) s
/-- XOR (R96). -/
def execXor (o : Alu) (s : State) : Out State := alu o.d (fun s => aluBits o (s.reg o.a ^^^ s.src o.b)) s
/-- ANDN (R96). -/
def execAndn (o : Alu) (s : State) : Out State := alu o.d (fun s => aluBits o (s.reg o.a &&& ~~~(s.src o.b))) s
/-- SHL (R96). -/
def execShl (o : Alu) (s : State) : Out State := alu o.d (fun s => aluBits o (s.reg o.a <<< s.aluSh o)) s
/-- SHR (R96). -/
def execShr (o : Alu) (s : State) : Out State := alu o.d (fun s => aluExt o ((s.aluX o / 2 ^ s.aluSh o : Nat) : Int)) s
/-- SRA (R96). -/
def execSra (o : Alu) (s : State) : Out State :=
  alu o.d (fun s => aluExt o (valOf true (wBits o.w) (s.reg o.a) / ((2 ^ s.aluSh o : Nat) : Int))) s
/-- ROT (R96). -/
def execRot (o : Alu) (s : State) : Out State :=
  alu o.d (fun s =>
    let x := s.aluX o
    let n := s.aluSh o
    aluExt o (((x <<< n) ||| (x >>> (wBits o.w - n)) : Nat) : Int)) s
/-- MIN (R96). -/
def execMin (o : Alu) (s : State) : Out State :=
  alu o.d (fun s => aluExt o (if s.aluA o ≤ s.aluB o then s.aluA o else s.aluB o)) s
/-- MAX (R96). -/
def execMax (o : Alu) (s : State) : Out State :=
  alu o.d (fun s => aluExt o (if s.aluA o ≤ s.aluB o then s.aluB o else s.aluA o)) s
/-- SLT (R96). -/
def execSlt (o : Alu) (s : State) : Out State :=
  alu o.d (fun s => if s.aluA o < s.aluB o then 1#64 else 0#64) s
/-- SEQ (R96). -/
def execSeq (o : Alu) (s : State) : Out State :=
  alu o.d (fun s => if lowBits (s.reg o.a) (wBits o.w) = lowBits (s.src o.b) (wBits o.w) then 1#64 else 0#64) s
/-- SEL (R96). -/
def execSel (o : Alu) (c : Reg) (s : State) : Out State :=
  alu o.d (fun s => aluBits o (if s.reg c ≠ 0#64 then s.reg o.a else s.src o.b)) s

/-- Leading zeros of the low `n` bits. -/
def clzBits (x : Nat) : Nat → Nat
  | 0 => 0
  | n + 1 => if x.testBit n then 0 else clzBits x n + 1

/-- Trailing zeros of a number, `n` bits to look at from bit `i`. -/
def ctzBits (x : Nat) (i : Nat) : Nat → Nat
  | 0 => 0
  | n + 1 => if x.testBit i then 0 else ctzBits x (i + 1) n + 1

/-- Ones among the low `n` bits. -/
def popBits (x : Nat) : Nat → Nat
  | 0 => 0
  | n + 1 => popBits x n + (if x.testBit n then 1 else 0)

/-- CLZ (R96). -/
def execClz (o : Alu1) (s : State) : Out State :=
  alu o.d (fun s => BitVec.ofNat 64 (clzBits (s.reg o.a).toNat (wBits o.w))) s
/-- CTZ (R96). -/
def execCtz (o : Alu1) (s : State) : Out State :=
  alu o.d (fun s => BitVec.ofNat 64 (ctzBits (s.reg o.a).toNat 0 (wBits o.w))) s
/-- POPC (R96). -/
def execPopc (o : Alu1) (s : State) : Out State :=
  alu o.d (fun s => BitVec.ofNat 64 (popBits (s.reg o.a).toNat (wBits o.w))) s

/-- Position and effective length of a field descriptor (R98). -/
def fieldDesc (v : Word) : Nat × Nat :=
  let pos := field v 0 6
  let len := if field v 8 6 = 0 then 64 else field v 8 6
  (pos, min len (64 - pos))

/-- BFX (R98). -/
def execBfx (d a : Reg) (b : Src) (sg : Bool) (s : State) : Out State :=
  alu d (fun s =>
    let f := fieldDesc (s.src b)
    extW sg f.2 (s.reg a >>> f.1)) s
/-- BFI (R98). -/
def execBfi (d a : Reg) (b : Src) (c : Reg) (s : State) : Out State :=
  alu d (fun s =>
    let f := fieldDesc (s.src b)
    setField (s.reg a) f.1 f.2 (s.reg c)) s

/-- LI (R99). -/
def execLi (d : Reg) (v : BitVec 48) (sg hi : Bool) (s : State) : Out State :=
  alu d (fun s =>
    if hi then (v.zeroExtend 64 <<< 48) ||| (s.reg d &&& 0xFFFFFFFFFFFF#64)
    else if sg then v.signExtend 64 else v.zeroExtend 64) s

/-- The carry in (R100). -/
def State.carryIn (s : State) (ci : Option Reg) : Nat :=
  match ci with
  | some c => (s.reg c).toNat % 2
  | none => 0

/-- ADDX (R100). -/
def execAddx (d a : Reg) (b : Src) (y : Bool) (ci : Option Reg) (s : State) : Out State :=
  alu d (fun s =>
    let t := (s.reg a).toNat + (s.src b).toNat + s.carryIn ci
    BitVec.ofNat 64 (if y then t / 2 ^ 64 else t)) s
/-- SUBX (R100). -/
def execSubx (d a : Reg) (b : Src) (y : Bool) (ci : Option Reg) (s : State) : Out State :=
  alu d (fun s =>
    let t : Int := ((s.reg a).toNat : Int) - (s.src b).toNat - s.carryIn ci
    if y then (if t < 0 then 1#64 else 0#64) else BitVec.ofInt 64 t) s

/-- Width of WID field `j` (R25). -/
def widWidth (widw : Word) (j : Nat) : Nat := field widw (7 * j) 7
/-- Field `j` of a WID (R101). -/
def widField (wid widw : Word) (j : Nat) : Word :=
  let lo := ((List.range j).map (widWidth widw)).sum
  BitVec.ofNat 64 (wid.toNat / 2 ^ lo % 2 ^ widWidth widw j)

/-- WIDX (R101). -/
def execWidx (d : Reg) (j : Fin 6) (s : State) : Out State :=
  alu d (fun s => widField s.me.wid s.my.cw.widw j.val) s

/-- Height and width of the issuing strand's partition; 0 outside any. -/
def State.partSize (s : State) : Nat × Nat :=
  match s.partOf s.ct with
  | some p => ((s.parts[p]).height, (s.parts[p]).width)
  | none => (0, 0)

/-- Row and column that a coordinate register names for GTA, SEND, SPAWN and STEAL: with `.pr`, relative to the partition's
origin (R102); 0xFF names no tile. -/
def State.namedTile (s : State) (v : Word) (pr : Bool) : Nat × Nat :=
  let row := field v 8 8
  let col := field v 0 8
  if pr then
    let (h, w) := s.partSize
    if h ≤ row ∨ w ≤ col then (0xFF, 0xFF)
    else
      let c := s.coord s.ct
      (row + (field c 8 8 - field c 24 8), col + (field c 0 8 - field c 16 8))
  else (row, col)

/-- GTA (R102). -/
def execGta (d a : Reg) (b : Src) (spc : Fin 8) (pr : Bool) (s : State) : Out State :=
  alu d (fun s =>
    let rc := s.namedTile (s.reg a) pr
    gaddr rc.1 rc.2 spc.val (s.src b).toNat) s

end Machine
end Sys2Proof
end

