-- ==== Sys2Proof/Machine/Real.lean ====
section
/-! DEFINITION. Number formats (R65 to R71), exact values, rounding and its flags (R72 to R77), NaN and infinities (R78 to R81),
and the draw generator (R89). -/

namespace Sys2Proof
namespace Machine

/-! ## Exact values -/

/-- An exact value: NaN (signalling?), an infinity, or (−1)^neg · m · 2^e. -/
inductive Num
  | nan (sig : Bool)
  | inf (neg : Bool)
  | fin (neg : Bool) (m : Nat) (e : Int)
  deriving DecidableEq, Repr, Inhabited

/-- Zero of a sign. -/
def Num.zero (neg : Bool) : Num := .fin neg 0 0
/-- An integer. -/
def Num.ofInt (v : Int) : Num := .fin (decide (v < 0)) v.natAbs 0
/-- Is the value a NaN? -/
def Num.isNan : Num → Bool
  | .nan _ => true
  | _ => false
/-- Is the value a signalling NaN? -/
def Num.isSig : Num → Bool
  | .nan s => s
  | _ => false
/-- Is the value an infinity? -/
def Num.isInf : Num → Bool
  | .inf _ => true
  | _ => false
/-- Is the value a zero? -/
def Num.isZero : Num → Bool
  | .fin _ 0 _ => true
  | _ => false
/-- Sign of a value that is no NaN. -/
def Num.isNeg : Num → Bool
  | .nan _ => false
  | .inf n => n
  | .fin n _ _ => n
/-- The value with the opposite sign. -/
def Num.neg : Num → Num
  | .nan s => .nan s
  | .inf n => .inf (!n)
  | .fin n m e => .fin (!n) m e

/-- Number of bits of a natural number. -/
def bitLen (m : Nat) : Nat := if m = 0 then 0 else Nat.log2 m + 1

/-- 2^k as an integer power, for k ≥ 0; 1 below. -/
def pow2 (k : Int) : Nat := 2 ^ k.toNat

/-- The signed integer mantissa of a finite value at exponent `e0`, at or below its own. -/
def scaled (e0 : Int) : Num → Int
  | .fin n m e => let v : Int := (m * pow2 (e - e0) : Nat); if n then -v else v
  | _ => 0
/-- Exponent of a finite value. -/
def Num.exp : Num → Int
  | .fin _ _ e => e
  | _ => 0

/-! ## Formats (R53, R65) -/

/-- Format codes with their kinds. -/
inductive FKind
  | float (ew fw : Nat) (bias : Nat)
  | ds8
  | int (bits : Nat) (signed : Bool)
  deriving DecidableEq, Repr

/-- Code of the signed 64-bit integer side of FCVT (R67, R106): the model's own number. -/
def fmtI64 : Nat := 16
/-- Code of the unsigned 64-bit integer side of FCVT: the model's own number. -/
def fmtU64 : Nat := 17

/-- The kind of a format code (R53). -/
def fkind : Nat → FKind
  | 0 => .float 8 23 127
  | 1 => .float 8 7 127
  | 2 => .float 5 10 15
  | 3 => .float 4 3 7
  | 4 => .float 5 2 15
  | 5 => .float 2 1 1
  | 6 => .ds8
  | 7 => .int 8 true
  | 8 => .int 8 false
  | 9 => .int 32 true
  | 10 => .float 11 52 1023
  | 16 => .int 64 true
  | _ => .int 64 false

/-- Width of a format in bits. -/
def fwidth (f : Nat) : Nat :=
  match fkind f with
  | .float ew fw _ => 1 + ew + fw
  | .ds8 => 8
  | .int b _ => b

/-- Is the format a floating-point one, MXFP4 elements included? -/
def isFloat (f : Nat) : Bool := match fkind f with | .float .. => true | _ => false
/-- Is the format an integer one? -/
def isInt (f : Nat) : Bool := match fkind f with | .int .. => true | _ => false

/-- The class whose flush bits act on a format (R77). -/
def fclass : Nat → FlushClass
  | 0 => .c32 | 1 | 2 => .c16 | 3 | 4 | 5 => .c8 | _ => .none

/-- Largest finite magnitude: significand and exponent of its unit (R65). -/
def fmax (f : Nat) : Nat × Int :=
  match f with
  | 3 => (14, 5)       -- 448 = 14 * 2^5
  | 5 => (3, 1)        -- 6 = 3 * 2^1
  | _ => match fkind f with
    | .float ew fw bias => (2 ^ (fw + 1) - 1, (2 ^ ew - 2 : Nat) - (bias : Int) - fw)
    | _ => (0, 0)

/-- Does the format have infinities? -/
def hasInf (f : Nat) : Bool := f != 3 && f != 5

/-- Canonical NaN code of a format (R78); the codes of the block formats are those of an element. -/
def canonNan : Nat → Nat
  | 0 => 0x7FC00000 | 1 => 0x7FC0 | 2 => 0x7E00 | 3 => 0x7F | 4 => 0x7E | 6 => 0x77 | 10 => 0x7FF8000000000000 | _ => 0

/-- One term of a DS8 element in units of 2^−6 (R71). -/
def ds8Term (sh : Nat) (neg : Bool) : Int :=
  if sh = 7 then 0 else (if neg then -1 else 1) * ((2 ^ (6 - sh) : Nat) : Int)

/-- The value of an element code of a format, before any scale (R65, R66, R67, R71). -/
def decodeNum (f : Nat) (code : Nat) : Num :=
  match fkind f with
  | .float ew fw bias =>
    let neg := code.testBit (ew + fw)
    let E := code / 2 ^ fw % 2 ^ ew
    let F := code % 2 ^ fw
    if f = 3 ∧ E = 15 ∧ F = 7 then .nan false
    else if hasInf f ∧ E = 2 ^ ew - 1 then
      if F = 0 then .inf neg else .nan (!F.testBit (fw - 1))
    else if E = 0 then .fin neg F (1 - (bias : Int) - fw)
    else .fin neg (2 ^ fw + F) ((E : Int) - bias - fw)
  | .ds8 =>
    let v := ds8Term (code / 16 % 8) (code.testBit 7) + ds8Term (code % 8) (code.testBit 3)
    .fin (decide (v < 0)) v.natAbs (-6)
  | .int b s =>
    let u := code % 2 ^ b
    .ofInt (if s && 2 ^ (b - 1) ≤ u then (u : Int) - (2 ^ b : Nat) else u)

/-- Is a code a subnormal of its format? -/
def isSubnormal (f : Nat) (code : Nat) : Bool :=
  match fkind f with
  | .float ew fw _ => code / 2 ^ fw % 2 ^ ew == 0 && code % 2 ^ fw != 0
  | _ => false

/-- The value of an operand's code, subnormals read as zero of the same sign where the input bit is set (R77). -/
def readNum (f : Nat) (fi : Bool) (code : Nat) : Num :=
  if fi && isSubnormal f code then
    match decodeNum f code with
    | .fin n _ _ => .zero n
    | v => v
  else decodeNum f code

/-- A value times 2^k (a block scale: R69). -/
def Num.shift (k : Int) : Num → Num
  | .fin n m e => .fin n m (e + k)
  | v => v

/-! ## Rounding (R72 to R75) -/

/-- Rounding modes. -/
inductive RMode | rne | rtz | rdn | rup | rna | sr
  deriving DecidableEq, Repr, Inhabited

/-- The mode of a code (R53). -/
def rmodeOf : Nat → RMode
  | 0 => .rne | 1 => .rtz | 2 => .rdn | 3 => .rup | 4 => .rna | _ => .sr

/-- Does the magnitude `lo + rem/2^s` (0 < rem < 2^s) round up to `lo + 1`? `d` is the draw's bits [63:32] (R75). -/
def roundsUp (md : RMode) (neg : Bool) (lo rem s d : Nat) : Bool :=
  match md with
  | .rne => decide (2 ^ s < 2 * rem) || (decide (2 * rem = 2 ^ s) && lo % 2 == 1)
  | .rtz => false
  | .rdn => neg
  | .rup => !neg
  | .rna => decide (2 ^ s ≤ 2 * rem)
  | .sr => decide (d * 2 ^ s < rem * 2 ^ 32)

/-- A positive magnitude m·2^e as an integer number of units 2^q, and whether it is exact. -/
def roundUnits (md : RMode) (neg : Bool) (d : Nat) (m : Nat) (e q : Int) : Nat × Bool :=
  if q ≤ e then (m * pow2 (e - q), true)
  else
    let s := (q - e).toNat
    let lo := m / 2 ^ s
    let rem := m % 2 ^ s
    if rem = 0 then (lo, true) else (if roundsUp md neg lo rem s d then lo + 1 else lo, false)

/-- Is m1·2^e1 less than m2·2^e2? -/
def magLt (m1 : Nat) (e1 : Int) (m2 : Nat) (e2 : Int) : Bool :=
  let e0 := if e1 ≤ e2 then e1 else e2
  decide (m1 * pow2 (e1 - e0) < m2 * pow2 (e2 - e0))

/-- The code of a finite magnitude n·2^q, n < 2^(fw+1) or a power of two, in a floating-point format. -/
def encodeMag (ew fw bias : Nat) (neg : Bool) (n : Nat) (q : Int) : Nat :=
  let (n, q) := if n = 2 ^ (fw + 1) then (2 ^ fw, q + 1) else (n, q)
  let body := if n < 2 ^ fw then n else (q + fw + bias).toNat * 2 ^ fw + (n - 2 ^ fw)
  (if neg then 2 ^ (ew + fw) else 0) + body

/-- A finite non-zero magnitude rounded into a floating-point format: code and flags (R72, R73, R75, R77). -/
def roundFloat (f ew fw bias : Nat) (md : RMode) (d : Nat) (fr : Bool) (neg : Bool) (m : Nat) (e : Int) : Nat × FpFlags :=
  let sgn := if neg then 2 ^ (ew + fw) else 0
  let top : Int := e + (bitLen m : Int) - 1
  let emin : Int := 1 - (bias : Int)
  let q := (if top ≤ emin then emin else top) - fw
  let (xm, xq) := fmax f
  -- beyond the largest finite value, SR does as RNE (R75)
  let md' := if md = .sr ∧ magLt xm xq m e then .rne else md
  let (n, exact) := roundUnits md' neg d m e q
  let (n1, _) := roundUnits md' neg d m e (top - fw)
  let tiny := if f = 5 then decide (n = 1) && decide (q = emin - fw) else magLt n1 (top - fw) 1 emin
  if magLt xm xq n q then
    if f = 5 then (sgn + 7, fNX)
    else if f = 3 then (sgn + 0x7E, fOF ||| fNX)
    else
      let toMax := md' = .rtz ∨ (md' = .rdn ∧ neg = false) ∨ (md' = .rup ∧ neg = true)
      let infCode := (2 ^ ew - 1) * 2 ^ fw
      (sgn + (if toMax then infCode - 1 else infCode), fOF ||| fNX)
  else if tiny && fr then (sgn, if f = 5 then fNX else fUF ||| fNX)
  else (encodeMag ew fw bias neg n q, flagIf (!exact) fNX ||| flagIf (tiny && !exact && f != 5) fUF)

/-- The ends of an integer format. -/
def intEnds (b : Nat) (s : Bool) : Int × Int :=
  if s then (-((2 ^ (b - 1) : Nat) : Int), (2 ^ (b - 1) : Nat) - 1) else (0, (2 ^ b : Nat) - 1)

/-- A finite value rounded to an integer under a mode, and whether it is exact. -/
def roundInt (md : RMode) (d : Nat) (neg : Bool) (m : Nat) (e : Int) : Int × Bool :=
  let (n, exact) := roundUnits md neg d m e 0
  (if neg then -(n : Int) else n, exact)

/-- round(format, mode, v): the code of the result and the flags (R72, R73, R78, R81). `d` is the draw's bits [63:32], `fr`
the result's flush bit, `wrap` the modulo of R140. Model's choices (log 54): under SR an integer destination draws for a value
beyond its range too, since R72 makes consecutive integers its neighbours; `.wrap` takes −a of a UINT8 element modulo 256; and `.wrap`
leaves a NaN and an infinity to R81, NV included. An exact infinity of an operation into E4M3 is the canonical NaN with NV too, as R81 has
it of a conversion. -/
def roundNum (f : Nat) (md : RMode) (d : Nat) (fr wrap : Bool) (v : Num) : Nat × FpFlags :=
  match fkind f with
  | .float ew fw bias =>
    match v with
    | .nan s => (canonNan f, flagIf s fNV)
    | .inf n => if f = 3 then (canonNan f, fNV)
      else if f = 5 then ((if n then 8 else 0) + 7, fNX)
      else ((if n then 2 ^ (ew + fw) else 0) + (2 ^ ew - 1) * 2 ^ fw, 0#5)
    | .fin n 0 _ => (if n then 2 ^ (ew + fw) else 0, 0#5)
    | .fin n m e => roundFloat f ew fw bias md d fr n m e
  | .ds8 => (canonNan f, 0#5)
  | .int b s =>
    let (lo, hi) := intEnds b s
    let code (x : Int) : Nat := (x % ((2 ^ b : Nat) : Int)).toNat
    match v with
    | .nan _ => (0, fNV)
    | .inf n => (code (if n then lo else hi), fNV)
    | .fin n m e =>
      let (x, exact) := roundInt md d n m e
      if wrap then (code x, flagIf (!exact) fNX)
      else if x < lo then (code lo, fNV) else if hi < x then (code hi, fNV)
      else (code x, flagIf (!exact) fNX)

/-! ## Exact arithmetic (R74, R79, R80) -/

/-- An exact sum, with NV (R79: a signalling NaN, or both infinities, whatever else is added) and the sign of an exact zero (R74). -/
def sumNum (md : RMode) (xs : List Num) : Num × FpFlags :=
  let pinf := xs.any (fun x => x == .inf false)
  let ninf := xs.any (fun x => x == .inf true)
  if xs.any (·.isNan) || (pinf && ninf) then (.nan false, flagIf (xs.any (·.isSig) || (pinf && ninf)) fNV)
  else
    if pinf then (.inf false, 0#5)
    else if ninf then (.inf true, 0#5)
    else
      let e0 := xs.foldl (fun a x => if x.isZero then a else if x.exp ≤ a then x.exp else a)
        ((xs.find? (fun x => !x.isZero)).map (·.exp) |>.getD 0)
      let t := xs.foldl (fun a x => if x.isZero then a else a + scaled e0 x) (0 : Int)
      if t = 0 then (.zero (xs.all (fun x => x.isZero && x.isNeg) || md == .rdn), 0#5)
      else (.fin (decide (t < 0)) t.natAbs e0, 0#5)

/-- An exact product, with NV (R79). Its sign is the xor of the operands' signs, that of a zero product with an integer operand too
(log 54). -/
def mulNum (a b : Num) : Num × FpFlags :=
  if a.isNan || b.isNan then (.nan false, flagIf (a.isSig || b.isSig) fNV)
  else match a, b with
    | .inf n, y => if y.isZero then (.nan false, fNV) else (.inf (xor n y.isNeg), 0#5)
    | x, .inf n => if x.isZero then (.nan false, fNV) else (.inf (xor n x.isNeg), 0#5)
    | .fin n m e, .fin n' m' e' => (.fin (xor n n') (m * m') (e + e'), 0#5)
    | _, _ => (.nan false, 0#5)

/-- a × b + c with one rounding to follow: the exact value and NV. A signalling NaN or an invalid product is NV in any case. -/
def fmaNum (md : RMode) (a b c : Num) : Num × FpFlags :=
  let (p, f) := mulNum a b
  let (r, g) := sumNum md [p, c]
  (r, f ||| g)

/-- A magnitude that stands for a value strictly between q and q + 1 units, or for q exactly: one more bit, odd when inexact.
Every coarser rounding decides on it as on the value itself. -/
def jam (neg : Bool) (q : Nat) (exact : Bool) (e : Int) : Num := .fin neg (2 * q + (if exact then 0 else 1)) (e - 1)

/-- An exact quotient, with NV and DZ (R79). -/
def divNum (a b : Num) : Num × FpFlags :=
  if a.isNan || b.isNan then (.nan false, flagIf (a.isSig || b.isSig) fNV)
  else match a, b with
    | .inf n, y => if y.isInf then (.nan false, fNV) else (.inf (xor n y.isNeg), 0#5)
    | x, .inf n => (.zero (xor x.isNeg n), 0#5)
    | .fin n m e, .fin n' m' e' =>
      if m' = 0 then (if m = 0 then (.nan false, fNV) else (.inf (xor n n'), fDZ))
      else if m = 0 then (.zero (xor n n'), 0#5)
      else
        let k := bitLen m' + 160
        let q := m * 2 ^ k / m'
        (jam (xor n n') q (m * 2 ^ k % m' == 0) (e - e' - k), 0#5)
    | _, _ => (.nan false, 0#5)

/-- Integer square root, two bits of `n` for each unit of fuel. -/
def isqrt : Nat → Nat → Nat
  | 0, _ => 0
  | k + 1, n =>
    let r := 2 * isqrt k (n / 4)
    if (r + 1) * (r + 1) ≤ n then r + 1 else r

/-- The square root of a magnitude m·2^e, exactly or jammed. -/
def sqrtMag (m : Nat) (e : Int) : Num :=
  let k : Nat := 320 + (if (e - 320) % 2 = 0 then 0 else 1)
  let n := m * 2 ^ k
  let r := isqrt (bitLen n / 2 + 1) n
  jam false r (r * r == n) ((e - k) / 2)

/-- A square root, with NV below −0 (R79, R104). -/
def sqrtNum (a : Num) : Num × FpFlags :=
  match a with
  | .nan s => (.nan false, flagIf s fNV)
  | .inf n => if n then (.nan false, fNV) else (.inf false, 0#5)
  | .fin n m e => if m = 0 then (.zero n, 0#5) else if n then (.nan false, fNV) else (sqrtMag m e, 0#5)

/-- −1, 0 or 1 as a is below, equal to or above b, for values that are no NaN; the zeros are equal. -/
def cmpNum (a b : Num) : Int :=
  match a, b with
  | .inf n, .inf n' => if n = n' then 0 else if n then -1 else 1
  | .inf n, _ => if n then -1 else 1
  | _, .inf n => if n then 1 else -1
  | x, y =>
    let e0 := if x.exp ≤ y.exp then x.exp else y.exp
    let p := scaled e0 x
    let q := scaled e0 y
    if p < q then -1 else if q < p then 1 else 0

/-- a below b, −0 below +0 (R80). -/
def ltNum (a b : Num) : Bool :=
  let c := cmpNum a b
  decide (c < 0) || (decide (c = 0) && a.isNeg && !b.isNeg)

/-- minimumNumber and maximumNumber (R80). An element under the scale 0xFF is a quiet NaN here, so the other operand is the result:
the model takes R80 before R69 (log 54). -/
def minmaxNum (mx : Bool) (a b : Num) : Num × FpFlags :=
  let f := flagIf (a.isSig || b.isSig) fNV
  if a.isNan then (if b.isNan then (.nan false, f) else (b, f))
  else if b.isNan then (a, f)
  else (if mx then (if ltNum a b then b else a) else (if ltNum b a then b else a), f)

/-- The relations of FCMP and VCMP (R105). An element under the scale 0xFF is a NaN here (R66), so the ordered relations set NV for it,
although R69 raises no flag: the model's choice (log 54). -/
def relNum (r : FRel) (a b : Num) : Bool × FpFlags :=
  let un := a.isNan || b.isNan
  let sig := a.isSig || b.isSig
  let c := if un then 0 else cmpNum a b
  match r with
  | .eq => (!un && decide (c = 0), flagIf sig fNV)
  | .ne => (un || decide (c ≠ 0), flagIf sig fNV)
  | .un => (un, flagIf sig fNV)
  | .ord => (!un, flagIf sig fNV)
  | .lt => (!un && decide (c < 0), flagIf un fNV)
  | .le => (!un && decide (c ≤ 0), flagIf un fNV)
  | .gt => (!un && decide (0 < c), flagIf un fNV)
  | .ge => (!un && decide (0 ≤ c), flagIf un fNV)

/-! ## The draw generator (R89) -/

/-- Rounds of the generator. -/
def drawRounds : Nat → Nat → Nat → Nat → Nat → Nat
  | 0, x0, _, _, _ => x0
  | r + 1, x0, x1, k0, k1 =>
    let p := x0 * 0xD2E7470EE14C6C93
    drawRounds r (Nat.xor (Nat.xor (p / 2 ^ 64) x1) k0) (Nat.xor (p % 2 ^ 64) k1)
      ((k0 + 0x9E3779B97F4A7C15) % 2 ^ 64) ((k1 + 0xBB67AE8584CAA73B) % 2 ^ 64)

/-- draw(c, K) (R89). -/
def draw (c : Nat) (key : Word × Word) : Nat :=
  drawRounds 6 (c % 2 ^ 64) (c / 2 ^ 64 % 2 ^ 64) key.1.toNat key.2.toNat

/-- Bits [63:32] of a draw, by which SR decides (R75). -/
def drawHi (c : Nat) (key : Word × Word) : Nat := draw (c % 2 ^ 128) key / 2 ^ 32

end Machine
end Sys2Proof
end

