-- ==== Sys2Proof/Machine/Float.lean ====
section
/-! DEFINITION. Scalar floating-point instructions (04 R103 to R107). -/

namespace Sys2Proof
namespace Machine

/-! ## The prefix that an instruction runs under -/

/-- Prefix bits `lo .. lo+n-1` (R52). -/
def pfxField (p : BitVec 32) (lo n : Nat) : Nat := (p.toNat >>> lo) % 2 ^ n

/-- The prefix of the issuing strand's next instruction, if any (R31). -/
def State.pfx? (s : State) : Option (BitVec 32) := if swPP s.me.sw then some (swPXL s.me.sw) else none

/-- The rounding mode code: RM of the prefix, or DRM of SW (R53, R103). -/
def State.roundCode (s : State) : Nat :=
  match s.pfx? with
  | some p => if pfxField p 12 3 = 7 then swDRM s.me.sw else pfxField p 12 3
  | none => swDRM s.me.sw

/-- The prefix rules of the scalar forms (R103): formats as given, RM alone honoured, and RM = 7 where the form does not round. A
reserved bit or RM, which a handler may have written into PXL, is refused as R54 says. -/
def State.fpPfxOk (s : State) (fa fb fd : Nat) (rounds : Bool) : Bool :=
  match s.pfx? with
  | none => true
  | some p =>
    pfxField p 0 4 == fa && pfxField p 4 4 == fb && pfxField p 8 4 == fd && pfxField p 15 17 == 0 && pfxField p 12 3 != 6
    && (rounds || pfxField p 12 3 == 7)

/-! ## Operands and results -/

/-- Format code of a width. -/
def fpFmt (dbl : Bool) : Nat := if dbl then 10 else 0

/-- The bits of an operand. -/
def fpBits (dbl : Bool) (x : Word) : Nat := if dbl then x.toNat else lowBits x 32

/-- The value of an operand, input flushing for FP32 (R77, R103). -/
def State.fpVal (s : State) (dbl : Bool) (x : Word) : Num :=
  readNum (fpFmt dbl) (!dbl && swFI s.me.sw .c32) (fpBits dbl x)

/-- The generator's key and counter (R25). -/
def Tile.rngKey (x : Tile) : Word × Word := (x.cw.keyl, x.cw.keyh)
/-- C. -/
def Tile.rngCtr (x : Tile) : Nat := x.cw.ctrh.toNat * 2 ^ 64 + x.cw.ctrl.toNat
/-- The counter advanced by `n`, modulo 2^128 (R89, R90). -/
def Tile.rngAdvance (x : Tile) (n : Nat) : Tile :=
  let c := (x.rngCtr + n) % 2 ^ 128
  { x with cw := { x.cw with ctrl := BitVec.ofNat 64 (c % 2 ^ 64), ctrh := BitVec.ofNat 64 (c / 2 ^ 64) } }

/-- d and the flags written, and the instruction retired (R103). -/
def State.fpDone (s : State) (d : Reg) (v : Word) (f : FpFlags) : State :=
  (s.setReg d v).retire.modMe (fun z => { z with sw := swOr z.sw f })

/-- A value rounded into format `f` under the instruction's mode; under SR one counter value is used (R76). -/
def State.fpRound (s : State) (f : Nat) (d : Reg) (v : Num) (fl : FpFlags) : State :=
  let md := rmodeOf s.roundCode
  let x := s.my
  let r := roundNum f md (if md = .sr then drawHi x.rngCtr x.rngKey else 0) (f == 0 && swFR s.me.sw .c32) false v
  let s1 := if md = .sr then s.modMy (fun x => x.rngAdvance 1) else s
  s1.fpDone d (BitVec.ofNat 64 r.1) (fl ||| r.2)

/-- A form that rounds. -/
def fpOp (d : Reg) (dbl : Bool) (v : State → RMode → Num × FpFlags) (s : State) : Out State :=
  let f := fpFmt dbl
  run s (legal (s.fpPfxOk f f f true)) (fun s =>
    let r := v s (rmodeOf s.roundCode)
    s.fpRound f d r.1 r.2)

/-- A form that does not round: its word and its flags. -/
def fpMove (d : Reg) (dbl : Bool) (v : State → Word × FpFlags) (s : State) : Out State :=
  let f := fpFmt dbl
  run s (legal (s.fpPfxOk f f f false)) (fun s => s.fpDone d (v s).1 (v s).2)

/-- Operand values of a two-operand form. -/
def State.fpA (s : State) (o : Fp) : Num := s.fpVal o.dbl (s.reg o.a)
/-- Operand b. -/
def State.fpB (s : State) (o : Fp) : Num := s.fpVal o.dbl (s.src o.b)

/-- FADD (R104). -/
def execFadd (o : Fp) (s : State) : Out State := fpOp o.d o.dbl (fun s md => sumNum md [s.fpA o, s.fpB o]) s
/-- FSUB (R104): a − b is a + (−b); a NaN keeps its kind. -/
def execFsub (o : Fp) (s : State) : Out State := fpOp o.d o.dbl (fun s md => sumNum md [s.fpA o, (s.fpB o).neg]) s
/-- FMUL (R104). -/
def execFmul (o : Fp) (s : State) : Out State := fpOp o.d o.dbl (fun s _ => mulNum (s.fpA o) (s.fpB o)) s
/-- FMA (R104). -/
def execFma (o : Fp) (c : Reg) (s : State) : Out State :=
  fpOp o.d o.dbl (fun s md => fmaNum md (s.fpA o) (s.fpB o) (s.fpVal o.dbl (s.reg c))) s
/-- FDIV (R104). -/
def execFdiv (o : Fp) (s : State) : Out State := fpOp o.d o.dbl (fun s _ => divNum (s.fpA o) (s.fpB o)) s
/-- FSQRT (R104). -/
def execFsqrt (d a : Reg) (dbl : Bool) (s : State) : Out State :=
  fpOp d dbl (fun s _ => sqrtNum (s.fpVal dbl (s.reg a))) s

/-- The code of a value of the format itself; any NaN gives the canonical one (R78). -/
def exactCode (f : Nat) (v : Num) : Word := BitVec.ofNat 64 (roundNum f .rtz 0 false false v).1

/-- FMIN (R80, R104). -/
def execFmin (o : Fp) (s : State) : Out State :=
  fpMove o.d o.dbl (fun s => let r := minmaxNum false (s.fpA o) (s.fpB o); (exactCode (fpFmt o.dbl) r.1, r.2)) s
/-- FMAX (R80, R104). -/
def execFmax (o : Fp) (s : State) : Out State :=
  fpMove o.d o.dbl (fun s => let r := minmaxNum true (s.fpA o) (s.fpB o); (exactCode (fpFmt o.dbl) r.1, r.2)) s

/-- FCMP (R105). -/
def execFcmp (r : FRel) (o : Fp) (s : State) : Out State :=
  fpMove o.d o.dbl (fun s => let c := relNum r (s.fpA o) (s.fpB o); (if c.1 then 1#64 else 0#64, c.2)) s

/-- Source format, result format and their prefix codes (R106). -/
def cvtFormats (fn : CvtFn) (dbl : Bool) : Nat × Nat × Nat × Nat :=
  let f := fpFmt dbl
  match fn with
  | .ff => (fpFmt (!dbl), f, fpFmt (!dbl), f)
  | .fsi => (f, fmtI64, f, 9)
  | .fui => (f, fmtU64, f, 9)
  | .sif => (fmtI64, f, 9, f)
  | .uif => (fmtU64, f, 9, f)

/-- FCVT (R81, R106). -/
def execFcvt (fn : CvtFn) (d a : Reg) (dbl : Bool) (s : State) : Out State :=
  let (sf, df, pa, pd) := cvtFormats fn dbl
  run s (legal (s.fpPfxOk pa 0 pd true)) (fun s =>
    s.fpRound df d (readNum sf (sf == 0 && swFI s.me.sw .c32) (lowBits (s.reg a) (fwidth sf))) 0#5)

/-- The class bit of an encoding (R107). -/
def classBit (f : Nat) (code : Nat) : Nat :=
  match decodeNum f code with
  | .nan sig => if sig then 8 else 9
  | .inf n => if n then 0 else 7
  | .fin n m _ =>
    if m = 0 then (if n then 3 else 4)
    else if isSubnormal f code then (if n then 2 else 5) else (if n then 1 else 6)

/-- FCLASS (R107). -/
def execFclass (d a : Reg) (dbl : Bool) (s : State) : Out State :=
  fpMove d dbl (fun s => (BitVec.twoPow 64 (classBit (fpFmt dbl) (fpBits dbl (s.reg a))), 0#5)) s

/-- The sign that FSGN chooses (R56). -/
def sgnBit (fn : SgnFn) (a b : Bool) : Bool :=
  match fn with
  | .sgn => b
  | .nsg => !b
  | .xsg => xor a b

/-- FSGN (R104): the magnitude bits of a with the chosen sign. -/
def execFsgn (fn : SgnFn) (o : Fp) (s : State) : Out State :=
  fpMove o.d o.dbl (fun s =>
    let top := if o.dbl then 63 else 31
    let a := fpBits o.dbl (s.reg o.a)
    let b := fpBits o.dbl (s.src o.b)
    (BitVec.ofNat 64 (a % 2 ^ top + (if sgnBit fn (a.testBit top) (b.testBit top) then 2 ^ top else 0)), 0#5)) s

end Machine
end Sys2Proof
end

