-- ==== Sys2Proof/Machine/Access.lean ====
section
/-! DEFINITION. Local loads, stores and atomics (04 R111 to R114, 08 R222, R223), and the class wait under W (08 R215). -/

namespace Sys2Proof
namespace Machine

/-! ## Waits on counters (R214, R215) -/

/-- The strand waits while an access that its wait covers and `sel` selects is outstanding. -/
def State.waitPosted (s : State) (sel : Posted → Bool) (tval : Nat) : Chk :=
  if s.drained sel then .ok else .wait { kind := .posted, tval := tval }

/-- The class wait under W (R215). -/
def State.wChk (s : State) (wc : WCls) : Chk :=
  match wc with
  | .none => .ok
  | .tile => s.waitPosted (fun q => q.cls == .tile) 0x0202
  | .edge => s.waitPosted (fun q => q.cls == .edge) 0x0202
  | .net => s.waitPosted (fun q => q.cls == .net) 0x0202

/-- `.rel`: all three classes (R215). -/
def State.relChk (s : State) (rel : Bool) : Chk :=
  if rel then s.waitPosted (fun _ => true) 0x0202 else .ok

/-! ## Loads and stores -/

/-- The access of a form at reg[a] + operand b. -/
def State.lacc (s : State) (sp : LSpace) (a : Reg) (b : Src) (size : Nat) (write : Bool) : LAcc :=
  { sp := lspc sp, addr := s.reg a + s.src b, size := size, align := size, write := write, tag := s.me.ctx }

/-- A local form: the class wait, the checks of R113, a store's wait for its bead, then the effect. -/
def localOp (s : State) (wc : WCls) (a : LAcc) (eff : State → State) : Out State :=
  simple s (firstOf [fun _ => s.wChk wc, fun _ => s.localChk a, fun _ => if a.write then s.poolChk a else .ok]) eff

/-- LD (R111). -/
def execLd (m : LMem) (sx : Bool) (s : State) : Out State :=
  let a := s.lacc m.sp m.a m.b (wBytes m.w) false
  localOp s m.wc a (fun s => (s.clearingRead a).setReg m.d (extOf sx (wBits m.w) (s.lval a : Int)))

/-- ST (R111). -/
def execSt (m : LMem) (s : State) : Out State :=
  let a := s.lacc m.sp m.a m.b (wBytes m.w) true
  localOp s m.wc a (fun s => s.lput a (lowBits (s.reg m.d) (wBits m.w)))

/-- LDP (R112). -/
def execLdp (m : LPair) (s : State) : Out State :=
  let a := s.lacc m.sp m.a m.b 16 false
  localOp s m.wc a (fun s =>
    let v := s.lval a
    ((s.clearingRead a).setReg m.d (BitVec.ofNat 64 (v % 2 ^ 64))).setReg m.c (BitVec.ofNat 64 (v / 2 ^ 64)))

/-- STP (R112). -/
def execStp (m : LPair) (s : State) : Out State :=
  let a := s.lacc m.sp m.a m.b 16 true
  localOp s m.wc a (fun s => s.lput a ((s.reg m.d).toNat + 2 ^ 64 * (s.reg m.c).toNat))

/-! ## Atomics (R222, R223) -/

/-- The new stored value of an atomic, and the flags of a floating-point addition. -/
def amoNew (fn : AmoFn) (n : Nat) (old v : Nat) : Nat × FpFlags :=
  let x : Word := BitVec.ofNat 64 old
  let y : Word := BitVec.ofNat 64 v
  match fn with
  | .add => ((old + v) % 2 ^ n, 0#5)
  | .and => (old &&& v, 0#5)
  | .or => (old ||| v, 0#5)
  | .xor => (old ^^^ v, 0#5)
  | .swap => (v, 0#5)
  | .smin => (if valOf true n x ≤ valOf true n y then old else v, 0#5)
  | .smax => (if valOf true n x ≤ valOf true n y then v else old, 0#5)
  | .umin => (min old v, 0#5)
  | .umax => (max old v, 0#5)
  | .fadd =>
    let t := sumNum .rne [decodeNum 0 old, decodeNum 0 v]
    let r := roundNum 0 .rne 0 false false t.1
    (r.1, t.2 ||| r.2)
  | .bfadd =>
    let t := sumNum .rne [decodeNum 1 old, decodeNum 1 v]
    let r := roundNum 1 .rne 0 false false t.1
    (r.1, t.2 ||| r.2)

/-- The space of a local atomic. -/
def amoSpace (act : Bool) : LSpace := if act then .act else .data

/-- A local atomic: the store's checks, and poison as a read meets it. -/
def localAtomic (s : State) (m : LAmo) (eff : State → LAcc → State) : Out State :=
  let a := s.lacc (amoSpace m.act) m.a m.b (wBytes m.w) true
  simple s (firstOf [fun _ => s.wChk m.wc, fun _ => s.localChk a,
    fun _ => if s.poisonHit s.ct a.sp (s.place s.ct a.sp a.addr.toNat a.tag) a.size false
      then .stop (s.poisonCause s.ct a.sp (s.place s.ct a.sp a.addr.toNat a.tag) a.size) else .ok,
    fun _ => s.poolChk a]) (fun s => eff s a)

/-- AMO (R223). -/
def execAmo (fn : AmoFn) (m : LAmo) (s : State) : Out State :=
  localAtomic s m (fun s a =>
    let old := s.lval a
    let r := amoNew fn (wBits m.w) old (lowBits (s.reg m.c) (wBits m.w))
    ((s.lput a r.1).setReg m.d (BitVec.ofNat 64 old)).modMe (fun z => { z with sw := swOr z.sw r.2 }))

/-- CAS (R223). A failed compare stores what is there; under a tag it makes the bead as any atomic does (14 R341). -/
def execCas (m : LAmo) (s : State) : Out State :=
  localAtomic s m (fun s a =>
    let old := s.lval a
    let new := if old = lowBits (s.reg m.d) (wBits m.w) then lowBits (s.reg m.c) (wBits m.w) else old
    (s.lput a new).setReg m.d (BitVec.ofNat 64 old))

end Machine
end Sys2Proof
end

