-- ==== Sys2Proof/Machine/Hbm.lean ====
section
/-! DEFINITION. Physical memory (13 R321), its poison (18 R401), the meters' charges (18 R407) and the walk of Sv57-style page
tables (13 R327, R328). -/

namespace Sys2Proof
namespace Machine

/-! ## Meters (R407) -/

/-- A charge of `n` to counter `c` of virtual device `v` and of its tenant, in the regions' shadows. -/
def State.charge (s : State) (v : Fin 64) (c n : Nat) : State :=
  if n = 0 then s
  else
    let kd := 16 * v.val + c
    let kt := 16 * (s.meters.ten[v]).toNat + c
    { s with meters := { s.meters with
        shDev := tset s.meters.shDev kd (tget 0#64 s.meters.shDev kd + BitVec.ofNat 64 n)
        shTen := tset s.meters.shTen kt (tget 0#64 s.meters.shTen kt + BitVec.ofNat 64 n) } }

/-- The virtual device whose launch holds a partition (R323). -/
def State.holder (s : State) (p : Fin 24) : Option (Fin 64) := (s.curLaunch p).map (·.vdev)

/-- A charge to the device that holds a partition. -/
def State.chargeP (s : State) (p : Fin 24) (c n : Nat) : State :=
  match s.holder p with
  | some v => s.charge v c n
  | none => s

/-- A charge to the device that holds the partition of a tile. -/
def State.chargeT (s : State) (t : TileId) (c n : Nat) : State :=
  match s.partOf t with
  | some p => s.chargeP p c n
  | none => s

/-! ## Physical memory (R321) -/

/-- Stack of a physical address. -/
def paStack (pa : Nat) : Nat := pa / 2 ^ 36 % 64

/-- A physical address that names HBM of a stack that is present. -/
def State.paOk (s : State) (pa : Nat) : Bool :=
  decide (pa < 2 ^ 42) && decide (paStack pa < 24) && !s.boot.noStack.contains (paStack pa)

/-- The first byte of the lowest-numbered present stack, whose lowest 8 MiB the firmware reserves (18 R412). -/
def State.svcBase (s : State) : Option Nat :=
  ((List.range 24).find? (fun k => !s.boot.noStack.contains k)).map (fun k => 2 ^ 36 * k)

/-- Does the physical address lie in the range that the firmware reserves? It gives no frame of it to a partition (18 R412). -/
def State.reserved (s : State) (pa : Nat) : Bool :=
  match s.svcBase with
  | some b => decide (b ≤ pa) && decide (pa < b + 0x800000)
  | none => false

/-- May the partition reach the physical address (R321; 18 R412, log 46)? -/
def State.paAllowed (s : State) (p : Fin 24) (pa : Nat) : Bool :=
  s.paOk pa && (s.parts[p]).stk.getLsbD (paStack pa) && !s.reserved pa

/-- Bytes of HBM. -/
def State.hread (s : State) (pa n : Nat) : List Byte := mread s.hbm pa n

/-- A doubleword of HBM. -/
def State.hdw (s : State) (pa : Nat) : Word := mdw s.hbm pa

/-- Bytes of HBM written; poison of granules that are covered whole is cleared (R401), and no hart's reservation of a granule outlives
a write to it. -/
def State.hwrite (s : State) (pa : Nat) (bs : List Byte) : State :=
  { s with
    hbm := mwrite s.hbm pa bs
    hbmBad := s.hbmBad.filter (fun g => !(decide (pa ≤ 64 * g) && decide (64 * g + 64 ≤ pa + bs.length)))
    lrs := s.lrs.filter (fun x => !(bs.length != 0 && overlap (64 * x.2) (64 * x.2 + 63) pa (pa + bs.length - 1))) }

/-- A doubleword of HBM written. -/
def State.hwriteDw (s : State) (pa : Nat) (v : Word) : State := s.hwrite pa (leBytes 8 v.toNat)

/-- Does the access meet poison: a read any of it, a write a granule that it covers in part (R401)? -/
def State.hbmPoison (s : State) (pa n : Nat) (write : Bool) : Bool :=
  n != 0 && s.hbmBad.any (fun g => overlap (64 * g) (64 * g + 63) pa (pa + n - 1)
    && !(write && decide (pa ≤ 64 * g) && decide (64 * g + 64 ≤ pa + n)))

/-- Granules that a range of bytes touches. -/
def granules (pa n : Nat) : Nat := if n = 0 then 0 else (pa + n - 1) / 64 - pa / 64 + 1

/-- The stop that poisoned HBM brings about (R401, R405). -/
def hbmStop (s : State) (pa : Nat) : StopCause :=
  let bad := s.hbmBad.filter (fun g => decide (pa / 64 ≤ g))
  { kind := 0x11, d0 := BitVec.ofNat 64 (max pa (64 * bad.foldl min (bad.headD 0))), d1 := Config.eccWord s.steps, row := 0xFF, col := 0xFF }

/-- A partition is to be stopped (R401, R402). -/
def State.stopPart (s : State) (p : Fin 24) (c : StopCause) : State :=
  s.modPart p (fun q => { q with stopDue := some (q.stopDue.getD c) })

/-! ## Walks (R327, R328) -/

/-- Where a walk ends, with the number of table reads. -/
inductive WalkEnd
  | leaf (level at_ : Nat) (pte : Word)
  | demand (at_ : Nat)
  | invalid
  | poison (at_ : Nat)
  deriving DecidableEq, Repr

/-- Page-table bits. -/
def pteV (w : Word) : Bool := w.getLsbD 0
/-- R. -/
def pteR (w : Word) : Bool := w.getLsbD 1
/-- W. -/
def pteW (w : Word) : Bool := w.getLsbD 2
/-- X. -/
def pteX (w : Word) : Bool := w.getLsbD 3
/-- U. -/
def pteU (w : Word) : Bool := w.getLsbD 4
/-- A. -/
def pteA (w : Word) : Bool := w.getLsbD 6
/-- D. -/
def pteD (w : Word) : Bool := w.getLsbD 7
/-- PPN. -/
def ptePpn (w : Word) : Nat := field w 10 44

/-- Virtual page number at a level. -/
def vpnAt (va : Word) (level : Nat) : Nat := field va (12 + 9 * level) 9

/-- The walk from a table at `ppn`, `n` levels left (the entry read is at level n − 1). -/
def ptWalk (s : State) (va : Word) : Nat → Nat → WalkEnd × Nat
  | 0, _ => (.invalid, 0)
  | n + 1, ppn =>
    let at_ := ppn * 4096 + 8 * vpnAt va n
    let pte := s.hdw at_
    if s.hbmPoison at_ 8 false then (.poison at_, 1)
    else if !pteV pte then
      (if n = 0 ∧ pte = 0x200#64 then .demand at_ else .invalid, 1)
    else if (pteW pte && !pteR pte) || field pte 54 10 ≠ 0 then (.invalid, 1)
    else if pteR pte || pteX pte then
      (if ptePpn pte % 2 ^ (9 * n) = 0 then .leaf n at_ pte else .invalid, 1)
    else
      let r := ptWalk s va n (ptePpn pte)
      (r.1, r.2 + 1)

/-- The physical address that a leaf at a level gives. -/
def leafPa (level : Nat) (pte va : Word) : Nat :=
  (ptePpn pte / 2 ^ (9 * level)) * 2 ^ (12 + 9 * level) + va.toNat % 2 ^ (12 + 9 * level)

end Machine
end Sys2Proof
end

