-- ==== Sys2Proof/Machine/Hart.lean ====
section
/-! DEFINITION. Island harts (12 R305, log 6): their translation, their exceptions, which go to M-mode, and the fetch of their
instructions. -/

namespace Sys2Proof
namespace Machine

/-- The hart whose turn it is. -/
def State.hart (s : State) : Hart := s.harts[s.curHart]
/-- That hart changed. -/
def State.modHart (s : State) (f : Hart → Hart) : State := { s with harts := s.harts.set s.curHart (f s.hart) }

/-- A register of a hart; x0 reads zero. -/
def Hart.reg (h : Hart) (r : Fin 32) : Word := if r = 0 then 0#64 else h.x[r]
/-- A register of a hart written; x0 discards. -/
def Hart.setReg (h : Hart) (r : Fin 32) (v : Word) : Hart := if r = 0 then h else { h with x := h.x.set r v }

/-- MPP code of a mode. -/
def HMode.mpp : HMode → Nat
  | .m => 3 | .s | .vs => 1 | .u | .vu => 0

/-- Is the mode one of a guest? -/
def HMode.virt : HMode → Bool
  | .vs | .vu => true
  | _ => false

/-- The mode of an MPP code and of MPV. -/
def modeOf (mpp : Nat) (v : Bool) : HMode :=
  if mpp = 3 then .m else if mpp = 1 then (if v then .vs else .s) else if v then .vu else .u

/-- An exception of a hart, taken to M-mode (log 6): mepc, mcause, mtval; MPIE := MIE, MIE := 0, MPP and MPV := mode. -/
def Hart.take (h : Hart) (cause : Nat) (tval : Word) : Hart :=
  { h with
    mepc := h.pc, mcause := BitVec.ofNat 64 cause, mtval := tval
    mstatus := setBit (setField (setBit (setBit h.mstatus 7 (h.mstatus.getLsbD 3)) 3 false) 11 2 (BitVec.ofNat 64 h.mode.mpp)) 39 h.mode.virt
    mode := .m, pc := h.mtvec &&& 0xFFFFFFFFFFFFFFFC#64 }

/-- Levels of the hart's tables by satp.MODE: Sv39, Sv48, Sv57. -/
def satpLevels (satp : Word) : Nat :=
  let m := field satp 60 4
  if m = 8 then 3 else if m = 9 then 4 else if m = 10 then 5 else 0

/-- Is a virtual address the sign extension of the bits that `n` levels translate? -/
def hartCanon (n : Nat) (va : Word) : Bool :=
  let k := 12 + 9 * n
  field va (k - 1) (65 - k) == 0 || field va (k - 1) (65 - k) == 2 ^ (65 - k) - 1

/-- First address of the device's registers that harts reach (13 R313), and their extent. -/
def configBase : Nat := 0x3F000000000
/-- Bytes from there to the end of the black boxes (18 R403). -/
def configSize : Nat := 0x400000

/-- What a hart's access to memory meets: a byte of HBM, a register of the device at an offset from `configBase`, a page fault or an
access fault. -/
inductive HartAcc
  | ok (pa : Nat)
  | dev (o : Nat)
  | page
  | access
  deriving DecidableEq, Repr

/-- Kinds of a hart's access. -/
inductive HKind | fetch | load | store
  deriving DecidableEq, Repr

/-- Exception codes of a kind: misaligned, access fault, page fault. -/
def HKind.codes : HKind → Nat × Nat × Nat
  | .fetch => (0, 1, 12) | .load => (4, 5, 13) | .store => (6, 7, 15)

/-- A physical access of `n` bytes: HBM that is not poisoned (18 R401), or an aligned doubleword of the device's registers (R313). -/
def State.hartPhys (s : State) (k : HKind) (pa n : Nat) : HartAcc :=
  if s.paOk pa then (if s.hbmPoison pa n (k == .store) then .access else .ok pa)
  else if k != .fetch && n == 8 && pa % 8 == 0 && decide (configBase ≤ pa) && decide (pa < configBase + configSize) then .dev (pa - configBase)
  else .access

/-- The mode in which an access is made: MPRV gives loads and stores of M-mode the mode that MPP and MPV name. -/
def Hart.accMode (h : Hart) (k : HKind) : HMode :=
  if h.mode = .m ∧ k ≠ .fetch ∧ h.mstatus.getLsbD 17 = true then modeOf (field h.mstatus 11 2) (h.mstatus.getLsbD 39) else h.mode

/-- Does a leaf allow an access: A, and D for a store; the right, where MXR lets a load use X; U in user mode, and elsewhere only where
SUM allows a load or store? -/
def Hart.leafOk (h : Hart) (md : HMode) (k : HKind) (pte : Word) : Bool :=
  let right := match k with
    | .fetch => pteX pte
    | .load => pteR pte || (h.mstatus.getLsbD 19 && pteX pte)
    | .store => pteW pte && pteD pte
  let user := md == .u || md == .vu
  pteA pte && right && (if user then pteU pte else !pteU pte || (k != .fetch && h.mstatus.getLsbD 18))

/-- The hart's own translation of `n` bytes (log 6): bare in M-mode or with satp.MODE = 0; else a walk. -/
def State.hartAcc (s : State) (h : Hart) (va : Word) (k : HKind) (n : Nat) : HartAcc :=
  let md := h.accMode k
  let lv := satpLevels h.satp
  if md = .m ∨ lv = 0 then s.hartPhys k va.toNat n
  else if !hartCanon lv va then .page
  else match (ptWalk s va lv (field h.satp 0 44)).1 with
    | .leaf l _ pte => if h.leafOk md k pte then s.hartPhys k (leafPa l pte va) n else .page
    | .poison _ => .access
    | _ => .page

/-- What a hart's turn comes to before its instruction is executed; `base` is a word of the RISC-V base instruction set (log 6). -/
inductive HartFetched
  | still (s : State)
  | issue (s : State) (i : Instr)
  | base (s : State) (w : BitVec 32)

/-- The major opcode custom-0. -/
def isCustom0 (w : BitVec 32) : Bool := w.extractLsb' 0 7 == 0b0001011#7

/-- A hart's turn: its fetch, and an illegal-instruction exception on a custom-0 word that is no LNCH (R305). The harts of an absent
island do not start (17 R399). -/
def State.fetchHart (s : State) (h : Fin 384) : HartFetched :=
  let s := { s with curHart := h }
  if !s.hartsOn || s.boot.noIsland.contains (h.val / 8) then .still s
  else
    let pc := s.hart.pc
    match s.hartAcc s.hart pc .fetch 4 with
    | .page => .still (s.modHart (fun x => x.take 12 pc))
    | .access | .dev _ => .still (s.modHart (fun x => x.take 1 pc))
    | .ok pa =>
      let w := BitVec.ofNat 32 (mval s.hbm pa 4)
      if !isCustom0 w then .base s w
      else match decodeHart w with
        | some i => .issue s i
        | none => .still (s.modHart (fun x => x.take 2 (w.zeroExtend 64)))

end Machine
end Sys2Proof
end

