-- ==== Sys2Proof/Machine/Clock.lean ====
section
/-! DEFINITION. The clks that the power controller and the stack controllers hold (20 R421, R422), the tiles of a partition that are present
(12 R307), and the meters' shadows (18 R408). What the passing of clks does is in Elapse.lean. -/

namespace Sys2Proof
namespace Machine

/-- Clks common to `[a, b)` and `[c, d)`. -/
def common (a b c d : Nat) : Nat := min b d - max a c

/-- Held clks of the current period among the next `dt` (R421). -/
def State.heldClks (s : State) (dt : Nat) : Nat :=
  common s.now (s.now + dt) s.power.periodAt (s.power.periodAt + s.power.held)

/-- Is this clk held (R421)? -/
def State.heldNow (s : State) : Bool := s.heldClks 1 == 1

/-- Multiples of four below `n`. -/
def fours (n : Nat) : Nat := (n + 3) / 4

/-- The clk in four in which a hot stack's controller holds its traffic (R422): the model's choice is the one whose number is
a multiple of four (log 2). -/
def stackHoldClk (now : Nat) : Bool := now % 4 == 0

/-- The physical address that a virtual address of a device leads to, read from its tables. -/
def State.paOf (s : State) (v : Fin 64) (va : Word) : Option Nat :=
  if !(s.vdevs[v]).sv57 then none
  else match (ptWalk s va 5 (s.vdevs[v]).ppn.toNat).1 with
    | .leaf l _ pte => some (leafPa l pte va)
    | _ => none

/-- Does a physical address lie on a hot stack (R422)? -/
def State.hotPa (s : State) (pa : Nat) : Bool := s.power.hotStacks.contains (paStack pa)

/-- Does the controller of the stack at a physical address hold its traffic in this clk (R422)? -/
def State.heldPa (s : State) (pa : Nat) : Bool := s.hotPa pa && stackHoldClk s.now

/-- Present tiles of a partition, T (R307). -/
def State.presentCount (s : State) (p : Fin 24) : Nat :=
  let q := s.parts[p]
  let gone := (s.boot.absent.filter (fun t => q.covers t &&
    !s.boot.retired.contains (8 * (rowOf t / 30) + colOf t / 32))).length
  let regions := ((List.range 48).filter (fun r => s.boot.retired.contains r && q.covers (tileAt (30 * (r / 8)) (32 * (r % 8))))).length
  q.height * q.width - gone - 960 * regions

/-- The meter class of a matrix command by the format of its operand B (R158, R407); a command without one is in no class. -/
def mxClass (fmt : Nat) : Option Nat :=
  if fmt = 1 ∨ fmt = 2 then some 1
  else if fmt = 3 ∨ fmt = 4 ∨ fmt = 7 ∨ fmt = 8 then some 2
  else if fmt = 6 then some 3 else if fmt = 5 then some 4 else none

/-- Counters with their shadows added (R408). -/
def addTbl (t sh : Tbl Word) : Tbl Word := sh.foldl (fun t x => tset t x.1 (tget 0#64 t x.1 + x.2)) t

/-- The shadows of all regions added into the block. -/
def Meters.flush (m : Meters) : Meters :=
  { m with dev := addTbl m.dev m.shDev, tenant := addTbl m.tenant m.shTen, shDev := [], shTen := [] }

/-- The counters as they stand at the start of a clk (R409). -/
def Meters.mark (m : Meters) : Meters := { m with dev0 := addTbl m.dev m.shDev, ten0 := addTbl m.tenant m.shTen }

end Machine
end Sys2Proof
end

