-- ==== Sys2Proof/Machine/Home.lean ====
section
/-! DEFINITION. What a home does: translation at an edge port (13 R326 to R332), tagged and versioned windows (14 R341 to R354),
the read buffer (08 R220), and the accesses themselves (08 R219 to R223, R237, R238). -/

namespace Sys2Proof
namespace Machine

/-! ## Free choices -/

/-- A free choice, and the state that has used it up (log 8, log 12). -/
def State.choose (s : State) : Bool × State := (Config.lands s.free, { s with free := s.free + 1 })

/-! ## Event queues and frames (R330, R332, R375) -/

/-- A 32-byte record, doublewords 0 to 3 in order. -/
def State.hwriteRec (s : State) (pa : Nat) (w0 w1 w2 w3 : Word) : State :=
  (((s.hwriteDw pa w0).hwriteDw (pa + 8) w1).hwriteDw (pa + 16) w2).hwriteDw (pa + 24) w3

/-- An island event: its record in the partition's queue, then the interrupt (R332); a poisoned granule of the queue stops the partition
(18 R401). -/
def State.islandEvent (s : State) (p : Fin 24) (asid : Half) (etu cause kind : Nat) (va : Word) (req : BitVec 32) : State :=
  let q := s.parts[p]
  let at_ := q.tqbase.toNat + 32 * (q.tqn % 256)
  if s.hbmPoison at_ 32 true then s.stopPart p (hbmStop s at_) else
  let w1 := BitVec.ofNat 64 (asid.toNat * 2 ^ 32 + etu * 2 ^ 24 + cause * 2 ^ 16 + kind * 2 ^ 8)
  let w3 := if q.tqn / 256 % 2 = 0 then 1#64 else 0#64
  let s1 := (s.hwriteRec at_ va w1 (req.zeroExtend 64) w3).chargeP p 7 64
  (s1.modPart p (fun q => { q with tqn := q.tqn + 1 })).tell (.msi (q.timp.zeroExtend 64 <<< 12) q.teiid.toNat)

/-- Frames left in a partition's ring (R330). -/
def Part.ringLeft (q : Part) : Nat := (q.fptail - q.fphead).toNat

/-- What taking a frame of the ring comes to: its address, nothing in an empty ring, or a poisoned entry (R330, R401). -/
inductive Frame
  | got (pa : Nat) (s : State)
  | dry
  | poison (at_ : Nat)

/-- The next frame of the ring taken for an access of device `v` of the given kind; the read of the entry is metered (R407), and
"pool low" is raised when the count falls below FPLOW (R330). An entry that names a frame which the firmware reserves gives none (18 R412,
log 46). -/
def State.takeFrame (s : State) (p : Fin 24) (v : Fin 64) (etu kind : Nat) (va : Word) : Frame :=
  let q := s.parts[p]
  if q.ringLeft = 0 then .dry
  else
    let at_ := q.fpbase.toNat + 8 * (q.fphead.toNat % 2 ^ q.fplog)
    if s.hbmPoison at_ 8 false then .poison at_
    else if s.reserved (s.hdw at_).toNat then .dry
    else
      let s1 := (s.modPart p (fun q => { q with fphead := q.fphead + 1 })).charge v 6 64
      let left := q.ringLeft - 1
      .got (s.hdw at_).toNat
        (if q.fplow ≤ left + 1 ∧ left < q.fplow then s1.islandEvent p (s.vdevs[v]).asid etu 3 kind va 0#32 else s1)

/-! ## Translation (R326 to R332) -/

/-- What a translation comes to. -/
inductive Xl
  | pa (pa : Nat) (s : State)
  | refuse (c : Cause) (tval : Word) (s : State)
  | event (req : BitVec 32) (s : State)   -- waits for the island
  | empty (s : State)                     -- waits for a frame
  | behind (s : State)                    -- is made again later: behind the waiting accesses of its ETU, or after a lost race
  | stop (c : StopCause) (s : State)      -- a page-table read met poison

/-- An access to be translated: partition, device whose address space it is, port, address, rights. -/
structure VAsk where
  p     : Fin 24
  v     : Fin 64
  etu   : Fin 56
  va    : Word
  read  : Bool
  write : Bool
  /-- The access waits for a frame already: its walk made again raises no second event. -/
  quiet : Bool := false
  /-- An RMA access of a peer (R325). -/
  rma   : Bool := false
  /-- The address of the access, where a window has led it to another. -/
  at_   : Option Word := none

/-- The address of the access itself: what a refusal and a wait of it name. -/
def VAsk.accessVa (a : VAsk) : Word := a.at_.getD a.va

/-- The entry under which an access waits at its ETU. -/
def VAsk.wait (a : VAsk) (req : Option (BitVec 32)) : EtuWait := ⟨a.etu, a.p, a.accessVa, req, a.rma⟩

/-- Kind of an island event: 1 read, 2 write, 3 both (R332). -/
def VAsk.kind (a : VAsk) : Nat := (if a.read then 1 else 0) + (if a.write then 2 else 0)

/-- Does a cached leaf cover the address? -/
def Tlb.covers (e : Tlb) (asid : Half) (va : Word) : Bool :=
  e.asid == asid && e.vpn == va.toNat % 2 ^ 57 / 2 ^ (12 + 9 * e.level)

/-- Is a port's ETU present (17 R394, R399)? -/
def State.etuPresent (s : State) (e : Fin 56) : Bool :=
  if e.val < 24 then !s.boot.noStack.contains e.val else !s.boot.noNep.contains (e.val - 24)

/-- The port itself, then the two before it and the two behind it on the translation ring, which skips absent ETUs (R329,
17 R399). -/
def State.ringPorts (s : State) (e : Fin 56) : List (Fin 56) :=
  let back := ((List.range 55).map (fun k => Fin.ofNat 56 (e.val + 55 - k))).filter s.etuPresent
  let ahead := ((List.range 55).map (fun k => Fin.ofNat 56 (e.val + 1 + k))).filter s.etuPresent
  e :: (back.take 2 ++ ahead.take 2)

/-- The leaf that the port or one of its neighbours on the ring has cached (R329); a leaf with D = 0 is of no use to a write. -/
def State.cached (s : State) (a : VAsk) : Option Tlb :=
  let asid := (s.vdevs[a.v]).asid
  (s.ringPorts a.etu).findSome? (fun e =>
    ((s.etus[e]).tlb.find? (fun e => e.covers asid a.va && (!a.write || pteD e.pte))))

/-- A leaf entered into a port's cache. -/
def State.fill (s : State) (e : Fin 56) (x : Tlb) : State :=
  { s with etus := s.etus.set e { s.etus[e] with tlb := x :: (s.etus[e]).tlb.filter (fun y => y != x) } }

/-- Does the leaf give the rights, and does R321 allow the address (R327, R328)? -/
def State.leafOk (s : State) (a : VAsk) (level : Nat) (pte : Word) : Bool :=
  pteU pte && (!a.read || pteR pte) && (!a.write || pteW pte) && s.paAllowed a.p (leafPa level pte a.va)

/-- A leaf that a walk has met: refused, or A and D set and the leaf cached (R331). -/
def State.useLeaf (s : State) (a : VAsk) (level at_ : Nat) (pte : Word) : Xl :=
  if !s.leafOk a level pte then .refuse .virtualRefused a.accessVa s
  else
    let new := pte ||| 0x40#64 ||| (if a.write then 0x80#64 else 0#64)
    let s1 := if new = pte then s else (s.hwriteDw at_ new).charge a.v 7 64
    let x : Tlb := ⟨(s.vdevs[a.v]).asid, level, a.va.toNat % 2 ^ 57 / 2 ^ (12 + 9 * level), pte⟩
    .pa (leafPa level pte a.va) (s1.fill a.etu x)

/-- The access waits for the island: an event with a fresh request ID (R332). -/
def State.askIsland (s : State) (a : VAsk) : Xl :=
  let id := s.reqId
  let s1 := { s with reqId := s.reqId + 1#32, etuWaits := s.etuWaits ++ [a.wait (some id)] }
  .event id (s1.islandEvent a.p (s.vdevs[a.v]).asid a.etu.val 1 a.kind a.va id)

/-- The access waits for a frame: "pool empty" is raised once (R330). -/
def State.waitFrame (s : State) (a : VAsk) : State :=
  let s1 := { s with etuWaits := s.etuWaits ++ [a.wait none] }
  if a.quiet then s1 else s1.islandEvent a.p (s.vdevs[a.v]).asid a.etu.val 2 a.kind a.va 0#32

/-- First touch of a demand-zero entry (R330). Whether the compare-and-swap comes too late is a free choice (log 12): the ETU then keeps
the frame, and the access walks again. -/
def State.firstTouch (s : State) (a : VAsk) (at_ : Nat) : Xl :=
  let asid := (s.vdevs[a.v]).asid
  let install (pa : Nat) (s : State) : Xl :=
    let new := BitVec.ofNat 64 (pa / 4096 * 1024 + 0x100 + 0x57 + (if a.write then 0x80 else 0))
    let s1 := (s.hwriteDw at_ new).charge a.v 7 64
    if s1.leafOk a 0 new then
      .pa (leafPa 0 new a.va) (s1.fill a.etu ⟨asid, 0, a.va.toNat % 2 ^ 57 / 4096, new⟩)
    else .refuse .virtualRefused a.accessVa s1
  match tfind (s.parts[a.p]).kept a.etu.val with
  | some pa => install pa (s.modPart a.p (fun q => { q with kept := tdel q.kept a.etu.val }))
  | none =>
    match s.takeFrame a.p a.v a.etu.val a.kind a.va with
    | .got pa s1 =>
      let (late, s2) := s1.choose
      if late then .behind (s2.modPart a.p (fun q => { q with kept := tset q.kept a.etu.val pa })) else install pa s2
    | .poison at_ => .stop (hbmStop s at_) s
    | .dry => .empty (s.waitFrame a)

/-- One access waits no longer for the island, under its request ID. -/
def State.endEventWait (s : State) (id : BitVec 32) : State :=
  { s with etuWaits := s.etuWaits.eraseP (fun w => w.req == some id) }

/-- One access of a partition waits no longer for a frame, at one of the `n` addresses from `va` on; `etu` names the ETU of each. -/
def State.endFrameWait (s : State) (p : Fin 24) (rma : Bool) (etu : Word → Fin 56) (va : Word) (n : Nat) : State :=
  { s with etuWaits := s.etuWaits.eraseP (fun w => w.part == p && w.req.isNone && w.rma == rma && w.etu == etu w.va
      && decide (va.toNat ≤ w.va.toNat) && decide (w.va.toNat < va.toNat + n)) }

/-- Accesses that wait at an ETU for the island or for a frame (R332). -/
def State.etuHeld (s : State) (e : Fin 56) : Nat := (s.etuWaits.filter (fun w => w.etu == e)).length

/-- A walk of the tables (R327, R328); its reads are metered (R407). A miss waits behind 64 waiting accesses of its ETU (R332). -/
def State.walk (s : State) (a : VAsk) : Xl :=
  if !a.quiet && decide (64 ≤ s.etuHeld a.etu) then .behind s
  else
  let r := ptWalk s a.va 5 (s.vdevs[a.v]).ppn.toNat
  let s1 := s.charge a.v 6 (64 * r.2)
  match r.1 with
  | .leaf l at_ pte => s1.useLeaf a l at_ pte
  | .demand at_ => s1.firstTouch a at_
  | .invalid => s1.askIsland a
  | .poison at_ => .stop (hbmStop s1 at_) s1

/-- The translation of an access. Whether a cached leaf is still there is a free choice (log 12). -/
def State.translate (s : State) (a : VAsk) : Xl :=
  match s.cached a with
  | some e =>
    let (keep, s1) := s.choose
    if keep then
      (if s1.leafOk a e.level e.pte then .pa (leafPa e.level e.pte a.va) (s1.fill a.etu e)
        else .refuse .virtualRefused a.accessVa s1)
    else s1.walk a
  | none => s.walk a

/-! ## Windows at their homes (R341 to R344, R353, R354) -/

/-- The slot of a directory that holds a published version. -/
def VerDir.slotFor (d : VerDir) (v : Half) : Option (Fin 4) :=
  (List.finRange 4).find? (fun i => (d.slots[i]).st == 2 && (d.slots[i]).ver == v)

/-- The filling slot. -/
def VerDir.filling (d : VerDir) : Option (Fin 4) := (List.finRange 4).find? (fun i => (d.slots[i]).st == 1)

/-- The published slot with the highest SEQ: the latest published version. -/
def VerDir.latest (d : VerDir) : Option (Fin 4) :=
  (List.finRange 4).foldl (fun b i =>
    if (d.slots[i]).st != 2 then b
    else match b with
      | some j => if (d.slots[j]).seq < (d.slots[i]).seq then some i else b
      | none => some i) none

/-- What names a directory: its HOME and its window key (R353). -/
def VerDir.key (d : VerDir) : Nat := d.home * 2 ^ 32 + d.wkey.toNat
/-- The directory that a type 3 window names. -/
def WinEnt.key (e : WinEnt) : Nat := e.home * 2 ^ 32 + e.wkey.toNat

/-- The directory of a key. -/
def State.dir (s : State) (k : Nat) : Option VerDir := s.dirs.find? (fun d => d.key == k)

/-- A directory changed. -/
def State.modDir (s : State) (k : Nat) (f : VerDir → VerDir) : State :=
  { s with dirs := s.dirs.map (fun d => if d.key == k then f d else d) }

/-- Does `[base, base + len)` hold an address? -/
def holds (base len a : Nat) : Bool := decide (base ≤ a) && decide (a < base + len)

/-- Where a virtual address lies among the launch's windows. -/
inductive VWin
  | none
  | tagged (w : Nat) (e : WinEnt)
  | read (w : Nat) (e : WinEnt)
  | slot (w : Nat) (e : WinEnt) (i : Nat)

/-- The virtual window that holds an address. -/
def vwinOf (ws : List (Nat × WinEnt)) (va : Nat) : VWin :=
  match ws with
  | [] => .none
  | (w, e) :: r =>
    if e.type = 1 ∧ holds e.base.toNat e.len va = true then .tagged w e
    else if e.type = 3 ∧ holds e.base.toNat e.len va = true then .read w e
    else if e.type = 3 ∧ holds e.psb.toNat (4 * e.len) va = true then .slot w e ((va - e.psb.toNat) / e.len)
    else vwinOf r va

/-- The windows of the launch that holds a partition, numbered. -/
def State.pwins (s : State) (p : Fin 24) : List (Nat × WinEnt) :=
  match s.curLaunch p with
  | some l => (List.range l.wins.length).zip l.wins
  | none => []

/-- The version that a strand's read of an address uses: pinned, or the tile's current one (R354, R355). -/
def State.readVersion (s : State) (t : TileId) (vpin : BitVec 17) (va : Word) : Option Half :=
  match vwinOf (s.wins t) va.toNat with
  | .read w _ => some (if vpin.getLsbD 16 then vpin.truncate 16 else tget 0#16 (s.tile t).tcv w)
  | _ => none

/-- A virtual access as its home sees it. -/
structure HAcc where
  ask  : VAsk
  size : Nat
  /-- A write, an atomic, ACQ.lk or a REL: the write rows of R341 and R354. -/
  mod  : Bool
  tag  : Half
  ver  : Option Half
  /-- The launch's windows apply: not for the network, RMA and harts, which reach only the base (R339). -/
  wins : Bool
  /-- A plain LDV: the read buffer may serve it (R220). -/
  plain : Bool
  /-- The strand's last acquire point (R220). -/
  acqAt : Nat

/-- Beads that an ETU's directory may hold (R344). -/
def bead1Limit : Nat := 1048576

/-- The bead of a tagged virtual window. -/
def State.bead1 (s : State) (launch w gran : Nat) (tag : Half) : Option Bead1 :=
  s.beads1.find? (fun b => b.launch == launch && b.win == w && b.gran == gran && b.tag == tag)

/-- Free bead granules of a partition at an ETU. -/
def State.beadFree (s : State) (p : Fin 24) (h : Fin 56) : List Nat :=
  match s.pools1.find? (fun q => q.part == p && q.home == h) with
  | some q => q.free
  | none => []

/-- Free bead granules of a partition at an ETU replaced. -/
def State.setBeadFree (s : State) (p : Fin 24) (h : Fin 56) (f : List Nat) : State :=
  { s with pools1 := ⟨p, h, f⟩ :: s.pools1.filter (fun q => !(q.part == p && q.home == h)) }

/-- The granules of beads that have gone are free for beads of the partition that took their frames, at the same ETU (R344). -/
def State.freeBead1 (s : State) (gone : List Bead1) : State :=
  gone.foldl (fun s (b : Bead1) => s.setBeadFree b.part b.home (s.beadFree b.part b.home ++ [b.pa]))
    { s with beads1 := s.beads1.filter (fun b => !gone.contains b) }

/-- A bead made at its home: 64 base bytes in a freed bead granule, or in a frame of the ring (R341, R344). -/
def State.makeBead1 (s : State) (a : HAcc) (launch w : Nat) (home : Fin 56) (base : Nat) : Xl :=
  let g := a.ask.va.toNat / 64
  let b0 := base / 64 * 64
  let put (s : State) (pa : Nat) : Xl :=
    let s1 := ((s.hwrite pa (s.hread b0 64)).charge a.ask.v 6 64).charge a.ask.v 7 64
    .pa (pa + base % 64) { s1 with beads1 := s1.beads1 ++ [⟨launch, w, g, a.tag, pa, home, a.ask.p⟩] }
  if s.hbmPoison b0 64 false then .stop (hbmStop s b0) s
  else if bead1Limit ≤ (s.beads1.filter (fun b => b.home == home)).length then .refuse .virtualRefused a.ask.va s
  else
    match s.beadFree a.ask.p home with
    | g0 :: r => put (s.setBeadFree a.ask.p home r) g0
    | [] =>
      match s.takeFrame a.ask.p a.ask.v home.val a.ask.kind a.ask.va with
      | .got fr s1 => put (s1.setBeadFree a.ask.p home ((List.range 63).map (fun i => fr + 64 * (i + 1)))) fr
      | .poison at_ => .stop (hbmStop s at_) s
      | .dry => .empty (s.waitFrame { a.ask with etu := home })

/-- The port that serves the access: the window's home where it lies in one (R344, R354). -/
def State.portOf (s : State) (a : HAcc) : Fin 56 :=
  if !a.wins then a.ask.etu
  else match vwinOf (s.pwins a.ask.p) a.ask.va.toNat with
    | .none => a.ask.etu
    | .tagged _ e | .read _ e | .slot _ e _ => Fin.ofNat 56 e.home

/-- What the launch's windows refuse of an access: its cause and TVAL (R341, R347, R354). -/
def State.viewChk (s : State) (a : HAcc) : Option (Cause × Word) :=
  if !a.wins then none
  else match vwinOf (s.pwins a.ask.p) a.ask.va.toNat with
    | .none => none
    | .read _ e =>
      if a.mod then some (.virtualRefused, a.ask.va)
      else match a.ver with
        | none => some (.virtualRefused, a.ask.va)
        | some v => if ((s.dir e.key).bind (·.slotFor v)).isSome then none else some (.versionRefused, v.zeroExtend 64)
    | .slot _ e i =>
      if a.mod && !(e.wr && (s.dir e.key).bind (·.filling) == some (Fin.ofNat 4 i)) then some (.virtualRefused, a.ask.va) else none
    | .tagged _ e =>
      match s.curLaunch a.ask.p with
      | none => some (.virtualRefused, a.ask.va)
      | some l => if a.mod && (l.tag a.tag == .free || (s.parts[a.ask.p]).tagFreed (.etu (Fin.ofNat 56 e.home)) a.tag) then some (.virtualRefused, a.ask.va) else none

/-- The access that is translated: at its port, at the slot of its version in a read view, and with both rights where it makes a bead
(R327, R354). -/
def State.viewAsk (s : State) (a : HAcc) : VAsk :=
  let ask := { a.ask with etu := s.portOf a }
  if !a.wins then ask
  else match vwinOf (s.pwins a.ask.p) a.ask.va.toNat with
    | .read _ e =>
      match (s.dir e.key).bind (fun d => a.ver.bind d.slotFor) with
      | some i => { ask with va := e.psb + BitVec.ofNat 64 (i.val * e.len) + (a.ask.va - e.base), at_ := some a.ask.va }
      | none => ask
    | .tagged w _ =>
      match s.curLaunch a.ask.p with
      | none => ask
      | some l =>
        let make := a.mod && a.tag != 0#16 && (s.bead1 l.id w (a.ask.va.toNat / 64) a.tag).isNone
        { ask with read := ask.read || make, write := ask.write || make }
    | _ => ask

/-- The physical address of an access, its rights, its tag and its version checked; the base of a tagged window, where its bead comes
in later. An access that is tried again waits no longer. -/
def State.reach (s : State) (a : HAcc) : Xl :=
  let s0 := if a.ask.quiet then s.endFrameWait a.ask.p a.ask.rma (fun _ => s.portOf a) a.ask.va 1 else s
  match s0.viewChk a with
  | some (c, v) => .refuse c v s0
  | none => s0.translate (s0.viewAsk a)

/-- The leaf by which an access has just been translated. -/
def State.leafOf (s : State) (a : HAcc) : Option Tlb :=
  let ask := s.viewAsk a
  (s.etus[ask.etu]).tlb.find? (fun x => x.covers (s.vdevs[ask.v]).asid ask.va)

/-- Launch, window and HOME of an access to a tagged window under a tag other than 0. -/
def State.tagWin (s : State) (a : HAcc) : Option (Nat × Nat × Fin 56) :=
  if !a.wins || a.tag == 0#16 then none
  else match vwinOf (s.pwins a.ask.p) a.ask.va.toNat with
    | .tagged w e => (s.curLaunch a.ask.p).map (fun l => (l.id, w, Fin.ofNat 56 e.home))
    | _ => none

/-- Where the bytes of an access lie now: in the bead, or in the base (R341). -/
def State.resolve (s : State) (a : HAcc) (base : Nat) : Nat :=
  match s.tagWin a with
  | some (l, w, _) => match s.bead1 l w (a.ask.va.toNat / 64) a.tag with
    | some b => b.pa + base % 64
    | none => base
  | none => base

/-- Where a write goes: the bead that does not exist is made as part of it (R341, R342). -/
def State.bindBead (s : State) (a : HAcc) (base : Nat) : Xl :=
  match s.tagWin a with
  | some (l, w, h) => match s.bead1 l w (a.ask.va.toNat / 64) a.tag with
    | some b => .pa (b.pa + base % 64) s
    | none => s.makeBead1 a l w h base
  | none => .pa base s

/-- The physical address of an access that is performed in this step, its window resolved. -/
def State.locate (s : State) (a : HAcc) : Xl :=
  match s.reach a with
  | .pa base s1 => if a.mod then s1.bindBead a base else .pa (s1.resolve a base) s1
  | r => r

/-! ## The accesses themselves -/

/-- Bytes of an operation. -/
def ReqOp.size : ReqOp → Nat
  | .load n _ => n
  | .store bs => bs.length
  | .amo _ w _ => wBytes w
  | .cas w _ _ => wBytes w
  | .acq _ _ => 8
  | .rel _ _ => 8
  | .ctr _ => 8
  | .ctrWait _ _ => 8

/-- The read rows of R341 and the RD kind of R210: loads and the ACQ kinds that write nothing. -/
def ReqOp.mod : ReqOp → Bool
  | .load _ _ | .ctr _ | .ctrWait _ _ => false
  | .acq .rd _ | .acq .ge _ | .acq .eq _ => false
  | _ => true

/-- Needs R (R327). -/
def ReqOp.needsR : ReqOp → Bool
  | .store _ => false
  | .rel add _ => add
  | _ => true
/-- Needs W (R327). -/
def ReqOp.needsW : ReqOp → Bool := ReqOp.mod

/-- What an operation does to the bytes at its home: held, or bytes written, a value and flags (R219, R223, R237, R238). -/
inductive HomeRes
  | hold
  | done (new : Option (List Byte)) (v : Word) (f : FpFlags)

/-- An operation on the bytes that are there. -/
def ReqOp.act (op : ReqOp) (old : List Byte) : HomeRes :=
  let x := leNat old
  match op with
  | .load n sx => .done none (extOf sx (8 * n) (x : Int)) 0#5
  | .store bs => .done (some bs) 0#64 0#5
  | .amo fn w v =>
    let r := amoNew fn (wBits w) x (lowBits v (wBits w))
    .done (some (leBytes (wBytes w) r.1)) (BitVec.ofNat 64 x) r.2
  | .cas w e n =>
    .done (if x = lowBits e (wBits w) then some (leBytes (wBytes w) (lowBits n (wBits w))) else some old)
      (BitVec.ofNat 64 x) 0#5
  | .acq k v =>
    match k with
    | .rd => .done none (BitVec.ofNat 64 x) 0#5
    | .ge => if v.toNat ≤ x then .done none (BitVec.ofNat 64 x) 0#5 else .hold
    | .eq => if x = v.toNat then .done none (BitVec.ofNat 64 x) 0#5 else .hold
    | .lk => if x = 0 then .done (some (leBytes 8 v.toNat)) 0#64 0#5 else .hold
  | .ctr _ => .done none (BitVec.ofNat 64 x) 0#5
  | .ctrWait _ n => if n ≤ x % 2 ^ 56 then .done none (BitVec.ofNat 64 x) 0#5 else .hold
  | .rel add v => .done (some (leBytes 8 (if add then (x + v.toNat) % 2 ^ 64 else v.toNat))) 0#64 0#5

/-! ## The read buffer of a port (R220) -/

/-- The entry of a granule that may serve the strand: not too old, and not filled before its last acquire point. -/
def State.bufHit (s : State) (e : Fin 56) (gran acqAt : Nat) : Option RBufEnt :=
  (s.etus[e]).buf.find? (fun x => x.gran == gran && decide (s.now ≤ x.clk + readBufferAge) && decide (acqAt ≤ x.step))

/-- A granule entered into the buffer, as it stands at its home. -/
def State.bufFill (s : State) (e : Fin 56) (p : Fin 24) (gran : Nat) : State :=
  let x : RBufEnt := ⟨gran, s.hread (64 * gran) 64, s.now, s.steps, p⟩
  { s with etus := s.etus.set e { s.etus[e] with
      buf := x :: (s.etus[e]).buf.filter (fun y => y.gran != gran) } }

/-- Bytes `ofs ..` of a granule replaced. -/
def patch (g : List Byte) (ofs : Nat) (bs : List Byte) : List Byte :=
  g.take ofs ++ bs ++ g.drop (ofs + bs.length)

/-- A write through the port updates the entry of its granule. -/
def State.bufWrite (s : State) (e : Fin 56) (pa : Nat) (bs : List Byte) : State :=
  { s with etus := s.etus.set e { s.etus[e] with
      buf := (s.etus[e]).buf.map (fun x => if x.gran = pa / 64 then { x with bytes := patch x.bytes (pa % 64) bs } else x) } }

/-- Bytes read at a stack, metered (R407). -/
def State.stackRead (s : State) (v : Fin 64) (pa n : Nat) : List Byte × State :=
  (s.hread pa n, s.charge v 6 (64 * granules pa n))

/-- Bytes written at a stack through a port, metered (R220, R407). -/
def State.stackWrite (s : State) (v : Fin 64) (e : Fin 56) (pa : Nat) (bs : List Byte) : State :=
  ((s.hwrite pa bs).bufWrite e pa bs).charge v 7 (64 * granules pa bs.length)

/-- The bytes that a virtual access finds at its home; a plain LDV may be served from the buffer (log 12). A read that is not refreshes
the entry, so that no later read through the port returns an older write (09 R243). -/
def State.homeBytes (s : State) (a : HAcc) (e : Fin 56) (pa : Nat) : List Byte × State :=
  let (bs, s0) := s.stackRead a.ask.v pa a.size
  let direct := a.wins && (match vwinOf (s.pwins a.ask.p) a.ask.va.toNat with | .none => false | .slot .. => false | _ => true)
  match (if a.plain && !direct then s.bufHit e (pa / 64) a.acqAt else none) with
  | some x =>
    let (use, s1) := s.choose
    if use then ((x.bytes.drop (pa % 64)).take a.size, s1)
    else (bs, { s0.bufFill e a.ask.p (pa / 64) with free := s1.free })
  | none => (bs, s0.bufFill e a.ask.p (pa / 64))

end Machine
end Sys2Proof
end

