-- ==== Sys2Proof/Machine/Remote.lean ====
section
/-! DEFINITION. Remote accesses of strands: their checks (08 R206, R221), their waits (08 R214 to R217), and the requests that
leave the tile (08 R218 to R223, R237, R238; 14 R352). What becomes of a request is in Plane.lean. -/

namespace Sys2Proof
namespace Machine

/-! ## Bays -/

/-- Bay of a tile (R314). -/
def bayOf (t : TileId) : Nat := 8 * (rowOf t / 60) + colOf t / 32

/-- The memory edge port of a bay; that of its neighbour where its stack is absent (R326, 17 R399). -/
def State.mepOfBay (s : State) (b : Nat) : Fin 56 :=
  if s.boot.noStack.contains b then Fin.ofNat 56 (Nat.xor b 1) else Fin.ofNat 56 b

/-- The memory edge port of a tile's bay. -/
def State.mepOf (s : State) (t : TileId) : Fin 56 := s.mepOfBay (bayOf t)

/-- 64-byte granules that an access touches (R217). -/
def granList (virt : Bool) (g : Word) (n : Nat) : List (Bool × Nat) :=
  if n = 0 then [] else (List.range (granules g.toNat n)).map (fun i => (virt, g.toNat / 64 + i))

/-- The granules of an access, by one name for each: CHIP 0xFFF and the wafer's own number name the same tiles (R205). -/
def State.grans (s : State) (virt : Bool) (g : Word) (n : Nat) : List (Bool × Nat) :=
  granList virt (if !virt && s.ownChip (gChip g) then g ||| 0xFFF0000000000000#64 else g) n

/-- The class of an access (R214). -/
def State.classOf (s : State) (virt : Bool) (g : Word) : Cls :=
  if virt then .edge else if s.ownChip (gChip g) then .tile else .net

/-- Does the launch at a tile route this channel adaptively (R208, R296)? -/
def State.adaptive (s : State) (t : TileId) (vc : VcSel) : Bool :=
  match s.launchAt t with
  | none => false
  | some l => match vc with
    | .vc0 => l.fp.vca.getLsbD 0
    | .vc5 => false
    | .vc6 => l.fp.vca.getLsbD 6
    | .vc7 => l.fp.vca.getLsbD 7

/-- Does an access touch the region of a binding entry (R235)? -/
def Binding.touches (b : Binding) (virt : Bool) (g : Word) (n : Nat) : Bool :=
  b.rlen != 0 && n != 0 && b.rv == virt &&
  (if virt then overlap g.toNat (g.toNat + n - 1) b.rbase.toNat (b.rbase.toNat + b.rlen - 1)
    else gChip g == gChip b.rbase && gRow g == gRow b.rbase && gCol g == gCol b.rbase && gSpc g == gSpc b.rbase
      && overlap (gOfs g) (gOfs g + n - 1) (gOfs b.rbase) (gOfs b.rbase + b.rlen - 1))

/-- The binding entries that an access counts in. -/
def Tile.bindsFor (x : Tile) (virt : Bool) (g : Word) (n : Nat) : List (Fin 8) :=
  (List.finRange 8).filter (fun k => (x.binds[k]).touches virt g n)

/-! ## Checks -/

/-- The checks 1 to 4 of R206. -/
def State.globalChk (s : State) (g : Word) (size : Nat) : Chk :=
  let spc := gSpc g
  let reach : Bool :=
    if s.ownChip (gChip g) then
      match s.partOf s.ct with
      | some p => (s.parts[p]).covers (gTile g) && !s.absent (gTile g)
      | none => false
    else match s.launchAt s.ct with
      | some l => l.hdr.peer
      | none => false
  if gRsv g ≠ 0 ∨ spc = 0 ∨ 5 ≤ spc then .trap .remoteRefused g
  else if !reach then .trap .remoteRefused g
  else if gOfs g % size ≠ 0 then .trap .misaligned (spcTval spc (gOfs g))
  else if spcSize ((spcOf spc).getD .ctl) < gOfs g + size then .trap .remoteRefused g
  else .ok

/-- The virtual device whose address space a partition has, if any (R323). -/
def State.spaceOf (s : State) (p : Fin 24) : Option (Fin 64) :=
  match s.holder p with
  | some v => if (s.vdevs[v]).sv57 then some v else none
  | none => none

/-- The checks of R221. -/
def State.virtualChk (s : State) (g : Word) (size : Nat) : Chk :=
  if !vaCanon g then .trap .virtualRefused g
  else if ((s.partOf s.ct).bind s.spaceOf).isNone then .trap .virtualRefused g
  else if g.toNat % size ≠ 0 then .trap .virtualRefused g
  else .ok

/-- The posted-access limit (R216). -/
def State.limitChk (s : State) (n : Nat := 1) : Chk :=
  if postedLimit < (s.my.posted.filter (·.lim)).length + n then .wait { kind := .limit, tval := 0x0201 } else .ok

/-- The posted accesses of a tile that R217 orders, in the order of their issue. -/
def Tile.ordered (x : Tile) : List Posted := x.frozen ++ x.posted

/-- A replying access waits for an earlier posted write of the tile to the same granule (R217). -/
def State.ownWriteChk (s : State) (virt : Bool) (g : Word) (n : Nat) : Chk :=
  let gs := s.grans virt g n
  if s.my.ordered.any (fun q => q.gran.any (fun x => gs.contains x)) then .wait { kind := .sameGranule, tval := 0x0203 } else .ok

/-! ## Requests -/

/-- A remote access of a strand, before it leaves. -/
structure RAcc where
  virt : Bool
  addr : Word
  op   : ReqOp
  vc   : VcSel
  wc   : WCls
  post : Bool
  rel  : Bool
  col  : Fin 8
  acq  : Bool
  d    : Reg
  tag  : Half

/-- The request that leaves the tile. -/
def State.request (s : State) (a : RAcc) (id : Nat) : Req :=
  { id := id, tile := s.ct, slot := s.ck, uid := s.me.uid, op := a.op, virt := a.virt, addr := a.addr, tag := a.tag,
    ver := if a.virt then s.readVersion s.ct s.me.vpin a.addr else none
    vc := a.vc, post := a.post, acq := a.acq, d := a.d, drain := none, phase := .out }

/-- The record of a posted access in the sender's counters (R214, R235). -/
def State.postedRec (s : State) (a : RAcc) (id : Nat) : Posted :=
  { id := id, col := a.col, cls := s.classOf a.virt a.addr, slot := s.ck, uid := s.me.uid, lim := true
    gran := s.grans a.virt a.addr a.op.size
    adapt := !a.virt && s.ownChip (gChip a.addr) && s.adaptive s.ct a.vc
    lane := if !a.virt && s.ownChip (gChip a.addr) && !s.adaptive s.ct a.vc then some (gTile a.addr, a.vc) else none
    binds := s.my.bindsFor a.virt a.addr a.op.size }

/-- Is the strand waiting for the answer of a request that it has sent? -/
def State.asked (s : State) : Bool :=
  match s.me.wait with
  | some w => w.req.isSome && (w.kind == .reply || w.kind == .gate || w.kind == .counter)
  | none => false

/-- The kind and TVAL of the wait for a reply (R241). -/
def ReqOp.waitSpec (op : ReqOp) : WaitSpec :=
  match op with
  | .acq _ _ => { kind := .gate, tval := 0x0303 }
  | .ctrWait c _ => { kind := .counter, tval := 0x0700 + c }
  | .ctr c => { kind := .reply, tval := 0x0700 + c }
  | _ => { kind := .reply, tval := 0x0200 }

/-- The strand goes on waiting for the answer of its request. -/
def State.stillAsked (s : State) (op : ReqOp) : State := s.block op.waitSpec

/-- A posted access leaves: counted, and its instruction retires. -/
def State.post (s : State) (a : RAcc) : State :=
  let id := s.fresh
  let q := s.postedRec a id
  let r := s.request a id
  let s1 := { s with plane := s.plane ++ [r], fresh := s.fresh + 1 }
  (s1.modMy (fun x => { x with posted := x.posted ++ [q] })).retire

/-- A replying access leaves, and the strand waits for its answer. -/
def State.ask (s : State) (a : RAcc) : State :=
  let id := s.fresh
  let r := s.request a id
  ({ s with plane := s.plane ++ [r], fresh := s.fresh + 1 }).block { a.op.waitSpec with req := some id }

/-- The address checks of an access. -/
def State.addrChk (s : State) (a : RAcc) : Chk :=
  if a.virt then s.virtualChk a.addr a.op.size else s.globalChk a.addr a.op.size

/-- A remote access: its checks in order, its waits, then the request (R206, R215 to R217, R221). -/
def remoteOp (s : State) (a : RAcc) : Out State :=
  if s.asked then .next (s.stillAsked a.op)
  else plain s (firstOf [fun _ => s.addrChk a, fun _ => s.wChk a.wc, fun _ => s.relChk a.rel,
      fun _ => if a.post then s.limitChk else s.ownWriteChk a.virt a.addr a.op.size])
    (fun s => if a.post then s.post a else s.ask a)

/-- The load of LDG and LDV. -/
def loadAcc (s : State) (m : RLoad) (virt : Bool) : RAcc :=
  { virt := virt, addr := s.reg m.a + s.src m.b, op := .load (wBytes m.w) m.sx, vc := m.vc, wc := m.wc, post := false
    rel := false, col := 0, acq := m.acq, d := m.d, tag := s.me.ctx }

/-- The store of STG and STV. -/
def storeAcc (s : State) (m : RStore) (virt : Bool) : RAcc :=
  { virt := virt, addr := s.reg m.a + s.src m.b, op := .store (leBytes (wBytes m.w) (lowBits (s.reg m.d) (wBits m.w)))
    vc := m.vc, wc := m.wc, post := true, rel := m.rel, col := m.col, acq := false, d := 0, tag := s.me.ctx }

/-- The atomic of AMOG and AMOV; `ar` is `.acq`, or `.rel` with `.p`. -/
def atomicAcc (s : State) (m : RAmo) (virt : Bool) : RAcc :=
  { virt := virt, addr := s.reg m.a + s.src m.b, op := .amo m.fn m.w (s.reg m.c), vc := m.vc, wc := m.wc, post := m.post
    rel := m.post && m.ar, col := m.col, acq := !m.post && m.ar, d := m.d, tag := s.me.ctx }

/-- The compare-and-swap of CASG and CASV. -/
def casAcc (s : State) (m : RCas) (virt : Bool) : RAcc :=
  { virt := virt, addr := s.reg m.a + s.src m.b, op := .cas m.w (s.reg m.d) (s.reg m.c), vc := m.vc, wc := m.wc
    post := false, rel := false, col := 0, acq := m.acq, d := m.d, tag := s.me.ctx }

/-- LDG (R219). -/
def execLdg (m : RLoad) (s : State) : Out State := remoteOp s (loadAcc s m false)
/-- LDV (R219). -/
def execLdv (m : RLoad) (s : State) : Out State := remoteOp s (loadAcc s m true)
/-- STG (R219). -/
def execStg (m : RStore) (s : State) : Out State := remoteOp s (storeAcc s m false)
/-- STV (R219). -/
def execStv (m : RStore) (s : State) : Out State := remoteOp s (storeAcc s m true)
/-- AMOG (R223). -/
def execAmog (m : RAmo) (s : State) : Out State := remoteOp s (atomicAcc s m false)
/-- AMOV (R223). -/
def execAmov (m : RAmo) (s : State) : Out State := remoteOp s (atomicAcc s m true)
/-- CASG (R223). -/
def execCasg (m : RCas) (s : State) : Out State := remoteOp s (casAcc s m false)
/-- CASV (R223). -/
def execCasv (m : RCas) (s : State) : Out State := remoteOp s (casAcc s m true)

/-- The local access of LDX and STX, with the tag of register c (R352). -/
def State.xacc (s : State) (act : Bool) (a : Reg) (b : Src) (c : Reg) (size : Nat) (write : Bool) : LAcc :=
  { s.lacc (amoSpace act) a b size write with tag := (s.reg c).truncate 16 }

/-- LDX (R352): LD, LDG or LDV with the tag of register c. -/
def execLdx (m : XLoad) (s : State) : Out State :=
  let loc (act : Bool) : Out State :=
    let a := s.xacc act m.a m.b m.c (wBytes m.w) false
    localOp s m.wc a (fun s => s.setReg m.d (extOf m.sx (wBits m.w) (s.lval a : Int)))
  let rem (virt : Bool) : Out State :=
    remoteOp s { loadAcc s ⟨m.d, m.a, m.b, m.w, m.acq, m.sx, m.vc, m.wc⟩ virt with tag := (s.reg m.c).truncate 16 }
  match m.ak with
  | .data => loc false
  | .act => loc true
  | .glob => rem false
  | .virt => rem true

/-- STX (R352): ST, STG or STV with the tag of register c. -/
def execStx (m : XStore) (s : State) : Out State :=
  let loc (act : Bool) : Out State :=
    let a := s.xacc act m.a m.b m.c (wBytes m.w) true
    localOp s m.wc a (fun s => s.lput a (lowBits (s.reg m.d) (wBits m.w)))
  let rem (virt : Bool) : Out State :=
    remoteOp s { storeAcc s ⟨m.d, m.a, m.b, m.w, m.rel, m.vc, m.col, m.wc⟩ virt with tag := (s.reg m.c).truncate 16 }
  match m.ak with
  | .data => loc false
  | .act => loc true
  | .glob => rem false
  | .virt => rem true

/-! ## Gates (R236 to R238) -/

/-- ACQ (R237): the scope says whether it is an acquire point for the read buffers (09 R248). -/
def execAcq (m : AcqArgs) (s : State) : Out State :=
  remoteOp s { virt := m.v, addr := s.reg m.a + s.src m.b, op := .acq m.kind (s.reg m.c), vc := .vc0, wc := m.wc, post := false
               rel := false, col := 0, acq := m.sc != .tile, d := m.d, tag := s.me.ctx }

/-- The waits of REL (R238): CNT of the entries bound to the gate, and at system scope the three classes. -/
def State.gateChk (s : State) (g : Word) (v sys : Bool) : Chk :=
  let bound := (List.finRange 8).filter (fun k => (s.my.binds[k]).rlen != 0 && (s.my.binds[k]).gate == g && (s.my.binds[k]).gv == v)
  s.waitPosted (fun q => sys || q.binds.any (fun k => bound.contains k)) 0x0304

/-- REL (R238): the checks of a store, to its last wait; then the counters of the gate. -/
def execRel (m : RelArgs) (s : State) : Out State :=
  let a : RAcc := { virt := m.v, addr := s.reg m.a + s.src m.b, op := .rel m.add (s.reg m.c), vc := .vc0, wc := m.wc
                    post := true, rel := false, col := m.col, acq := false, d := 0, tag := s.me.ctx }
  plain s (firstOf [fun _ => s.addrChk a, fun _ => s.wChk a.wc, fun _ => s.limitChk,
    fun _ => s.gateChk a.addr m.v (m.sc == .sys)]) (fun s => s.post a)

/-- BIND (R236): it waits until CNT of the entry is 0. -/
def execBind (m : BindArgs) (s : State) : Out State :=
  simple s (if s.my.cnt m.k = 0 then .ok else .wait { kind := .bind, tval := 0x0305 })
    (fun s =>
      let b : Binding := { gate := s.reg m.a, rbase := s.reg m.b, rlen := field (s.reg m.c) 0 40, gv := m.gv, rv := m.rv }
      s.modMy (fun x => { x with binds := x.binds.set m.k b }))

end Machine
end Sys2Proof
end

