-- ==== Sys2Proof/Machine/Order.lean ====
section
/-! DEFINITION. FENCE, WAITC and WAIT (08 R239, R240), and the blanks (08 R227 to R233). -/

namespace Sys2Proof
namespace Machine

/-- FENCE (R239): colours. -/
def execFence (m : BitVec 8) (wc : WCls) (s : State) : Out State :=
  simple s (firstOf [fun _ => s.wChk wc, fun _ => s.waitPosted (fun q => m.getLsbD q.col.val) 0x0300]) id

/-- Bit of a class in the mask of WAITC (R239). -/
def Cls.bit : Cls → Nat
  | .tile => 0 | .edge => 1 | .net => 2

/-- WAITC (R239): classes. -/
def execWaitc (m : BitVec 3) (wc : WCls) (s : State) : Out State :=
  simple s (firstOf [fun _ => s.wChk wc, fun _ => s.waitPosted (fun q => m.getLsbD q.cls.bit) 0x0301]) id

/-- The condition of WAIT on a word (R240). -/
def waitHolds (c : WaitCond) (x v : Nat) : Bool :=
  match c with
  | .eq => x == v
  | .ne => x != v
  | .geu => decide (v ≤ x)
  | .ltu => decide (x < v)
  | .any => Nat.land x v != 0

/-- Is the strand already waiting on its word? -/
def State.inWord (s : State) : Bool :=
  match s.me.wait with
  | some w => w.kind == .word
  | none => false

/-- The checks of WAIT: at issue those of a load; later a read guard only defers the evaluation (R226, R240). -/
def State.waitChk (s : State) (a : LAcc) : Chk :=
  match s.localChk a with
  | .trap .rangeLock v => if s.inWord then .wait { kind := .word, tval := 0x0302 } else .trap .rangeLock v
  | c => c

/-- WAIT (R240). -/
def execWait (m : WaitArgs) (s : State) : Out State :=
  let a := s.lacc m.sp m.a m.b (wBytes m.w) false
  simple s (firstOf [fun _ => s.wChk m.wc, fun _ => s.waitChk a,
    fun _ => if waitHolds m.cond (s.lval a) (lowBits (s.reg m.c) (wBits m.w)) then .ok
      else .wait { kind := .word, tval := 0x0302 }])
    (fun s => s.setReg m.d (BitVec.ofNat 64 (s.lval a)))

/-! ## Blanks -/

/-- The number that a blank operand names (R229). -/
def State.blankNo (s : State) (b : BlankRef) : Nat :=
  match b with
  | .reg r => (s.reg r).toNat
  | .imm n => n.val

/-- A blank instruction: the number's check, then those of the state (R228, R229). -/
def blankOp (s : State) (b : BlankRef) (c : Blank → Fin 64 → Chk) (eff : Blank → State → Blank) : Out State :=
  let n := s.blankNo b
  let i : Fin 64 := Fin.ofNat 64 n
  simple s (if 64 ≤ n then .trap .blankState (BitVec.ofNat 64 n) else c (s.my.blanks[i]) i)
    (fun s => s.modMy (fun x => { x with blanks := x.blanks.set i (eff (x.blanks[i]) s) }))

/-- *Blank state* of a blank. -/
def blankTrap (i : Fin 64) : Chk := .trap .blankState (BitVec.ofNat 64 i.val)

/-- The space of a blank's code. -/
def blankSpc : BlankSpc → Spc
  | .wgt => .wgt | .act => .act | .acc => .acc

/-- BDEF (R230). BASE holds 19 bits (R227): an empty range at the end of a space is stored as one at its start. -/
def execBdef (a b : Reg) (spc : BlankSpc) (n : Fin 64) (s : State) : Out State :=
  let sp := blankSpc spc
  let base := (s.reg a).toNat
  let len := (s.reg b).toNat
  let old := s.my.blanks[n]
  simple s
    (if old.st ≠ .empty ∨ old.hold ≠ 0 then blankTrap n
      else if base % 64 ≠ 0 ∨ len % 64 ≠ 0 then .trap .misaligned (BitVec.ofNat 64 (spcCode sp * 2 ^ 61) ||| s.reg a)
      else if spcSize sp < base + len then .trap .localBounds (spcTval (spcCode sp) base)
      else .ok)
    (fun s =>
      let new : Blank := { spc := spcCode sp, base := base % 2 ^ 19, len := len, dfn := len != 0 }
      s.modMy (fun x => { x with blanks := x.blanks.set n new }))

/-- BSET.ready (R228, R231). -/
def execBsetReady (b : BlankRef) (s : State) : Out State :=
  blankOp s b
    (fun e i => if !e.dfn then blankTrap i
      else if e.st = .empty ∨ (e.st = .filling ∧ e.hold = 6) then .ok else blankTrap i)
    (fun e _ => { e with st := .ready, hold := 0, err := false })

/-- BSET.fill (R228, R231). -/
def execBsetFill (b : BlankRef) (c : Reg) (s : State) : Out State :=
  blankOp s b
    (fun e i => if e.dfn && e.st == .empty then .ok else blankTrap i)
    (fun e s => { e with st := .filling, hold := 6, tok := (s.reg c).truncate 16, err := false })

/-- BWAIT (R232). -/
def execBwait (b : BlankRef) (emp : Bool) (s : State) : Out State :=
  blankOp s b
    (fun e i =>
      if e.err && !emp then blankTrap i
      else if e.st = (if emp then .empty else .ready) then .ok
      else .wait { kind := .blank i, tval := 0x0B00 + i.val })
    (fun e _ => e)

/-- BREL (R233). -/
def execBrel (b : BlankRef) (s : State) : Out State :=
  blankOp s b (fun e i => if e.st = .ready then .ok else blankTrap i) (fun e _ => { e with st := .empty })

end Machine
end Sys2Proof
end

