-- ==== Sys2Proof/Machine/Plane.lean ====
section
/-! DEFINITION. What becomes of a request on the memory plane: the remote agent (08 R207, R210), the edge port (13 R326), the
answers (08 R211, R214, R219), gates held at their homes (08 R237), shootdowns (13 R333) and the island's responses (13 R332). A
step that is not enabled leaves the state as it is (log 10). -/

namespace Sys2Proof
namespace Machine

/-! ## Requests in flight -/

/-- A request by its number. -/
def State.req (s : State) (m : Nat) : Option Req := s.plane.find? (fun r => r.id == m)

/-- A request changed. -/
def State.modReq (s : State) (m : Nat) (f : Req → Req) : State :=
  { s with plane := s.plane.map (fun r => if r.id == m then f r else r) }

/-- A request that has come to its end. -/
def State.dropReq (s : State) (m : Nat) : State := { s with plane := s.plane.filter (fun r => r.id != m) }

/-- A step about a request: enabled where the request exists and `ok` holds, else nothing happens. -/
def onReq (s : State) (m : Nat) (ok : Req → Bool) (eff : Req → State → State) : Out State :=
  match s.req m with
  | some r => .next (if ok r then eff r s else s)
  | none => .next s

/-- Has the request been answered at its home? -/
def Req.answered (r : Req) : Bool :=
  match r.phase with
  | .done .. => true
  | .refused .. => true
  | _ => false

/-- Has the posted access with this number been performed or refused at its home? -/
def State.performed (s : State) (id : Nat) : Bool :=
  match s.req id with
  | some r => r.answered
  | none => false

/-- Does the earlier posted access `q` hold back the posted access `me` of its tile: unperformed, to a granule of it or in the same lane;
or unacknowledged on an adaptive channel, to a granule of it (R217)? -/
def State.holdsBack (s : State) (q me : Posted) : Bool :=
  decide (q.id < me.id) &&
  ((q.gran.any (fun g => me.gran.contains g) && (q.adapt || !s.performed q.id))
    || (me.lane.isSome && q.lane == me.lane && !s.performed q.id))

/-- May a posted access of a tile leave now (R217)? -/
def State.mayLeave (s : State) (t : TileId) (id : Nat) : Bool :=
  match (s.tile t).ordered.find? (fun q => q.id == id) with
  | some me => !((s.tile t).ordered.any (fun q => s.holdsBack q me))
  | none => true

/-- May the request leave its tile and reach its home now? A form that waits for its reply has waited already (R217). -/
def State.mayArrive (s : State) (r : Req) : Bool := !r.post || r.from_.isSome || s.mayLeave r.tile r.id

/-- A refusal at the home. -/
def State.refuseReq (s : State) (m : Nat) (c : Cause) (tval : Word) : State :=
  s.modReq m (fun r => { r with phase := .refused c tval })

/-! ## The remote agent (R207, R210) -/

/-- The kinds of R210. -/
inductive AKind | rd | wr | at_
  deriving DecidableEq, Repr

/-- Kind of an operation. -/
def ReqOp.akind : ReqOp → AKind
  | .load .. => .rd
  | .store .. => .wr
  | .amo .. | .cas .. => .at_
  | .acq k _ => if k = .lk then .at_ else .rd
  | .rel add _ => if add then .at_ else .wr
  | .ctr _ | .ctrWait _ _ => .rd

/-- Does a window register accept an access of this wafer (R209, R210)? -/
def WinReg.accepts (w : WinReg) (k : AKind) (spc ofs n row col : Nat) : Bool :=
  w.w0.getLsbD 63 && field w.w0 56 3 == spc && decide (1 ≤ spc) && decide (spc ≤ 4)
  && decide (field w.w0 32 20 ≤ ofs) && decide (ofs + n ≤ field w.w0 0 20)
  && w.w1.getLsbD (match k with | .rd => 0 | .wr => 1 | .at_ => 2)
  && decide (field w.w1 56 8 ≤ row) && decide (row ≤ field w.w1 48 8)
  && decide (field w.w1 40 8 ≤ col) && decide (col ≤ field w.w1 32 8)

/-- Does some window of a tile accept the access? -/
def Tile.accepts (x : Tile) (k : AKind) (spc ofs n row col : Nat) : Bool :=
  x.windows.toList.any (fun w => w.accepts k spc ofs n row col)

/-- Does a window register admit the wafer `chip` (R209, R210)? -/
def WinReg.admits (w : WinReg) (chip : Nat) : Bool := w.w2.getLsbD 12 && field w.w2 0 12 == chip

/-- Does some window of a tile accept the access of a requester of the wafer `chip` (R210)? -/
def Tile.acceptsFrom (x : Tile) (chip : Nat) (k : AKind) (spc ofs n row col : Nat) : Bool :=
  x.windows.toList.any (fun w => w.admits chip && w.accepts k spc ofs n row col)

/-- Does the agent of the target tile accept a request (R207, R210)? -/
def State.agentAccepts (s : State) (r : Req) : Bool :=
  let x := s.tile (gTile r.addr)
  match r.from_ with
  | none => (gTile r.addr == r.tile && r.drain.isNone)
      || x.accepts r.op.akind (gSpc r.addr) (gOfs r.addr) r.op.size (rowOf r.tile) (colOf r.tile)
  | some chip => x.acceptsFrom chip r.op.akind (gSpc r.addr) (gOfs r.addr) r.op.size (rowOf r.tile) (colOf r.tile)

/-- Where the remote agent's service of a request leads. -/
inductive Served
  | refuse (c : Cause) (tval : Word)
  | lock                              -- a range lock guards the bytes
  | poison (t : TileId) (sp : Spc) (o : Nat)
  | hold                              -- a gate request whose condition does not hold
  | done (s : State) (v : Word) (f : FpFlags)

/-- The access at the tile, its checks passed: tag, pool, lock, poison, then the operation (R207, R341, R343, R347, R401). -/
def State.atTile (s : State) (r : Req) : Served :=
  let t := gTile r.addr
  let sp := (spcOf (gSpc r.addr)).getD .data
  let o := gOfs r.addr
  let n := r.op.size
  let g := r.addr
  if s.inPool t sp o n then .refuse .remoteRefused g
  else if r.op.mod && (s.win2 t sp o).isSome && !s.tagLive t r.tag then .refuse .remoteRefused g
  else if (s.tile t).guarded sp o n r.op.mod then .lock
  else
    let p := s.place t sp o r.tag
    if s.poisonHit t sp p n (r.op.mod && !r.op.needsR) then .poison t sp p
    else match r.op.act (s.lread t sp o n r.tag) with
      | .hold => .hold
      | .done none v f => .done s v f
      | .done (some bs) v f =>
        match s.needsBead t sp o r.tag with
        | some (w, e) =>
          if ((s.tile t).poolFree w e.plv.toNat).length ≤ (s.tile t).poolReserved w then .refuse .remoteRefused g
          else if s.poisonHit t sp (o / 64 * 64) 64 false then .poison t sp (o / 64 * 64)
          else .done (s.lwrite t sp o bs r.tag) v f
        | none => .done (s.lwrite t sp o bs r.tag) v f

/-- Gate requests held at a tile, or at a stack. That the home whose 16 requests R237 counts is, for virtual gates, the controller of the HBM
stack, and not an edge port, is the model's choice (log 68). -/
def State.gatesAt (s : State) (r : Req) (pa : Nat) : Nat :=
  (s.plane.filter (fun q => match q.phase with
    | .gate h => (match q.op with | .ctrWait _ _ => false | _ => true) && q.virt == r.virt && (if r.virt then paStack h == paStack pa else gTile q.addr == gTile r.addr)
    | _ => false)).length

/-- A gate request that its home holds, or returns when it holds 16 already (R237); `leaf` has translated a virtual one. -/
def State.holdGate (s : State) (r : Req) (pa : Nat) (leaf : Option Tlb := none) : State :=
  let ctr := match r.op with | .ctrWait _ _ => true | _ => false
  if ctr || decide (s.gatesAt r pa < gateLimit) then s.modReq r.id (fun q => { q with phase := .gate pa, leaf := leaf })
  else s.modReq r.id (fun q => { q with phase := .resend (s.now + 32) })

/-- What the service of a request does to the state. -/
def State.serve (s : State) (r : Req) : State :=
  match s.atTile r with
  | .refuse c v => s.refuseReq r.id c v
  | .lock => s.modReq r.id (fun q => { q with phase := .locked })
  | .poison t sp o => s.stopAt t (s.poisonCause t sp o r.op.size)
  | .hold => s.holdGate r 0
  | .done s1 v f => s1.modReq r.id (fun q => { q with phase := .done v f })

/-- Is another request waiting at the same agent before a lock (R207)? -/
def State.agentHeld (s : State) (r : Req) : Bool :=
  s.plane.any (fun q => q.id != r.id && q.phase == .locked && gTile q.addr == gTile r.addr)

/-- A request that the network engine carries to another wafer (R212): a free choice is whether it is delivered and served there, and
the bytes that it finds there are a free value (log 20). A gate request whose condition does not hold there goes on waiting. -/
def State.carry (s : State) (r : Req) : State :=
  let (served, s1) := (s.chargeT r.tile 10 (match r.op with | .store bs => bs.length | _ => 0)).choose
  if served then
    match r.op.act (leBytes r.op.size (Config.peerWord s1.free).toNat) with
    | .done _ v f => { s1 with free := s1.free + 1 }.modReq r.id (fun q => { q with phase := .done v f })
    | .hold => { s1 with free := s1.free + 1 }
  else s1.refuseReq r.id .remoteRefused r.addr

/-- REMOTE_REQUEST (R207, R212): a request reaches its tile's agent, or is served once the lock before it has ended; one to another
wafer is carried there. One that has waited for a lock is checked against the windows again, as they then are (log 49). -/
def execRemoteRequest (m : Nat) (s : State) : Out State :=
  onReq s m (fun r => !r.virt && (r.phase == .locked || (r.phase == .out && s.mayArrive r && !s.agentHeld r)))
    (fun r s =>
      if !s.ownChip (gChip r.addr) then s.carry r
      else if s.agentAccepts r then s.serve r
      else s.refuseReq m .remoteRefused r.addr)

/-! ## The edge port (R326) -/

/-- The access of a virtual request as its home sees it. -/
def State.virtAcc (s : State) (r : Req) : Option HAcc :=
  match s.partOf r.tile with
  | none => none
  | some p => match s.spaceOf p with
    | none => none
    | some v => some {
        ask := { p := p, v := v, etu := s.mepOf r.tile, va := r.addr, read := r.op.needsR, write := r.op.needsW
                 quiet := r.phase == .frame }
        size := r.op.size, mod := r.op.mod, tag := r.tag, ver := r.ver, wins := true
        plain := !r.op.mod && !r.acq && r.op.akind == .rd && (match r.op with | .load .. => true | _ => false)
        acqAt := (s.strand r.tile r.slot).acqAt }

/-- The wait of a request, if it waits at its ETU, ends with the request. -/
def State.endReqWait (s : State) (r : Req) : State :=
  match r.phase, s.virtAcc r with
  | .event id, _ => s.endEventWait id
  | .frame, some a => s.endFrameWait a.ask.p false (fun _ => s.portOf a) r.addr 1
  | _, _ => s

/-- A request that its strand withdraws, with its wait at an ETU. -/
def State.withdraw (s : State) (m : Option Nat) : State :=
  match m.bind s.req with
  | some r => (s.endReqWait r).dropReq r.id
  | none => s

/-- The operation of a virtual request at its home; `base` is the physical address that its translation gave. A bead that it needs is
made only where it writes. -/
def State.atHome (s : State) (r : Req) (a : HAcc) (base : Nat) : State :=
  let pa := s.resolve a base
  if s.hbmPoison pa a.size (a.mod && !r.op.needsR) then s.stopPart a.ask.p (hbmStop s pa)
  else
    let e := s.portOf a
    let (old, s1) := if a.mod then s.stackRead a.ask.v pa a.size else s.homeBytes a e pa
    match r.op.act old with
    | .hold => s1.holdGate r base (s.leafOf a)
    | .done none v f => s1.modReq r.id (fun q => { q with phase := .done v f })
    | .done (some bs) v f =>
      match (if r.op.needsR then s1 else s).bindBead a base with
      | .pa pa s2 => (s2.stackWrite a.ask.v e pa bs).modReq r.id (fun q => { q with phase := .done v f })
      | .refuse c tval s2 => s2.refuseReq r.id c tval
      | .empty s2 => s2.modReq r.id (fun q => { q with phase := .frame })
      | .stop c s2 => s2.stopPart a.ask.p c
      | .event _ s2 | .behind s2 => s2

/-- VIRTUAL_ACCESS (R326): a virtual request is translated at its port and performed at its home. -/
def execVirtualAccess (m : Nat) (s : State) : Out State :=
  onReq s m (fun r => r.virt && (r.phase == .again || r.phase == .frame || (r.phase == .out && s.mayArrive r)))
    (fun r s =>
      match s.virtAcc r with
      | none => s.refuseReq m .virtualRefused r.addr
      | some a =>
        match s.reach a with
        | .pa pa s1 =>
          if s.heldPa pa then s else s1.atHome r a pa
        | .refuse c v s1 => s1.refuseReq m c v
        | .event id s1 => s1.modReq m (fun q => { q with phase := .event id })
        | .empty s1 => s1.modReq m (fun q => { q with phase := .frame })
        | .behind s1 => s1
        | .stop c s1 => s1.stopPart a.ask.p c)

/-- GATE_REQUEST_RESEND (R237): 32 clks after its return. -/
def execGateRequestResend (m : Nat) (s : State) : Out State :=
  onReq s m (fun r => match r.phase with | .resend due => decide (due ≤ s.now) | _ => false)
    (fun r s => s.modReq r.id (fun q => { q with phase := .out }))

/-! ## Gates and WAITs after a write (R237, R240) -/

/-- A held gate request evaluated again: it is refused where its window no longer grants it, as a load or store would be (14 R354), and
performed where its condition holds. -/
def State.evalGate (s : State) (r : Req) : Option State :=
  match r.phase with
  | .gate pa =>
    if r.virt then
      match s.virtAcc r with
      | some a => match s.viewChk a, r.op.act (s.hread (s.resolve a pa) 8) with
        | some (c, v), _ => some (s.refuseReq r.id c v)
        | none, .hold => none
        | none, .done _ _ _ => some (s.atHome r a pa)
      | none => none
    else match s.atTile r with
      | .done s1 v f => some (s1.modReq r.id (fun q => { q with phase := .done v f }))
      | .refuse c v => some (s.refuseReq r.id c v)
      | _ => none
  | _ => none

/-- Held gates evaluated, until none is satisfied. Of several that one write satisfies, the one that was issued first goes first: the model's
choice (log 68). -/
def State.evalGates : Nat → State → State
  | 0, s => s
  | n + 1, s =>
    match s.plane.findSome? (fun r => s.evalGate r) with
    | some s1 => s1.evalGates n
    | none => s

/-- A strand that waits on a word and whose condition now holds retires its WAIT (R240). -/
def State.evalWait (s : State) (t : TileId) (k : Fin 4) : State :=
  let z := s.strand t k
  match z.wait, z.line with
  | some w, some l =>
    if w.kind == .word && z.live && z.pend.isNone && z.held.isNone && !(s.tile t).halted then
      match decodeSlot (lineSlot l.bits (field z.pc 0 3)) with
      | some (.wait m) =>
        let s1 := { s with cur := (t, k) }
        let a := s1.lacc m.sp m.a m.b (wBytes m.w) false
        match s1.localChk a with
        | .ok =>
          if waitHolds m.cond (s1.lval a) (lowBits (s1.reg m.c) (wBits m.w)) then
            match execWait m s1 with
            | .next s2 => { s2 with cur := s.cur }
            | _ => s
          else s
        | _ => s
      | _ => s
    else s
  | _, _ => s

/-- Every strand that waits on a word. -/
def State.evalWaits (s : State) : State :=
  (s.tiles.filter (fun tx => tx.2.strands.toList.any (fun z => match z.wait with | some w => w.kind == .word | none => false))).foldl
    (fun s tx => (List.finRange 4).foldl (fun s k => s.evalWait tx.1 k) s) s

/-- The evaluations that follow a step: gates at their homes, then waits on words. -/
def State.settle (s : State) : State := (s.evalGates s.plane.length).evalWaits

/-! ## Answers (R211, R214, R219) -/

/-- Does the strand that sent a request still wait for its answer? -/
def State.awaits (s : State) (r : Req) : Bool :=
  let z := s.strand r.tile r.slot
  z.live && z.uid == r.uid && (match z.wait with | some w => w.req == some r.id | none => false)

/-- The answer to a request of another wafer goes back to it (R212). -/
def State.answerPeer (s : State) (r : Req) (chip : Nat) : State :=
  match r.phase with
  | .done v _ => (s.dropReq r.id).tell (.peer chip r.id true v)
  | .refused _ v => (s.dropReq r.id).tell (.peer chip r.id false v)
  | _ => s

/-- REMOTE_REPLY (R219): the result is written, and the instruction retires; a late reply is discarded (R224). -/
def execRemoteReply (m : Nat) (s : State) : Out State :=
  onReq s m (fun r => !r.post && (match r.phase with | .done .. => true | _ => false))
    (fun r s =>
      match r.from_, r.phase with
      | some chip, _ => s.answerPeer r chip
      | none, .done v f =>
        let s1 := s.dropReq m
        if s.awaits r then
          (s1.modStrand r.tile r.slot (fun z => { z with
            regs := z.regs.set r.d v
            sw := swOr z.sw f
            acqAt := if r.acq then s.steps else z.acqAt })).retireAt r.tile r.slot
        else s1
      | none, _ => s)

/-- The record of a posted access leaves the counters of its tile (R214, R235). -/
def State.unpost (s : State) (t : TileId) (id : Nat) : State :=
  s.modTile t (fun x => { x with posted := x.posted.filter (fun q => q.id != id), frozen := x.frozen.filter (fun q => q.id != id) })

/-- The last store of a refused remote drain has been acknowledged or refused: the drain's reserved completion entry is released
(R174). -/
def State.endDrain (s : State) (t : TileId) (drain : Option Nat) : State :=
  match drain with
  | none => s
  | some c =>
    if s.plane.any (fun r => r.tile == t && r.drain == some c) then s
    else
      let x := s.tile t
      match x.mat.run.find? (fun q => q.cmd.id == c && q.failed && !q.freed) with
      | none => s
      | some q => s.setTile t { x with
          resv := if q.cmd.tok.n then x.resv.set 0 (x.resv[(0 : Fin 4)] - 1) else x.resv
          mat := { x.mat with run := x.mat.run.map (fun r => if r.cmd.id = c then { r with freed := true } else r) } }

/-- REMOTE_ACK (R214): the access leaves its counters. -/
def execRemoteAck (m : Nat) (s : State) : Out State :=
  onReq s m (fun r => r.post && (match r.phase with | .done .. => true | _ => false))
    (fun r s => match r.from_ with
      | some chip => s.answerPeer r chip
      | none => ((s.dropReq m).unpost r.tile m).endDrain r.tile r.drain)

/-- The refusal of a store of a remote drain: the first one that returns is delivered (R174, log 63). -/
def State.drainRefused (s : State) (r : Req) (c : Nat) (tval : Word) : State :=
  let x := s.tile r.tile
  if x.mat.run.any (fun q => q.cmd.id == c && !q.failed) then
    (s.setTile r.tile { x with mat := { x.mat with
      run := x.mat.run.map (fun q => if q.cmd.id = c then { q with failed := true } else q) } }).lateTrap
        r.tile r.slot r.uid .remoteRefused tval
  else s

/-- REMOTE_REFUSAL (R211): precise for a form that waits; for a posted form the counters are left, and the strand traps at its
next boundary, or the refusal is recorded. A refusal whose strand waits for it no longer is not delivered, and so is recorded too
(log 66). -/
def execRemoteRefusal (m : Nat) (s : State) : Out State :=
  onReq s m (fun r => match r.phase with | .refused .. => true | _ => false)
    (fun r s =>
      match r.from_, r.phase with
      | some chip, _ => s.answerPeer r chip
      | none, .refused c v =>
        let s1 := s.dropReq m
        if r.post then
          let s2 := s1.unpost r.tile m
          match r.drain with
          | some cmd => (s2.drainRefused r cmd v).endDrain r.tile r.drain
          | none => s2.lateTrap r.tile r.slot r.uid c v
        else if s.awaits r then
          if s.drainingAt r.tile then
            (s1.modStrand r.tile r.slot (fun z => { z with wait := none })).recordRefusal r.tile v r.virt
          else s1.takeTrapAt r.tile r.slot ⟨c, (s1.strand r.tile r.slot).pc, v⟩
        else s1.recordRefusal r.tile v r.virt
      | none, _ => s)

/-! ## The island's side (R330, R332, R333) -/

/-- A mailbox changed. -/
def State.modBox (s : State) (e : Fin 56) (f : Mailbox → Mailbox) : State :=
  { s with etus := s.etus.set e { s.etus[e] with box := f (s.etus[e]).box } }

/-- SHOOTDOWN_GO (R333): writing GO = 1; discarded while GO reads 1. -/
def execShootdownGo (e : Fin 56) (s : State) : Out State := .next (s.modBox e (fun b => { b with go := true }))

/-- Does the range of a shootdown meet the bytes `lo` to `hi` of an address space (R333)? -/
def Mailbox.meets (b : Mailbox) (asid : Half) (lo hi : Nat) : Bool :=
  let va := b.va.toNat % 2 ^ 57
  (b.allAsid || asid == b.asid) &&
  (b.allVa || (if b.size = 0#64 then overlap lo hi (va / 4096 * 4096) (va / 4096 * 4096 + 4095)
    else overlap lo hi va (va + b.size.toNat - 1)))

/-- Does a cached leaf overlap the range of a shootdown? -/
def Mailbox.hits (b : Mailbox) (x : Tlb) : Bool :=
  let size := 2 ^ (12 + 9 * x.level)
  b.meets x.asid (x.vpn * size) (x.vpn * size + size - 1)

/-- A gate request held at its home under a leaf that the shootdown discards is translated again (R333, log 57). -/
def Req.shoot (r : Req) (b : Mailbox) : Req :=
  match r.phase, r.leaf with
  | .gate _, some x => if b.hits x then { r with phase := .again } else r
  | _, _ => r

/-- An ETU after a shootdown: no cached leaf of the range, and no buffered granule of a page that such a leaf gave. -/
def Etu.shoot (u : Etu) (b : Mailbox) (gone : List Tlb) : Etu :=
  { u with
    tlb := u.tlb.filter (fun x => !b.hits x)
    buf := u.buf.filter (fun g => !gone.any (fun x =>
      let base := (ptePpn x.pte / 2 ^ (9 * x.level)) * 2 ^ (12 + 9 * x.level)
      decide (base ≤ 64 * g.gran) && decide (64 * g.gran < base + 2 ^ (12 + 9 * x.level)))) }

/-- SHOOTDOWN_COMPLETE (R333): it acts on all 56 ETUs, and GO reads 0. -/
def execShootdownComplete (e : Fin 56) (s : State) : Out State :=
  let b := (s.etus[e]).box
  if b.go then
    let gone := (s.etus.toList.map (fun u => u.tlb)).flatten.filter (fun x => b.hits x)
    let s1 := { s with etus := s.etus.map (fun u => Etu.shoot u b gone), plane := s.plane.map (fun (r : Req) => r.shoot b) }
    .next (s1.modBox e (fun b => { b with go := false }))
  else .next s

/-- READ_BUFFER_ENTRY_AGE_OUT (R220): an entry of 14,000 clks of age is discarded. -/
def execReadBufferEntryAgeOut (e : Fin 56) (gran : Nat) (s : State) : Out State :=
  .next { s with etus := s.etus.set e { s.etus[e] with
    buf := (s.etus[e]).buf.filter (fun x => !(x.gran == gran && decide (x.clk + readBufferAge ≤ s.now))) } }

end Machine
end Sys2Proof
end

