-- ==== Sys2Proof/Machine/Route.lean ====
section
/-! DEFINITION. The route tables of the mesh (17 R395 to R397, 20 R425): the path of a packet, row first, round dead routers, and on the torus
of VC5. -/

namespace Sys2Proof
namespace Machine

/-- One hop of a packet: the router it reaches, its buffer class and dateline class, and whether it takes a wrap lane. -/
structure Hop where
  row    : Nat
  col    : Nat
  bypass : Bool
  wrap   : Bool
  line   : Fin 2
  deriving DecidableEq, Repr, Inhabited

/-- A rectangle of routers. -/
structure Area where
  row0 : Nat
  col0 : Nat
  rows : Nat
  cols : Nat
  deriving DecidableEq, Repr, Inhabited

/-- The whole wafer. -/
def wholeWafer : Area := ⟨0, 0, numRows, numCols⟩

/-- A partition's rectangle. -/
def Part.area (q : Part) : Area := ⟨q.row0, q.col0, q.height, q.width⟩

/-- Does a packet at `cur` go up towards `dst` in a dimension of `n` places from `lo` on: the shorter way round on a torus, the way that
does not wrap on a tie (R397)? -/
def goesUp (torus : Bool) (n cur dst : Nat) : Bool :=
  let d := (dst + n - cur) % n
  if !torus || 2 * d = n then decide (cur < dst) else decide (2 * d < n)

/-- The next place in a dimension, and whether the hop to it wraps. -/
def nextPlace (torus : Bool) (lo n cur dst : Nat) : Nat × Bool :=
  if goesUp torus n cur dst then (if cur + 1 < lo + n then (cur + 1, false) else (lo, true))
  else if lo < cur then (cur - 1, false) else (lo + n - 1, true)

/-- The place behind `mid` for a packet that comes from `cur`. -/
def beyond (cur mid : Nat) : Nat := if cur < mid then mid + 1 else mid - 1

/-- The path of a packet from router `(r, c)` to `(dr, dc)`: `n` bounds its hops, `line` is its dateline class, and `turned` says that
it moves along its column, where it starts in class 0 again. The hops round a dead router are those of R396; for a packet that moves
west or north they are mirrored along its way (log 61). -/
def RouteTable.path (x : RouteTable) (a : Area) (dr dc : Nat) : Nat → Nat → Nat → Fin 2 → Bool → List Hop
  | 0, _, _, _, _ => []
  | n + 1, r, c, line, turned =>
    let dead (r c : Nat) : Bool := x.dead.contains (tileAt r c)
    if c ≠ dc then
      let m := nextPlace x.torus a.col0 a.cols c dc
      let by_ (r c : Nat) : Hop := ⟨r, c, true, false, line⟩
      if !dead r m.1 then
        let l : Fin 2 := if m.2 then 1 else line
        ⟨r, m.1, false, m.2, l⟩ :: x.path a dr dc n r m.1 l false
      else if m.1 ≠ dc then
        let e := beyond c m.1
        [by_ (r + 1) c, by_ (r + 1) m.1, by_ (r + 1) e, by_ r e] ++ x.path a dr dc n r e line false
      else
        let q := if r < dr then r + 1 else r - 1
        [by_ q c, by_ q m.1] ++ x.path a dr dc n q m.1 line false
    else if r ≠ dr then
      let m := nextPlace x.torus a.row0 a.rows r dr
      let now : Fin 2 := if turned then line else 0
      if !dead m.1 c then
        let l : Fin 2 := if m.2 then 1 else now
        ⟨m.1, c, false, m.2, l⟩ :: x.path a dr dc n m.1 c l true
      else
        let e := beyond r m.1
        let by_ (r c : Nat) : Hop := ⟨r, c, true, false, now⟩
        [by_ r (c + 1), by_ m.1 (c + 1), by_ e (c + 1), by_ e c] ++ x.path a dr dc n e c now true
    else []

/-- The path of a packet between two routers of a rectangle. -/
def RouteTable.route (x : RouteTable) (a : Area) (src dst : TileId) : List Hop :=
  x.path a (rowOf dst) (colOf dst) (a.rows + a.cols) (rowOf src) (colOf src) 0 false

/-- The table of a VC of a plane as every router holds it. -/
def Boot.routeTable (x : Boot) (memory : Bool) (vc : Fin 8) : RouteTable := x.routes.getD (8 * b2n memory + vc.val) {}

/-- The tables that phase 3 writes for both planes (R395): VC5 of the memory plane is a torus (R397, 08 R208). -/
def routeTables (dead : List TileId) : List RouteTable :=
  (List.range 16).map (fun k => { torus := k == 13, dead := dead })

/-- The tile whose router an edge port attaches to: MEP `k` is port `k`, NEP `j` is port `24 + j` (20 R425). -/
def portTile (e : Fin 56) : TileId :=
  let side (r n : Nat) (c : Nat) : TileId := tileAt (r + 15 * n) c
  let k := e.val
  if k < 24 then
    if k < 8 then tileAt 0 (32 * k + 16)
    else if k < 12 then side 67 (k - 8) 0
    else if k < 16 then side 67 (k - 12) 255
    else tileAt 179 (32 * (k - 16) + 16)
  else
    let j := k - 24
    if j < 8 then tileAt 0 (32 * j + 28)
    else if j < 12 then side 7 (j - 8) 0
    else if j < 16 then side 127 (j - 12) 0
    else if j < 20 then side 7 (j - 16) 255
    else if j < 24 then side 127 (j - 20) 255
    else tileAt 179 (32 * (j - 24) + 28)

/-- The path from a tile to an edge port, on the mesh of the whole wafer; its length is the hop count of R213 and R269 (R425). -/
def State.portRoute (s : State) (memory : Bool) (vc : Fin 8) (t : TileId) (e : Fin 56) : List Hop :=
  ({ s.boot.routeTable memory vc with torus := false }).route wholeWafer t (portTile e)

/-- The path of a message of a partition between two of its tiles on a VC that is dimension-ordered. -/
def State.route (s : State) (p : Fin 24) (memory : Bool) (vc : Fin 8) (src dst : TileId) : List Hop :=
  (s.boot.routeTable memory vc).route (s.parts[p]).area src dst

end Machine
end Sys2Proof
end

