-- ==== Sys2Proof/Machine/Tasks.lean ====
section
/-! DEFINITION. Trigger slots, the ready queue and task messages (07 R177 to R202): the seven task instructions, and the steps of
messages between tiles and of the launch unit's stage queues. A step that is not enabled leaves the state as it is (log 10). -/

namespace Sys2Proof
namespace Machine

/-! ## Trigger slots, inbox, ready queue -/

/-- COUNT of a trigger slot (R177). -/
def Trigger.count (g : Trigger) : Nat := field g.w0 16 16
/-- RELOAD. -/
def Trigger.reload (g : Trigger) : Nat := field g.w0 32 16
/-- ENTRY. -/
def Trigger.entry (g : Trigger) : Nat := field g.w0 0 16
/-- DROPS. -/
def Trigger.drops (g : Trigger) : Nat := field g.w1 48 16
/-- STL. -/
def Trigger.stl (g : Trigger) : Bool := g.w1.getLsbD 0

/-- What an arrival brings (R179). -/
structure Arrival where
  slot : Fin 16
  arg  : Word
  pay  : List Word
  s2   : Word
  ctx  : Half
  wid  : Word

/-- DATA offset of an inbox entry (R181). -/
def inboxOfs (e : Fin 16) : Nat := 0xF000 + 256 * e.val

/-- A free inbox entry; the lowest (log 21). -/
def Tile.freeInbox (x : Tile) : Option (Fin 16) := (List.finRange 16).find? (fun e => !x.inbox[e])

/-- An inbox entry allocated or freed. -/
def Tile.setInbox (x : Tile) (e : Option (Fin 16)) (b : Bool) : Tile :=
  match e with
  | some i => { x with inbox := x.inbox.set i b }
  | none => x

/-- Doublewords written into an inbox entry. -/
def Tile.putPayload (x : Tile) (e : Option (Fin 16)) (pay : List Word) : Tile :=
  match e with
  | some i =>
    let bs := (pay.map (fun w => leBytes 8 w.toNat)).flatten
    (x.putBytes .data (inboxOfs i) bs).unpoison .data (inboxOfs i) bs.length
  | none => x

/-- Entries of the regular area of the ready queue (R182). -/
def Tile.regular (x : Tile) : Nat := (x.ready.filter (fun r => !r.ret)).length

/-- An arrival applied to a trigger slot (R179); none is NACK(retry). `now` orders the ready queue. -/
def Tile.arrive (x : Tile) (a : Arrival) (now : Nat) : Option Tile :=
  let g := x.trigs[a.slot]
  let final := g.count == 1
  if g.count = 0 then none
  else if final && decide (16 ≤ x.regular) then none
  else if final && !a.pay.isEmpty && x.freeInbox.isNone then none
  else if !final then
    let w0 := setField g.w0 16 16 (BitVec.ofNat 64 (g.count - 1))
    let w1 := if a.pay.isEmpty then g.w1 else setField g.w1 48 16 (BitVec.ofNat 64 (min (g.drops + 1) 0xFFFF))
    some { x with trigs := x.trigs.set a.slot ⟨w0, w1⟩ }
  else
    let e := if a.pay.isEmpty then none else x.freeInbox
    let x1 := (x.putPayload e a.pay).setInbox e true
    let r : Ready := {
      stamp := now, ret := false, slot := a.slot.val, pc := BitVec.ofNat 64 g.entry, arg := a.arg, inbox := e, len := a.pay.length
      s2 := a.s2, ctx := a.ctx, wid := a.wid, stl := g.stl, resume := none }
    let g1 : Trigger := ⟨setField g.w0 16 16 (BitVec.ofNat 64 g.reload), g.w1⟩
    some { x1 with trigs := x1.trigs.set a.slot g1, ready := x1.ready ++ [r] }

/-- Is a ready task ahead of another: enqueued earlier, or in the same clk from the return area, or from a lower slot (R182)? -/
def Ready.before (a b : Ready) : Bool :=
  decide (a.stamp < b.stamp) || (a.stamp == b.stamp && ((a.ret && !b.ret) || (a.ret == b.ret && decide (a.slot < b.slot))))

/-- The place of the task that starts next. -/
def firstReady (l : List Ready) : Nat :=
  ((List.range l.length).foldl (fun b i =>
    match l[i]?, l[b]? with
    | some x, some y => if x.before y then i else b
    | _, _ => b) 0)

/-- A strand slot as a task start loads it (R16), or as a moved strand resumes in it (R192); `acq` is the tile's acquire point. -/
def startStrand (r : Ready) (dsw : BitVec 14) (uid acq : Nat) : Strand :=
  match r.resume with
  | some q =>
    let regs := match q.res with | some (d, v) => q.regs.set d v | none => q.regs
    { live := true, regs := regs, pc := q.pc, sw := q.sw, ctx := q.ctx, vpin := q.vpin, wid := q.wid, uid := uid
      acqAt := max q.acqAt acq }
  | none =>
    let s1 : Word := match r.inbox with | some e => BitVec.ofNat 64 (inboxOfs e) | none => 0#64
    let regs : Vector Word 16 := (Vector.replicate 16 0#64)
    { live := true, regs := (((regs.set 0 r.arg).set 1 s1).set 2 r.s2).set 15 r.wid
      pc := r.pc, sw := swStart dsw, ctx := r.ctx, wid := r.wid, inbox := r.inbox, uid := uid, acqAt := acq }

/-- A free strand slot; the lowest (log 21). -/
def Tile.freeSlot (x : Tile) : Option (Fin 4) := (List.finRange 4).find? (fun k => !(x.strand k).live)

/-- TASK_START (R16, R17, R182): none starts after the slice-end signal (R362), on a halted tile, or in a clk in which a steal request
has taken an entry, as the slot would have taken first (R198). -/
def execTaskStart (t : TileId) (s : State) : Out State :=
  let x := s.tile t
  match s.launchAt t, x.freeSlot with
  | some l, some k =>
    if (l.st == .running || l.st == .stopping) && x.sliceEnd.isNone && !x.halted && x.stolenAt != some s.now then
      let i := firstReady x.ready
      match x.ready[i]? with
      | none => .next s
      | some r =>
        let x1 := { x with ready := x.ready.eraseIdx i, credits := if r.ret then x.credits + 1 else x.credits }
        .next (s.setTile t (x1.setStrand k (startStrand r l.hdr.dsw s.fresh x.acqAt))).bump
    else .next s
  | _, _ => .next s

/-! ## Freeing a strand -/

/-- The slot of a strand and its inbox entry freed; in handler mode the handler run ends, and the next pending trap enters the
handler (R194). -/
def Tile.freeStrand (x : Tile) (k : Fin 4) : Tile :=
  let z := x.strand k
  let x1 := (x.setInbox z.inbox false).setStrand k {}
  if swMode z.sw then x1.nextPending k else x1

/-! ## Destinations and payloads (R189) -/

/-- The coordinates that a tile's own messages carry in s2. -/
def ownCoords (t : TileId) : Word := BitVec.ofNat 64 (rowOf t * 256 + colOf t)

/-- The check of a destination named by coordinates. -/
def State.destChk (s : State) (v : Word) (pr : Bool) (slot : Nat) : Chk :=
  let rc := s.namedTile v pr
  let t := tileAt rc.1 rc.2
  let ok := match s.partOf s.ct with
    | some p => (s.parts[p]).covers t && !s.absent t
    | none => false
  if ok then .ok else .trap .remoteRefused (gaddr rc.1 rc.2 5 (0x800 + 16 * slot))

/-- The destination tile. -/
def State.destTile (s : State) (v : Word) (pr : Bool) : TileId :=
  let rc := s.namedTile v pr
  tileAt rc.1 rc.2

/-- The check of a payload of `n` doublewords at DATA offset `c`. -/
def State.payChk (s : State) (c : Word) (n : Nat) : Chk := if n = 0 then .ok else s.recChk c (8 * n) 8

/-- The payload. -/
def State.payload (s : State) (c : Word) (n : Nat) : List Word :=
  let bs := s.recBytes c.toNat (8 * n) s.me.ctx
  (List.range n).map (fun i => dwOf bs i)

/-! ## Messages -/

/-- A message by its number. -/
def State.msg (s : State) (m : Nat) : Option TMsg := s.msgs.find? (fun q => q.id == m)
/-- A message changed. -/
def State.modMsg (s : State) (m : Nat) (f : TMsg → TMsg) : State :=
  { s with msgs := s.msgs.map (fun q => if q.id == m then f q else q) }
/-- A message that has come to its end. -/
def State.dropMsg (s : State) (m : Nat) : State := { s with msgs := s.msgs.filter (fun q => q.id != m) }

/-- A step about a message: enabled where the message exists and `ok` holds, else nothing happens. -/
def onMsg (s : State) (m : Nat) (ok : TMsg → Bool) (eff : TMsg → State → State) : Out State :=
  match s.msg m with
  | some q => .next (if ok q then eff q s else s)
  | none => .next s

/-- Messages of strands that a tile's interface holds (R184). -/
def State.iface (s : State) (t : TileId) : Nat :=
  (s.msgs.filter (fun q => q.src == .tile t && (match q.kind with
    | .send | .spawn | .migr | .bounce => true
    | _ => false))).length

/-- A message of the issuing strand. -/
def State.newMsg (s : State) (kind : MsgKind) (dst : TileId) : TMsg :=
  { id := s.fresh, src := .tile s.ct, dst := dst, kind := kind, slot := 0, stq := none, srow := rowOf s.ct, scol := colOf s.ct
    ctx := s.me.ctx, arg := 0#64, wid := s.me.wid, img := s.my.img, stl := false, pc := 0#64, pay := [], mig := none
    post := none, resv := none, back := none, dreg := 0, nacks := 0, sent := false, phase := .out }

/-- A message handed to the interface. -/
def State.sendMsg (s : State) (m : TMsg) : State := { s with msgs := s.msgs ++ [m], fresh := s.fresh + 1 }

/-- The posted record of a message (R184, R214). -/
def State.msgPosted (s : State) (col : Fin 8) : Posted :=
  { id := s.fresh, col := col, cls := .tile, slot := s.ck, uid := s.me.uid, lim := false, gran := [], adapt := false, binds := [] }

/-! ## SEND and SPAWN -/

/-- Queues that the faceplate of the launch at a tile declares. -/
def State.queueCount (s : State) (t : TileId) : Nat := ((s.launchAt t).map (fun l => l.fp.queues.length)).getD 0

/-- Tile (0, 0) of the partition of a tile, at whose router the launch unit has its port (R426). -/
def State.unitTile (s : State) (t : TileId) : TileId :=
  match s.partOf t with
  | some p => tileAt (s.parts[p]).row0 (s.parts[p]).col0
  | none => t

/-- SEND (R190). -/
def execSend (m : SendArgs) (s : State) : Out State :=
  let q := field (s.reg m.a) 0 8
  simple s (firstOf [
      fun _ => s.payChk (s.reg m.c) m.n.val,
      fun _ => if m.stg then need (decide (q < s.queueCount s.ct)) .remoteRefused (s.reg m.a)
        else s.destChk (s.reg m.a) m.pr m.slot.val,
      fun _ => s.wChk m.wc,
      fun _ => if s.iface s.ct < interfaceLimit then .ok else .wait { kind := .iface, tval := 0x0100 }])
    (fun s =>
      let dst := if m.stg then s.unitTile s.ct else s.destTile (s.reg m.a) m.pr
      let msg : TMsg := { s.newMsg .send dst with
        slot := m.slot, stq := if m.stg then some (Fin.ofNat 16 q) else none, arg := s.reg m.b
        pay := s.payload (s.reg m.c) m.n.val, post := some s.fresh }
      let rec_ := s.msgPosted m.col
      (s.modMy (fun x => { x with posted := x.posted ++ [rec_] })).sendMsg msg)

/-- SPAWN (R191). -/
def execSpawn (m : SpawnArgs) (s : State) : Out State :=
  simple s (firstOf [
      fun _ => s.payChk (s.reg m.c) m.n.val,
      fun _ => s.destChk (s.reg m.a) m.pr 0,
      fun _ => s.wChk m.wc])
    (fun s =>
      let x := s.my
      let e := if m.n.val = 0 then none else x.freeInbox
      if x.credits = 0 ∨ interfaceLimit ≤ s.iface s.ct ∨ (m.n.val ≠ 0 ∧ e = none) then s.setReg m.d 0#64
      else
        let msg : TMsg := { s.newMsg .spawn (s.destTile (s.reg m.a) m.pr) with
          arg := s.reg m.b, stl := m.stl, pc := m.target.zeroExtend 64, pay := s.payload (s.reg m.c) m.n.val
          post := some s.fresh, resv := e }
        let rec_ := s.msgPosted m.col
        ((s.modMy (fun x => { x.setInbox e true with posted := x.posted ++ [rec_], credits := x.credits - 1 })).sendMsg
          msg).setReg m.d 1#64)

/-! ## MIGR, ENDT, ARM, TRIG, STEAL -/

/-- The command of a queue entry. -/
def QEntry.cmd? : QEntry → Option Cmd
  | .cmd c => some c
  | .raw _ => none

/-- The commands that a queue holds. -/
def Tile.queued (x : Tile) (q : Fin 4) : List Cmd := (x.cmdq[q]).filterMap (·.cmd?)

/-- Commands of a tile in flight, with those still queued. -/
def Tile.cmds (x : Tile) : List Cmd :=
  x.cmdq.toList.flatten.filterMap (·.cmd?)
  ++ x.mat.run.map (·.cmd) ++ x.vec.toList ++ x.copies.map (·.cmd) ++ x.contribs.map (·.cmd)

/-- Network operations of a tile in flight. -/
def State.netCmds (s : State) (t : TileId) : List Cmd :=
  match s.partOf t with
  | some p => ((s.parts[p]).netBusy.filter (fun o => o.tile == t)).map (·.cmd)
  | none => []

/-- Has a tile a posted receive buffer, or a message that fills one, of a strand that `sel` selects: an NRECV that has not completed
(R282)? -/
def State.netPosted (s : State) (t : TileId) (sel : Nat → Bool) : Bool :=
  match s.partOf t with
  | some p =>
    (s.parts[p]).recvq.toList.flatten.any (fun b => b.tile == t && sel b.uid)
    || (s.parts[p]).inMsgs.any (fun m => match m.buf with
      | some b => b.tile == t && sel b.uid && (m.st == .going || m.st == .ending)
      | none => false)
  | none => false

/-- Has the issuing strand engine operations in flight (R192)? -/
def State.ownOps (s : State) : Bool :=
  (s.my.cmds ++ s.netCmds s.ct).any (fun c => c.uid == s.me.uid) || s.netPosted s.ct (· == s.me.uid)

/-- Is the command a remote drain (R173)? -/
def Cmd.isDrain (c : Cmd) : Bool :=
  match c.ins with
  | .mdrainRem _ => true
  | _ => false

/-- Is a store of the remote drain with this number neither acknowledged nor refused (R174)? -/
def State.storesOpen (s : State) (t : TileId) (id : Nat) : Bool := s.plane.any (fun r => r.tile == t && r.drain == some id)

/-- Has the strand a remote drain with a store that is neither acknowledged nor refused (R174): one that waits in q0, or one
whose stores are on their way? -/
def State.drainsOpen (s : State) (t : TileId) (uid : Nat) : Bool :=
  let x := s.tile t
  x.cmdq.toList.flatten.any (fun e => match e with
    | .cmd c => c.uid == uid && c.isDrain
    | .raw _ => false)
  || x.mat.run.any (fun r => r.cmd.uid == uid && s.storesOpen t r.cmd.id)

/-- Does the strand hold a command queue (R122)? -/
def State.holdsQueue (s : State) : Bool := s.my.hold.toList.any (fun h => h == some s.ck)

/-- MIGR (R192). -/
def execMigr (d a : Reg) (s : State) : Out State :=
  let g := s.reg a
  let dst := gTile g
  let ok := match s.partOf s.ct with
    | some p => (s.parts[p]).covers dst && !s.absent dst
    | none => false
  plain s (firstOf [
      fun _ => legal (!swMode s.me.sw && !s.holdsQueue),
      fun _ => need (s.ownChip (gChip g) && ok) .remoteRefused g,
      fun _ => if dst != s.ct && (s.ownOps || s.drainsOpen s.ct s.me.uid) then .wait { kind := .ownOps, tval := 0x0101 } else .ok])
    (fun s =>
      if dst = s.ct then (s.setReg d 1#64).retire
      else if s.my.credits = 0 ∨ interfaceLimit ≤ s.iface s.ct then (s.setReg d 0#64).retire
      else
        let s1 := s.retire
        let z := s1.me
        let q : Resume := { regs := z.regs, pc := z.pc, sw := setBit (setBit z.sw 31 false) 30 false, wid := z.wid
                            ctx := z.ctx, vpin := z.vpin, res := some (d, 1#64), acqAt := z.acqAt }
        let msg : TMsg := { s1.newMsg .migr dst with mig := some q }
        (s1.modMy (fun x => { x.freeStrand s1.ck with credits := x.credits - 1 })).sendMsg msg)

/-- ENDT (R194). -/
def execEndt (s : State) : Out State :=
  plain s (firstOf [
      fun _ => legal (!s.holdsQueue),
      fun _ => if s.drainsOpen s.ct s.me.uid then .wait { kind := .drains, tval := 0, bound := false } else .ok])
    (fun s => s.retire.modMy (fun x => x.freeStrand s.ck))

/-- ARM (R195). -/
def execArm (a : Reg) (slot : Fin 16) (target : Half) (s : State) : Out State :=
  simple s .ok (fun s =>
    let v := s.reg a
    let w0 := BitVec.ofNat 64 (field v 16 16 * 2 ^ 32 + field v 0 16 * 2 ^ 16 + target.toNat)
    let g : Trigger := ⟨w0, if v.getLsbD 32 then 1#64 else 0#64⟩
    s.modMy (fun x => { x with trigs := x.trigs.set slot g }))

/-- TRIG (R196). -/
def execTrig (a : Reg) (slot : Fin 16) (s : State) : Out State :=
  let arr : Arrival := { slot := slot, arg := s.reg a, pay := [], s2 := ownCoords s.ct, ctx := s.me.ctx, wid := s.me.wid }
  simple s (if (s.my.arrive arr s.now).isSome then .ok else .wait { kind := .trig, tval := 0x0104 })
    (fun s => s.modMy (fun x => (x.arrive arr s.now).getD x))

/-- STEAL (R197): its wait is not bounded by HANG. -/
def execSteal (d a : Reg) (pr : Bool) (s : State) : Out State :=
  let wait : WaitSpec := { kind := .reply, tval := 0, bound := false }
  if s.asked then .next (s.block wait)
  else plain s (s.destChk (s.reg a) pr 0) (fun s =>
    let x := s.my
    match x.freeInbox with
    | some e =>
      if x.credits = 0 then (s.setReg d 0#64).retire
      else
        let msg : TMsg := { s.newMsg .stealReq (s.destTile (s.reg a) pr) with
          resv := some e, back := some (s.ck, s.me.uid), dreg := d }
        ((s.modMy (fun x => { x.setInbox (some e) true with credits := x.credits - 1 })).sendMsg msg).block
          { wait with req := some s.fresh }
    | none => (s.setReg d 0#64).retire)

/-! ## Messages arrive -/

/-- VC2 kinds (R183). -/
def MsgKind.onVc2 : MsgKind → Bool
  | .send | .spawn | .wake => true
  | _ => false

/-- The tile that sends a message, if a tile does. -/
def MsgSrc.tile? : MsgSrc → Option TileId
  | .tile t => some t
  | .wake t => some t
  | .unit _ _ => none

/-- Is `q` a VC2 message to the receiver of `m` from the same tile that is neither acknowledged nor returned as BOUNCE (R187)? The SEND.stg
of a tile, which go to the launch unit, are in order among themselves, over all queues (log 64). -/
def TMsg.unacked (q m : TMsg) : Bool :=
  q.src.tile? == m.src.tile? && q.stq.isSome == m.stq.isSome &&
  (if q.kind = .bounce then q.mig.isNone && q.from_ == m.dst else q.kind.onVc2 && q.dst == m.dst)

/-- May the message have reached its receiver: in the network, or in a drain held for a retry; and behind no earlier VC2 message
from the same tile to the same receiver (R187, R367)? -/
def State.mayReach (s : State) (m : TMsg) : Bool :=
  (match m.phase with
    | .out => true
    | .retry _ => s.drainingAt m.dst
    | _ => false)
  && (!m.kind.onVc2 || m.src.tile?.isNone ||
    !(s.msgs.any (fun q => decide (q.id < m.id) && q.unacked m)))

/-- May the tile apply an arriving message now: one per clk (R180)? -/
def State.mayApply (s : State) (t : TileId) : Bool := (s.tile t).appliedAt != some s.now

/-- The tile has applied an arriving message in this clk (R180). -/
def State.applied (s : State) (t : TileId) : State := s.modTile t (fun x => { x with appliedAt := some s.now })

/-- Is it a message that a tile applies: one of a strand or a dispatch, a message that has come back, or a stolen task (R180)? A SEND.stg
goes to the launch unit. -/
def TMsg.applies (m : TMsg) : Bool :=
  match m.kind with
  | .send => m.stq.isNone
  | .spawn | .wake | .migr | .stage | .bounce | .stolen => true
  | .stealReq | .emptyReply => false

/-- The virtual channel of a message (R183). -/
def MsgKind.vc : MsgKind → Fin 8
  | .send | .spawn | .wake | .stage => 2
  | .migr => 3
  | .bounce | .stolen | .emptyReply => 1
  | .stealReq => 0

/-- The tile at whose router a message has entered the task plane; none for a dispatch, which enters at the launch unit's port (R426). -/
def TMsg.entry (m : TMsg) : Option TileId :=
  match m.kind with
  | .stage => none
  | .bounce | .stolen => some m.from_
  | _ => m.src.tile?

/-- The port through which the last hop of a message reaches its tile's router, by its place in the order of R180: north 0, west 1, south 2,
east 3, local 4, launch unit 5. -/
def State.port (s : State) (m : TMsg) : Nat :=
  match s.partOf m.dst with
  | none => 4
  | some p =>
    let src := m.entry.getD (s.unitTile m.dst)
    let path := (s.route p false m.kind.vc src m.dst).map (fun h => tileAt h.row h.col)
    match ((src :: path).dropLast).getLast? with
    | some u =>
      if rowOf u < rowOf m.dst then 0 else if colOf u < colOf m.dst then 1
      else if rowOf m.dst < rowOf u then 2 else if colOf m.dst < colOf u then 3 else 4
    | none => if m.entry.isNone then 5 else 4

/-- Is a message before another in the order in which their tile applies them: by the clk in which they have come, then by port (R180)? -/
def State.before (s : State) (a b : TMsg) : Bool :=
  match a.came, b.came with
  | some i, some j => decide (i < j) || (i == j && (decide (s.port a < s.port b) || (s.port a == s.port b && decide (a.id < b.id))))
  | _, _ => false

/-- Does the message wait at its tile, its last beat come? -/
def State.waiting (s : State) (m : TMsg) : Bool := m.came.isSome && m.applies && s.mayReach m

/-- Is it the turn of a message that has come to its tile: the tile may apply one, and none of those that wait there is before it (R180)? -/
def State.inOrder (s : State) (m : TMsg) : Bool :=
  s.mayApply m.dst && !s.msgs.any (fun q => q.dst == m.dst && s.waiting q && s.before q m)

/-- A message that leaves its sender's interface for the first time counts in MSENT (R368). -/
def State.countSent (s : State) (m : TMsg) : State :=
  if m.sent then s
  else
    let s1 := s.modMsg m.id (fun q => { q with sent := true })
    match m.src with
    | .tile t => s1.modTile t (fun x => { x with msent := x.msent + 1 })
    | .wake t => s1.modTile t (fun x => { x with msent := x.msent + 1 })
    | .unit _ _ => s1

/-- The watchdog of the partition of a tile starts again: a message has been applied, a drain step made (R378). -/
def State.progressAt (s : State) (t : TileId) : State :=
  match s.partOf t with
  | some p => s.modPart p (fun q => { q with dog := 0 })
  | none => s

/-- What an event of R368 adds to MRECV: 1, but for a message counted before. -/
def TMsg.count (m : TMsg) : Nat := if m.counted then 0 else 1

/-- Does a message that arrives go into the stop buffer of its tile (R367)? At a tile that is being restored it is applied as step 4 of
R377 says. -/
def State.buffers (s : State) (t : TileId) : Bool :=
  (s.tile t).halted && !(match s.partOf t with | some p => (s.parts[p]).restoring | none => false)

/-- A message placed in the stop buffer of a halted tile: counted there, and its sender's entry freed (R367, R368). -/
def State.stopBuffer (s : State) (m : TMsg) : State :=
  let s0 := s.modTile m.dst (fun x => { x with stopBuf := x.stopBuf ++ [{ m with sent := true, phase := .kept, counted := true, came := none }] })
  -- a tile that is not placed, which holds a SEND.stg for its launch unit, has no count of its own in the sums
  let s1 := match s.launchAt m.dst with
    | some l => if l.placed.contains m.dst then s0.modTile m.dst (fun x => { x with mrecv := x.mrecv + m.count })
      else s0.modLaunch l.id (fun l => { l with mrecv := l.mrecv + m.count })
    | none => s0
  (s1.modMsg m.id (fun q => { q with phase := .kept, came := none })).progressAt m.dst

/-- The arrival that a message makes at its slot. -/
def TMsg.arrival (m : TMsg) : Arrival :=
  { slot := m.slot, arg := m.arg, pay := m.pay, s2 := BitVec.ofNat 64 (m.srow * 256 + m.scol), ctx := m.ctx, wid := m.wid }

/-- The arrival of a message: its last beat comes to its tile's router, and the message has left its sender's interface; the tile applies it
in its turn, by one arrival per clk (R180). -/
def arrive (s : State) (m : Nat) (ok : TMsg → Bool) (eff : TMsg → State → State) : Out State :=
  onMsg s m (fun q => ok q && q.applies && s.mayReach q && s.mayApply q.dst)
    (fun q s =>
      if q.came.isNone then (s.countSent q).modMsg m (fun r => { r with came := some s.now })
      else if s.inOrder q then eff q (s.applied q.dst)
      else s)

/-- The step that applies a message that waits at its tile. -/
def TMsg.step (m : TMsg) : Instr :=
  match m.kind with
  | .spawn => .spawnArrival m.id
  | .migr => .migrArrival m.id
  | .bounce => .bounceArrival m.id
  | .stolen => .stolenReply m.id
  | _ => .triggerArrival m.id

/-- TRIGGER_ARRIVAL (R179): a SEND, WAKE or STAGE is applied and acknowledged, or returned for a retry. -/
def execTriggerArrival (m : Nat) (s : State) : Out State :=
  arrive s m (fun q => q.kind == .send || q.kind == .wake || q.kind == .stage)
    (fun q s =>
      let x := s.tile q.dst
      if s.buffers q.dst then s.stopBuffer q
      else match x.arrive q.arrival s.now with
        | some x1 => ((s.setTile q.dst { x1 with mrecv := x1.mrecv + q.count }).modMsg m
            (fun r => { r with phase := .ack })).progressAt q.dst
        | none => s.modMsg m (fun r => { r with phase := .nack, came := none }))

/-- The ready task of a spawned, bounced or stolen message; it counts as of slot 0 among the tasks of its clk (R182, log 64). -/
def TMsg.ready (m : TMsg) (now : Nat) (ret : Bool) (e : Option (Fin 16)) (s2 : Word) : Ready :=
  { stamp := now, ret := ret, slot := 0, pc := m.pc, arg := m.arg, inbox := e, len := m.pay.length, s2 := s2, ctx := m.ctx
    wid := m.wid, stl := m.stl, resume := none }

/-- The ready entry of a moved strand; `v` is what its MIGR writes. -/
def TMsg.moved (m : TMsg) (now : Nat) (ret : Bool) (v : Word) : Ready :=
  { stamp := now, ret := ret, slot := 0, pc := 0#64, arg := 0#64, inbox := none, len := 0, s2 := 0#64, ctx := m.ctx
    wid := m.wid, stl := false, resume := m.mig.map (fun q => { q with res := q.res.map (fun r => (r.1, v)) }) }

/-- Has the stream already put a message into this queue in this clk? A SEND.stg that comes in the clk is accepted before it (R310). -/
def State.streamed (s : State) (t : TileId) (q : Fin 16) : Bool :=
  match s.launchAt t with
  | some l => l.hdr.eq == q.val && l.streamAt == some s.now
  | none => false

/-- A SPAWN accepted at a tile, or none (R191). -/
def Tile.acceptSpawn (x : Tile) (m : TMsg) (now : Nat) : Option Tile :=
  let e := if m.pay.isEmpty then none else x.freeInbox
  if x.role.isSome = true ∧ m.img = x.img ∧ x.regular < 16 ∧ (m.pay.isEmpty || e.isSome) = true then
    let x1 := (x.putPayload e m.pay).setInbox e true
    some { x1 with ready := x1.ready ++ [m.ready now false e (BitVec.ofNat 64 (m.srow * 256 + m.scol))] }
  else none

/-- A MIGR accepted at a tile, or none (R192). -/
def Tile.acceptMigr (x : Tile) (m : TMsg) (now : Nat) : Option Tile :=
  if x.role.isSome = true ∧ m.img = x.img ∧ x.regular < 16 then some { x with ready := x.ready ++ [m.moved now false 1#64] } else none

/-- A SPAWN or a MIGR at its receiver: accepted, or turned back as BOUNCE. -/
def State.acceptOr (s : State) (m : TMsg) (x1 : Option Tile) : State :=
  match x1 with
  | some y => ((s.setTile m.dst { y with mrecv := y.mrecv + m.count }).modMsg m.id (fun r => { r with phase := .ack })).progressAt m.dst
  | none => s.modMsg m.id (fun r => { r with kind := .bounce, dst := (m.src.tile?).getD m.dst, from_ := m.dst, came := none })

/-- SPAWN_ARRIVAL (R191). -/
def execSpawnArrival (m : Nat) (s : State) : Out State :=
  arrive s m (fun q => q.kind == .spawn)
    (fun q s => if s.buffers q.dst then s.stopBuffer q else s.acceptOr q ((s.tile q.dst).acceptSpawn q s.now))

/-- MIGR_ARRIVAL (R192). -/
def execMigrArrival (m : Nat) (s : State) : Out State :=
  arrive s m (fun q => q.kind == .migr)
    (fun q s => if s.buffers q.dst then s.stopBuffer q else s.acceptOr q ((s.tile q.dst).acceptMigr q s.now))

/-- A bounced child or strand enters the return area of its own tile (R182, R191, R192). -/
def Tile.takeBounce (x : Tile) (m : TMsg) (t : TileId) (now : Nat) : Tile :=
  match m.mig with
  | some _ => { x with ready := x.ready ++ [m.moved now true 0#64] }
  | none =>
    let e := if m.pay.isEmpty then none else m.resv
    let x1 := x.putPayload e m.pay
    { x1 with ready := x1.ready ++ [m.ready now true e (ownCoords t)] }

/-- The posted record of a message leaves its counters. -/
def State.unpostMsg (s : State) (m : TMsg) : State :=
  match m.post, m.src.tile? with
  | some i, some t => s.unpost t i
  | _, _ => s

/-- BOUNCE_ARRIVAL (R191, R192). -/
def execBounceArrival (m : Nat) (s : State) : Out State :=
  arrive s m (fun q => q.kind == .bounce)
    (fun q s =>
      let s1 := (s.unpostMsg q).dropMsg m
      let x := s1.tile q.dst
      if s.buffers q.dst then
        (s1.setTile q.dst { x with stopBuf := x.stopBuf ++ [{ q with phase := .kept, counted := true, came := none }], mrecv := x.mrecv + q.count }).progressAt q.dst
      else
        let x1 := x.takeBounce q q.dst s.now
        (s1.setTile q.dst { x1 with mrecv := x1.mrecv + q.count }).progressAt q.dst)

/-- SET of a tile (R178). -/
def Tile.set_ (x : Tile) : Nat := x.stage.toNat / 256
/-- STG of a tile (R178). -/
def Tile.stg (x : Tile) : Nat := x.stage.toNat % 256

/-- The place of the most recently enqueued stealable entry of the regular area (R197). -/
def Tile.stealable (x : Tile) : Option Nat :=
  (List.range x.ready.length).foldl (fun b i =>
    match x.ready[i]? with
    | some r => if r.stl && !r.ret then
        (match b.bind (fun j => x.ready[j]?) with
          | some y => if y.stamp ≤ r.stamp then some i else b
          | none => some i)
      else b
    | none => b) none

/-- STEAL_REQUEST (R197): the victim answers with its latest stealable task, or with an empty reply; a poisoned payload stops the
partition (18 R401). -/
def execStealRequest (m : Nat) (s : State) : Out State :=
  onMsg s m (fun q => q.kind == .stealReq && q.phase == .out)
    (fun q s =>
      let thief := (q.src.tile?).getD q.dst
      let v := s.tile q.dst
      let y := s.tile thief
      let empty := s.modMsg m (fun r => { r with kind := .emptyReply, dst := thief })
      if v.halted || v.stage != y.stage || v.img != y.img then empty
      else match v.stealable with
        | none => empty
        | some i => match v.ready[i]? with
          | none => empty
          | some r =>
            let (at_, n) := match r.inbox with | some e => (inboxOfs e, r.len) | none => (0, 0)
            if n ≠ 0 && s.poisonHit q.dst .data at_ (8 * n) false then s.stopAt q.dst (s.poisonCause q.dst .data at_ (8 * n)) else
            let pay : List Word := (List.range n).map (fun j => mdw v.data (at_ + 8 * j))
            let v1 := { v.setInbox r.inbox false with ready := v.ready.eraseIdx i, msent := v.msent + 1, stolenAt := some s.now }
            (s.setTile q.dst v1).modMsg m (fun z => { z with
              kind := .stolen, dst := thief, from_ := q.dst, pc := r.pc, arg := r.arg, pay := pay, ctx := r.ctx, wid := r.wid, stl := r.stl
              srow := field r.s2 8 8, scol := field r.s2 0 8, sent := true }))

/-- A stolen task enters the thief's return area; without a payload its reserved inbox entry is freed. -/
def Tile.takeStolen (x : Tile) (m : TMsg) (now : Nat) : Tile :=
  let e := if m.pay.isEmpty then none else m.resv
  let x1 := if m.pay.isEmpty then x.setInbox m.resv false else x.putPayload e m.pay
  { x1 with ready := x1.ready ++ [m.ready now true e (BitVec.ofNat 64 (m.srow * 256 + m.scol))] }

/-- The strand that waits in STEAL receives its result. -/
def State.stealDone (s : State) (m : TMsg) (v : Word) : State :=
  match m.back with
  | none => s
  | some (k, uid) =>
    let z := s.strand m.dst k
    if z.live && z.uid == uid && (match z.wait with | some w => w.req == some m.id | none => false) then
      (s.modStrand m.dst k (fun z => { z with regs := z.regs.set m.dreg v })).retireAt m.dst k
    else s

/-- An empty reply reaches the thief, which takes back what it has reserved. -/
def State.takeEmpty (s : State) (q : TMsg) : State :=
  let s1 := s.dropMsg q.id
  (s1.modTile q.dst (fun x => { x.setInbox q.resv false with credits := x.credits + 1 })).stealDone q 0#64

/-- STOLEN_REPLY (R197): a stolen task, or an empty reply, reaches the thief. -/
def execStolenReply (m : Nat) (s : State) : Out State :=
  match (s.msg m).map TMsg.kind with
  | some .emptyReply => onMsg s m (fun q => q.phase == .out) (fun q s => s.takeEmpty q)
  | _ => arrive s m (fun q => q.kind == .stolen)
    (fun q s =>
      let s1 := s.dropMsg m
      let x := s1.tile q.dst
      let x1 := if s.buffers q.dst then { x with stopBuf := x.stopBuf ++ [{ q with phase := .kept, counted := true, came := none }] }
        else x.takeStolen q s.now
      ((s1.setTile q.dst { x1 with mrecv := x1.mrecv + q.count }).progressAt q.dst).stealDone q 1#64)

/-- TASK_MESSAGE_ACK (R184): the sender's entry and counters are freed; what a SPAWN or MIGR has reserved is released, unless a
stop buffer keeps the message (R367). -/
def execTaskMessageAck (m : Nat) (s : State) : Out State :=
  onMsg s m (fun q => q.phase == .ack || q.phase == .kept)
    (fun q s =>
      let s1 := (s.unpostMsg q).dropMsg m
      match q.phase, q.kind, q.src.tile? with
      | .ack, .spawn, some t | .ack, .migr, some t =>
        s1.modTile t (fun x => { x.setInbox q.resv false with credits := x.credits + 1 })
      | _, _, _ => s1)

/-- TASK_MESSAGE_NACK (R187): retry n comes 32 × 2^min(n−1, 5) clks later. -/
def execTaskMessageNack (m : Nat) (s : State) : Out State :=
  onMsg s m (fun q => q.phase == .nack)
    (fun q s => s.modMsg m (fun r => { r with nacks := q.nacks + 1, phase := .retry (s.now + 32 * 2 ^ min q.nacks 5) }))

/-- TASK_MESSAGE_RETRY (R187). -/
def execTaskMessageRetry (m : Nat) (s : State) : Out State :=
  onMsg s m (fun q => match q.phase with | .retry due => decide (due ≤ s.now) | _ => false)
    (fun _ s => s.modMsg m (fun r => { r with phase := .out }))

/-! ## Stages (R199 to R201) -/

/-- The depth of a stage queue of a launch. -/
def Launch.depth (l : Launch) (q : Nat) : Nat := ((l.fp.queues[q]?).map (·.depth)).getD 0
/-- The messages in a stage queue. -/
def Launch.queued (l : Launch) (q : Nat) : List TMsg := (l.queues[q]?).getD []

/-- A message accepted into a stage queue. -/
def Launch.enqueue (l : Launch) (q : Nat) (m : TMsg) : Launch := { l with queues := l.queues.set q (l.queued q ++ [m]) }

/-- STAGE_QUEUE_ACCEPT (R199): accepted below the queue's depth, else returned for a retry, which blocks the sender's stage
(R200). In a drain a message for a full queue goes to a stop buffer (R367). -/
def execStageQueueAccept (m : Nat) (s : State) : Out State :=
  onMsg s m (fun r => r.kind == .send && r.stq.any (fun q => !s.streamed r.dst q) && s.mayReach r)
    (fun r s =>
      let s1 := s.countSent r
      match r.stq, s1.launchAt r.dst with
      | some q, some l =>
        if (l.queued q.val).length < l.depth q.val then
          ((s1.modLaunch l.id (fun l => { l.enqueue q.val r with mrecv := l.mrecv + r.count })).modMsg m
            (fun z => { z with phase := .ack })).progressAt r.dst
        else if s1.drainingAt r.dst then s1.stopBuffer r
        else
          let st := (s1.tile ((r.src.tile?).getD r.dst)).stg
          (s1.modLaunch l.id (fun l => { l with blocked := if l.blocked.contains st then l.blocked else st :: l.blocked })).modMsg m
            (fun z => { z with phase := .nack })
      | _, _ => s)

/-- Dispatched messages that a tile has not acknowledged. -/
def State.dispatched (s : State) (t : TileId) : Nat :=
  (s.msgs.filter (fun q => q.kind == .stage && q.dst == t)).length

/-- The tiles of a stage, in row-major order. -/
def State.stageTiles (s : State) (l : Launch) (g : Nat) : List TileId :=
  (l.placed.filter (fun t => (s.tile t).stg == g)).mergeSort (fun a b => decide (a ≤ b))

/-- The tile for a dispatch: the search starts after the tile chosen last (R199). -/
def State.dispatchTile (s : State) (l : Launch) (g : Nat) (p0 : TileId) : Option TileId :=
  let ts := s.stageTiles l g
  let ok := fun t => decide (s.dispatched t < 2)
  match (l.pos[g]?).getD none with
  | none => ts.find? ok
  | some last =>
    let abs := p0 + last
    match (ts.filter (fun t => decide (abs < t))).find? ok with
    | some t => some t
    | none => (ts.filter (fun t => decide (t ≤ abs))).find? ok

/-- STAGE_DISPATCH (R199): the head of a queue goes to a tile of the target stage, while the launch is RUNNING (R362). -/
def execStageDispatch (p : Fin 24) (q : Fin 16) (s : State) : Out State :=
  match s.curLaunch p with
  | none => .next s
  | some l =>
    match l.fp.queues[q.val]?, l.queued q.val with
    | some e, m :: rest =>
      let p0 := tileAt (s.parts[p]).row0 (s.parts[p]).col0
      if l.st != .running then .next s
      else match s.dispatchTile l e.tstg p0 with
        | none => .next s
        | some t =>
          let msg : TMsg := { m with
            id := s.fresh, src := .unit p q, dst := t, kind := .stage, slot := e.dslot, stq := none, post := none
            nacks := 0, sent := true, phase := .out }
          .next ((s.modLaunch l.id (fun l => { l with
            queues := l.queues.set q.val rest
            pos := l.pos.set e.tstg (some (t - p0))
            msent := l.msent + 1 })).sendMsg msg)
    | _, _ => .next s

/-- Is a message of this kind acknowledged to its sender (R184)? A steal request is answered instead (R197). -/
def MsgKind.isAcked : MsgKind → Bool
  | .stealReq | .emptyReply | .stolen => false
  | _ => true

/-- Is a tile idle now (R200)? -/
def State.idleTile (s : State) (t : TileId) : Bool :=
  let x := s.tile t
  (List.finRange 4).all (fun k => !(x.strand k).live) && x.ready.isEmpty
  && !(s.msgs.any (fun q => q.src.tile? == some t && q.kind.isAcked))
  && x.cmds.isEmpty && (s.netCmds t).isEmpty && !s.netPosted t (fun _ => true)

/-- The trigger table of a stage, as 16 slots. -/
def StageEnt.table (e : StageEnt) : Vector Trigger 16 :=
  Vector.ofFn (fun i => match e.trigs[i.val]? with | some w => ⟨w.1, w.2⟩ | none => {})

/-- A tile that an elastic move may take: idle for 1,400 clks, its slots as the faceplate has them (R200). -/
def State.movable (s : State) (l : Launch) (g : Nat) (t : TileId) : Bool :=
  s.idleTile t && decide ((s.tile t).busyAt + 1400 ≤ s.now)
  && (match l.fp.stages[g]? with | some e => (s.tile t).trigs == e.table | none => false)

/-- Occupancy of the input queues of a stage. -/
def Launch.backlog (l : Launch) (g : Nat) : Nat :=
  ((List.range l.fp.queues.length).map (fun i =>
    match l.fp.queues[i]? with
    | some e => if e.tstg = g then (l.queued i).length else 0
    | none => 0)).sum

/-- p of a stage: floor(1,024 · q / t). -/
def State.pressure (s : State) (l : Launch) (g : Nat) : Nat :=
  let n := (s.stageTiles l g).length
  if n = 0 then 0 else 1024 * l.backlog g / n

/-- The stage with the least, or the greatest, pressure; the lowest number on a tie. -/
def State.bestStage (s : State) (l : Launch) (gs : List Nat) (high : Bool) : Option Nat :=
  gs.foldl (fun b g => match b with
    | none => some g
    | some c => if (if high then decide (s.pressure l c < s.pressure l g) else decide (s.pressure l g < s.pressure l c)) then some g else b) none

/-- One move within an elastic set, if R200 makes one. -/
def State.elasticMove (s : State) (l : Launch) (set_ : Nat) : Option State :=
  let gs := (List.range l.fp.stages.length).filter (fun g => match l.fp.stages[g]? with | some e => e.set == set_ | none => false)
  let ent (g : Nat) (f : StageEnt → Nat) : Nat := ((l.fp.stages[g]?).map f).getD 0
  let donors := gs.filter (fun g => decide (ent g (·.min) < (s.stageTiles l g).length) && (s.stageTiles l g).any (s.movable l g))
  let takers := gs.filter (fun g => !l.blocked.contains g && decide ((s.stageTiles l g).length < ent g (·.max)))
  match s.bestStage l donors false, s.bestStage l takers true with
  | some d, some k =>
    if s.pressure l k ≤ s.pressure l d then none
    else match (s.stageTiles l d).find? (s.movable l d), l.fp.stages[k]? with
      | some t, some e =>
        some (s.modTile t (fun x => { x with stage := BitVec.ofNat 16 (x.set_ * 256 + k), trigs := e.table }))
      | _, _ => none
  | _, _ => none

/-- Up to `n` moves. -/
def State.elasticMoves (l : Launch) (set_ : Nat) : Nat → State → State
  | 0, s => s
  | n + 1, s => match s.elasticMove l set_ with
    | some s1 => State.elasticMoves l set_ n s1
    | none => s

/-- ELASTIC_REASSIGNMENT (R200), once in 14,000 clks; before the arrivals of its clk. -/
def execElasticReassignment (p : Fin 24) (s : State) : Out State :=
  match s.curLaunch p with
  | none => .next s
  | some l =>
    if l.st != .running || decide (s.now < (s.parts[p]).elasticAt + period14k) || l.placed.any (fun t => !s.mayApply t) then .next s
    else
      let sets := (l.fp.stages.map (·.set)).eraseDups.filter (fun x => x != 0xFF)
      let s1 := sets.foldl (fun s x => State.elasticMoves l x 64 s) s
      .next ((s1.modPart p (fun q => { q with elasticAt := s.now })).modLaunch l.id (fun l => { l with blocked := [] }))

/-- The neighbour of a tile in a direction: north, east, south, west. -/
def neighbour (t : TileId) (dir : Nat) : Option TileId :=
  let r := rowOf t
  let c := colOf t
  match dir % 4 with
  | 0 => if r = 0 then none else some (tileAt (r - 1) c)
  | 1 => if c = 255 then none else some (tileAt r (c + 1))
  | 2 => if r = 179 then none else some (tileAt (r + 1) c)
  | _ => if c = 0 then none else some (tileAt r (c - 1))

/-- The next direction from `d` on whose neighbour is of the tile's stage. -/
def State.stealDir (s : State) (l : Launch) (t : TileId) (d : Nat) : Option (Nat × TileId) :=
  [d, d + 1, d + 2, d + 3].findSome? (fun i => match neighbour t i with
    | some u => if l.placed.contains u && (s.tile u).stage == (s.tile t).stage then some (i % 4, u) else none
    | none => none)

/-- AUTOMATIC_STEAL (R201): once in 256 clks, by a tile with room and nothing ready. -/
def execAutomaticSteal (t : TileId) (s : State) : Out State :=
  let x := s.tile t
  match s.launchAt t with
  | none => .next s
  | some l =>
    let on := match l.fp.stages[x.stg]? with | some e => e.steal | none => false
    if !(on && l.st == .running && x.sliceEnd.isNone && l.placed.contains t && x.freeSlot.isSome && x.ready.isEmpty
        && decide (0 < x.credits) && decide (x.stealAt + 256 ≤ s.now)) then .next s
    else match x.freeInbox, s.stealDir l t x.stealDir with
      | some e, some (d, u) =>
        let msg : TMsg := {
          id := s.fresh, src := .tile t, dst := u, kind := .stealReq, slot := 0, stq := none, srow := rowOf t, scol := colOf t
          ctx := 0#16, arg := 0#64, wid := 0#64, img := x.img, stl := false, pc := 0#64, pay := [], mig := none
          post := none, resv := some e, back := none, dreg := 0, nacks := 0, sent := false, phase := .out }
        .next ((s.setTile t { x.setInbox (some e) true with
          credits := x.credits - 1, stealDir := (d + 1) % 4, stealAt := s.now }).sendMsg msg)
      | _, _ => .next s

end Machine
end Sys2Proof
end

