-- ==== Sys2Proof/Machine/Strands.lean ====
section
/-! DEFINITION. Steps that act on a strand from outside its own instruction stream: the repair of a code line (01 R40), the
expiry of a wait (07 R203), and a trap that waits for the next instruction boundary (08 R211). -/

namespace Sys2Proof
namespace Machine

/-! ## CODE_LINE_REPAIR (R40) -/

/-- Bytes of the CODE image that a tile executes; zero beyond its end (R294). -/
def State.imageBytes (s : State) (t : TileId) (addr n : Nat) : List Byte :=
  let im : List Byte := match s.launchAt t with
    | some l => (l.images[(s.tile t).img]?).getD []
    | none => []
  let part := (im.drop addr).take n
  part ++ List.replicate (n - part.length) 0#8

/-- CODE_LINE_REPAIR (R40): a line that the copy engine has written cannot be repaired, and the partition is stopped; any other is
rewritten, and the strands are released. -/
def execCodeLineRepair (t : TileId) (s : State) : Out State :=
  let x := s.tile t
  match x.chold with
  | none => .next s
  | some h =>
    if x.written.contains h.addr then
      .next (s.stopAt t { kind := 0x14, d0 := BitVec.ofNat 64 h.addr, d1 := 0#64, row := rowOf t, col := colOf t })
    else
      let z := x.strand h.slot
      let x1 := ((x.putBytes .code h.addr (s.imageBytes t h.addr 64)).unpoison .code h.addr 64).setStrand h.slot
        { z with fixed := some h.addr }
      .next (s.setTile t { x1 with chold := none })

/-! ## WAIT_EXPIRED (R203) -/

/-- Does the wait of the strand end without success now: its count has reached its bound, and its last try, in the step before,
found its condition false? -/
def State.expires (s : State) (t : TileId) (k : Fin 4) : Bool :=
  s.ready t k && (match (s.strand t k).wait with
    | some w => w.last + 1 == s.steps && (match w.bound with | some b => decide (b ≤ w.count) | none => false)
    | none => false)

/-- WAIT_EXPIRED (R203): *wait expired*, or *tag exhaustion* for TAGA (R349); the instruction has no effect. -/
def execWaitExpired (t : TileId) (k : Fin 4) (s : State) : Out State :=
  if !s.expires t k then .next s
  else match (s.strand t k).wait with
    | some w =>
      let pc := (s.strand t k).pc
      let r : TrapRec := if w.kind = .tag then ⟨.tagExhaustion, pc, 0#64⟩ else ⟨.waitExpired, pc, w.tval⟩
      let s1 := if w.kind = .counter then s.withdraw w.req else s
      let s2 := match w.kind with
        | .vsw n => s1.modTile t (fun x => x.unarrive n)
        | _ => s1
      .next ((s2.modStrand t k (fun z => { z with wait := none })).takeTrapAt t k r)
    | none => .next s

/-! ## POSTED_REFUSAL_TRAP (R211) -/

/-- POSTED_REFUSAL_TRAP (R211, 06 R174, 10 R262): TEPC is the PC of the instruction that would have issued next. -/
def execPostedRefusalTrap (t : TileId) (k : Fin 4) (s : State) : Out State :=
  let z := s.strand t k
  if !s.ready t k then .next s
  else match z.late with
    | some (c, v) => .next ((s.modStrand t k (fun z => { z with late := none })).takeTrapAt t k ⟨c, z.pc, v⟩)
    | none => .next s

end Machine
end Sys2Proof
end

