-- ==== Sys2Proof/Machine/Contexts.lean ====
section
/-! DEFINITION. Tags (14 R340, R346 to R351), versions (R353 to R360), and the steps that retire a tag and pass a switch. -/

namespace Sys2Proof
namespace Machine

/-! ## Tags (R340, R346) -/

/-- The lowest free tag of the `n` from `i` on. -/
def Launch.freeFrom (l : Launch) : Nat → Nat → Option Nat
  | 0, _ => none
  | n + 1, i => if l.tag (BitVec.ofNat 16 i) = .free then some i else l.freeFrom n (i + 1)

/-- The tag that TAGA hands out, if one is free (R340). -/
def Launch.freeTag (l : Launch) : Option Nat := l.freeFrom 65535 1

/-- Number of free tags. -/
def Launch.freeTags (l : Launch) : Nat := 65535 - l.tags.length

/-- Code of a tag's state (R351). -/
def TagSt.code : TagSt → Nat
  | .free => 0 | .live => 1 | .retiring => 2

/-- A tag's state set; a free tag is not listed. -/
def Launch.setTag (l : Launch) (t : Nat) (st : TagSt) : Launch :=
  { l with tags := if st = .free then tdel l.tags t else tset l.tags t st }

/-- The launch of the issuing strand. -/
def State.myLaunch (s : State) : Option Launch := s.launchAt s.ct

/-- The launch of the issuing strand changed. -/
def State.modMyLaunch (s : State) (f : Launch → Launch) : State :=
  match s.myLaunch with
  | some l => s.modLaunch l.id f
  | none => s

/-- TAGA (R349): the lowest free tag, or a request that waits at the launch unit, which answers it when a tag becomes free. -/
def execTaga (d : Reg) (s : State) : Out State :=
  let f := s.myLaunch.bind (·.freeTag)
  simple s (if f.isSome then .ok else .wait { kind := .tag, tval := 0, dst := d })
    (fun s => match f with
      | some t => (s.modMyLaunch (fun l => l.setTag t .live)).setReg d (BitVec.ofNat 64 t)
      | none => s)

/-- The tag that register `a` names. -/
def State.tagOf (s : State) (a : Reg) : Half := (s.reg a).truncate 16

/-- State of a tag of the issuing strand's launch. -/
def State.tagState (s : State) (t : Half) : TagSt :=
  match s.myLaunch with
  | some l => l.tag t
  | none => if t = 0#16 then .live else .free

/-- TAGR (R350). -/
def execTagr (d a : Reg) (s : State) : Out State :=
  simple s .ok (fun s =>
    let t := s.tagOf a
    if t = 0#16 ∨ s.tagState t ≠ .live then s.setReg d 0#64
    else
      let s1 := s.modMyLaunch (fun l => l.setTag t.toNat .retiring)
      let s2 := match s.partOf s.ct with
        | some p => s1.modPart p (fun q => { q with retire := q.retire ++ [Retire.mk t none] })
        | none => s1
      s2.setReg d 1#64)

/-- TAGS (R351). -/
def execTags (a : Reg) (s : State) : Out State :=
  simple s .ok (fun s => s.modMe (fun z => { z with ctx := (s.reg a).truncate 16 }))

/-- TAGQ (R351). -/
def execTagq (d a : Reg) (s : State) : Out State :=
  simple s .ok (fun s =>
    let n := match s.myLaunch with
      | some l => l.freeTags
      | none => 65535
    s.setReg d (BitVec.ofNat 64 (n * 2 ^ 32 + (s.tagState (s.tagOf a)).code)))

/-! ## Versions (R353 to R360) -/

/-- A type 3 window of the issuing strand's launch, with its directory (R358). -/
def State.verWin (s : State) (w : Fin 64) : Option (WinEnt × VerDir) :=
  match s.myLaunch.bind (fun l => l.wins[w.val]?) with
  | some e => if e.type = 3 then (s.dir e.key).map (fun d => (e, d)) else none
  | none => none

/-- The window check of R358. -/
def State.verChk (s : State) (w : Fin 64) (c : WinEnt → VerDir → Chk) : Chk :=
  match s.verWin w with
  | some (e, d) => c e d
  | none => .trap .versionRefused (BitVec.ofNat 64 (0x20000 + w.val))

/-- A reference of a partition on a slot, added or dropped. -/
def VerSlot.addRef (x : VerSlot) (p : Fin 24) : VerSlot := { x with ref := tset x.ref p.val (tget 0 x.ref p.val + 1) }
/-- Dropped. -/
def VerSlot.dropRef (x : VerSlot) (p : Fin 24) : VerSlot :=
  let n := tget 0 x.ref p.val
  { x with ref := if n ≤ 1 then tdel x.ref p.val else tset x.ref p.val (n - 1) }

/-- A slot of a directory changed. -/
def VerDir.modSlot (d : VerDir) (i : Fin 4) (f : VerSlot → VerSlot) : VerDir := { d with slots := d.slots.set i (f d.slots[i]) }

/-- The slot that becomes filling next: the lowest empty one, else the published one with the lowest SEQ (R356). -/
def VerDir.nextFill (d : VerDir) : Option (Fin 4) :=
  match (List.finRange 4).find? (fun i => (d.slots[i]).st == 0) with
  | some i => some i
  | none => (List.finRange 4).foldl (fun b i =>
      if (d.slots[i]).st != 2 then b
      else match b with
        | some j => if (d.slots[i]).seq < (d.slots[j]).seq then some i else b
        | none => some i) none

/-- Is the slot free to be filled: empty, or published and without references? -/
def VerDir.canFill (d : VerDir) (n : Fin 4) : Bool := (d.slots[n]).st == 0 || (d.slots[n]).ref.all (fun r => r.2 == 0)

/-- The filling slot published as `v`, slot `n` filling (R356). -/
def VerDir.publish (d : VerDir) (v : Half) (n : Fin 4) : VerDir :=
  let d1 := match d.filling with
    | some f => d.modSlot f (fun x => { x with st := 2, ver := v, seq := d.next })
    | none => d
  { d1.modSlot n (fun x => { x with st := 1, ref := [] }) with next := d.next + 1 }

/-- Is a VPUB to the directory ahead of the issuing strand's at HOME, which performs them in the order in which they reached it
(R356)? -/
def State.vpubAhead (s : State) (key : Nat) : Bool :=
  s.tiles.any (fun tx => (List.finRange 4).any (fun k => (tx.1, k) != s.cur && (match (tx.2.strand k).wait with
    | some w => w.kind == .vpub key && (match s.me.wait with
      | some m => m.kind != .vpub key || decide (w.stamp < m.stamp)
      | none => true)
    | none => false)))

/-- VPUB (R356): its checks against what is published; HOME then performs one at a time, in the order in which they reached it. -/
def execVpub (d a : Reg) (w : Fin 64) (s : State) : Out State :=
  let v : Half := (s.reg a).truncate 16
  simple s (s.verChk w (fun e dir =>
      let wait : Chk := .wait { kind := .vpub e.key, tval := 0x0401 }
      firstOf [
        fun _ => need e.wr .versionRefused (BitVec.ofNat 64 (0x30000 + w.val)),
        fun _ => need (dir.slots.toList.all (fun x => x.st != 2 || decide (x.ver.toNat < v.toNat))) .versionRefused (v.zeroExtend 64),
        fun _ => if s.vpubAhead e.key then wait else .ok,
        fun _ => match dir.nextFill with
          | some n => if dir.canFill n then .ok else wait
          | none => wait]))
    (fun s => match s.verWin w with
      | some (e, dir) => match dir.nextFill with
        | some n => (s.modDir e.key (fun d => d.publish v n)).setReg d (BitVec.ofNat 64 n.val)
        | none => s
      | none => s)

/-- What a target's trap carries: the version, or 0x1_0000 for `.lat` (R357). -/
def targetVal (g : Option Half) : Word :=
  match g with
  | some v => v.zeroExtend 64
  | none => 0x10000#64

/-- Targets of the strands of a tile that wait in a switch of the window. -/
def Tile.targets (x : Tile) (w : Fin 64) : List (Fin 4 × Option Half) :=
  (List.finRange 4).filterMap (fun k => match (x.strand k).wait with
    | some r => if r.kind = .vsw w then r.target.map (fun g => (k, g)) else none
    | none => none)

/-- VSW of either kind (R357 step 1): the strand arrives, or joins the arrival of its tile. -/
def vswOp (w : Fin 64) (g : Option Half) (s : State) : Out State :=
  simple s (s.verChk w (fun _ _ =>
      if (s.my.targets w).any (fun t => t.1 != s.ck && t.2 != g) then .trap .versionRefused (targetVal g)
      else .wait { kind := .vsw w, tval := 0x0400, target := some g })) id

/-- VSW (R357). -/
def execVsw (a : Reg) (w : Fin 64) (s : State) : Out State := vswOp w (some ((s.reg a).truncate 16)) s
/-- VSW.lat (R357). -/
def execVswLat (w : Fin 64) (s : State) : Out State := vswOp w none s

/-- VGET (R359). -/
def execVget (d : Reg) (w : Fin 64) (s : State) : Out State :=
  simple s (s.verChk w (fun _ _ => .ok)) (fun s => s.setReg d ((tget 0#16 s.my.tcv w.val).zeroExtend 64))

/-- Filling slot and latest published version of a directory (R359). -/
def VerDir.report (d : VerDir) : Nat :=
  ((d.filling).map (·.val)).getD 0 * 2 ^ 16 + (match d.latest with | some i => (d.slots[i]).ver.toNat | none => 0)

/-- VGET.home (R359). -/
def execVgetHome (d : Reg) (w : Fin 64) (s : State) : Out State :=
  simple s (s.verChk w (fun _ _ => .ok)) (fun s => match s.verWin w with
    | some (_, dir) => s.setReg d (BitVec.ofNat 64 dir.report)
    | none => s)

/-- VPIN (R360). -/
def execVpin (a : Reg) (s : State) : Out State :=
  simple s .ok (fun s => s.modMe (fun z => { z with vpin := 0x10000#17 ||| ((s.reg a).truncate 16).zeroExtend 17 }))
/-- VPIN.off (R360). -/
def execVpinOff (s : State) : Out State := simple s .ok (fun s => s.modMe (fun z => { z with vpin := 0#17 }))

/-! ## The switch (R357) -/

/-- The participants of a window: the placed tiles of its rectangle. -/
def State.participants (s : State) (l : Launch) (e : WinEnt) : List TileId :=
  l.placed.filter (fun t => s.inRect e t && !s.absent t)

/-- Every strand that waits in the switch: tile, slot, target. -/
def State.switchers (s : State) (w : Fin 64) (ts : List TileId) : List (TileId × Fin 4 × Option Half) :=
  ts.flatMap (fun t => ((s.tile t).targets w).map (fun x => (t, x.1, x.2)))

/-- *Version refused* for a waiting strand. -/
def State.refuseSwitch (s : State) (x : TileId × Fin 4 × Option Half) (tval : Word) : State :=
  s.takeTrapAt x.1 x.2.1 ⟨.versionRefused, (s.strand x.1 x.2.1).pc, tval⟩

/-- Is the command an EGEMV on the window of a directory, stamped with the version? -/
def State.stamped (s : State) (t : TileId) (key : Nat) (v : Half) (c : Cmd) : Bool :=
  c.ver == some v && (match c.ins, c.rc with
    | .egemv .., .edge r => (match vwinOf (s.wins t) r.wva.toNat with | .read _ e => e.key == key | _ => false)
    | _, _ => false)

/-- Has the edge accepted the operation, or has it failed (R268)? -/
def CPhase.pastAccept : CPhase → Bool
  | .accepted _ | .event _ _ (some _) | .frame (some _) | .failed _ _ => true
  | _ => false

/-- Has a participant an EGEMV on the window stamped with the version that the edge has not accepted (R357 step 5)? -/
def State.unaccepted (s : State) (p : Fin 24) (key : Nat) (v : Half) : Bool :=
  let ts := match s.curLaunch p with
    | some l => (l.wins.filter (fun (e : WinEnt) => e.type == 3 && e.key == key)).flatMap (fun e => s.participants l e)
    | none => []
  s.tiles.any (fun tx => ts.contains tx.1 && (tx.2.cmdq.toList.flatten.any (fun e => match e with
      | .cmd c => s.stamped tx.1 key v c
      | .raw _ => false)
    || tx.2.copies.any (fun r => s.stamped tx.1 key v r.cmd && !r.phase.pastAccept)))

/-- References on old slots are dropped once no EGEMV stamped with the old version is unaccepted (R357 step 5). -/
def State.settleDrops (s : State) (p : Fin 24) : State :=
  let due := (s.parts[p]).drops.filter (fun d => !s.unaccepted p d.1 d.2.2)
  let s1 := s.modPart p (fun q => { q with drops := q.drops.filter (fun d => s.unaccepted p d.1 d.2.2) })
  due.foldl (fun s d => s.modDir d.1 (fun x => x.modSlot d.2.1 (fun y => y.dropRef p))) s1

/-- The pass reaches every participant (R357 step 4). -/
def State.pass (s : State) (w : Fin 64) (ts : List TileId) (v : Half) (xs : List (TileId × Fin 4 × Option Half)) : State :=
  let s1 := xs.foldl (fun s x => s.retireAt x.1 x.2.1) s
  ts.foldl (fun s t => (s.modTile t (fun x => { x with tcv := tset x.tcv w.val v })).acquireTile t) s1

/-- The references of a switch from the slot of `old` to slot `i` (R357 steps 3 and 5). -/
def State.switchRefs (s : State) (p : Fin 24) (e : WinEnt) (d : VerDir) (old new : Half) (i : Fin 4) : State :=
  if e.wr || old == new then s
  else
    let s1 := s.modDir e.key (fun x => x.modSlot i (fun y => y.addRef p))
    match d.slotFor old with
    | some j => (s1.modPart p (fun q => { q with drops := q.drops ++ [(e.key, j, old)] })).settleDrops p
    | none => s1

/-- Has a tile arrived at the switch of a window (R357 step 1)? -/
def Tile.arrivedAt (x : Tile) (w : Fin 64) : Bool :=
  (List.finRange 4).any (fun k => match (x.strand k).wait with
    | some r => r.kind == .vsw w && r.arrived
    | none => false)

/-- VERSION_SWITCH_PASS (R357): every participant has arrived; the targets agree and a slot holds the target, or every waiting VSW
is refused. -/
def execVersionSwitchPass (p : Fin 24) (w : Fin 64) (s : State) : Out State :=
  match s.curLaunch p with
  | none => .next s
  | some l => match l.wins[w.val]? with
    | none => .next s
    | some e =>
      let ts := s.participants l e
      let xs := s.switchers w ts
      if e.type != 3 || ts.isEmpty || !ts.all (fun t => (s.tile t).arrivedAt w) then .next s
      else match s.dir e.key, xs with
        | some d, (t0, _, g) :: _ =>
          if xs.any (fun x => x.2.2 != g) then .next (xs.foldl (fun s x => s.refuseSwitch x (targetVal x.2.2)) s)
          else
            let v : Half := match g with
              | some v => v
              | none => match d.latest with
                | some i => (d.slots[i]).ver
                | none => 0#16
            let old := tget 0#16 (s.tile t0).tcv w.val
            match d.slotFor v with
            | none => .next (xs.foldl (fun s x => s.refuseSwitch x (v.zeroExtend 64)) s)
            | some i => .next ((s.pass w ts v xs).switchRefs p e d old v i)
        | _, _ => .next s

end Machine
end Sys2Proof
end

