-- ==== Sys2Proof/Machine/Yield.lean ====
section
/-! DEFINITION. The end of a slice on the tiles (15 R362 to R366) and the instructions of pre-emption: YIELD (R365), PHINT (R372). -/

namespace Sys2Proof
namespace Machine

/-! ## YIELD -/

/-- YIELD with or without `.q` (R365). -/
def yieldOp (d : Reg) (q : Bool) (s : State) : Out State :=
  plain s .ok (fun s =>
    if s.my.sliceEnd.isNone then (s.setReg d 0#64).retire
    else if q || swMode s.me.sw then (s.setReg d 1#64).retire
    else s.retire.modMe (fun z => { z with parked := some d }))

/-- YIELD (R365). -/
def execYield (d : Reg) (s : State) : Out State := yieldOp d false s
/-- YIELD.q (R365). -/
def execYieldQ (d : Reg) (s : State) : Out State := yieldOp d true s

/-! ## PHINT -/

/-- The space that a PHINT entry names. -/
def hintSpc : HintSpc → Spc
  | .data => .data | .wgt => .wgt | .act => .act | .acc => .acc

/-- PHINT of an entry (R372). -/
def execPhintSet (a b : Reg) (spc : HintSpc) (n : Fin 8) (s : State) : Out State :=
  let sp := hintSpc spc
  let base := (s.reg a).toNat
  let len := (s.reg b).toNat
  simple s
    (if base % 64 ≠ 0 ∨ len % 64 ≠ 0 then .trap .misaligned (spcTval (spcCode sp) base)
      else if spcSize sp < base + len then .trap .localBounds (spcTval (spcCode sp) base)
      else .ok)
    (fun s => s.modMy (fun x =>
      let e : Phint := ⟨spcCode sp, base, len⟩
      { x with phint := x.phint.set n (if len = 0 then {} else e), decl := true }))

/-- PHINT.clr (R372). -/
def execPhintClr (s : State) : Out State :=
  simple s .ok (fun s => s.modMy (fun x => { x with phint := Vector.replicate 8 {}, decl := true }))

/-- PHINT.all (R372). -/
def execPhintAll (s : State) : Out State :=
  simple s .ok (fun s => s.modMy (fun x => { x with phint := Vector.replicate 8 {}, decl := false }))

/-! ## The slice end (R362 to R364) -/

/-- Is the tile placed in a launch that is STOPPING? -/
def State.stoppingAt (s : State) (t : TileId) : Bool :=
  match s.launchAt t with
  | some l => l.st == .stopping && l.placed.contains t
  | none => false

/-- SLICE_END_SIGNAL (R362). -/
def execSliceEndSignal (t : TileId) (s : State) : Out State :=
  if s.stoppingAt t && (s.tile t).sliceEnd.isNone then .next (s.modTile t (fun x => { x with sliceEnd := some s.now }))
  else .next s

/-- Is the tile settled (R364)? -/
def State.settledTile (s : State) (t : TileId) : Bool :=
  let x := s.tile t
  (List.finRange 4).all (fun k =>
    let z := x.strand k
    !z.live || (z.parked.isSome && !swMode z.sw && z.pend.isNone && z.held.isNone))
  && x.cmds.isEmpty && (s.netCmds t).isEmpty && !s.netPosted t (fun _ => true)

/-- SETTLED_REPORT (R364); a tile that has halted stays as it was at its halt (R371, R373). -/
def execSettledReport (t : TileId) (s : State) : Out State :=
  if s.stoppingAt t && (s.tile t).sliceEnd.isSome && !(s.tile t).settled && !(s.tile t).halted && s.settledTile t then
    .next (s.modTile t (fun x => { x with settled := true }))
  else .next s

/-! ## The halt (R366) -/

/-- Does the answer of the strand's wait still come, so that the strand goes on waiting at a halt (R366): a reply, or a gate that
its home has already satisfied? -/
def State.keepsWait (s : State) (w : WaitRec) : Bool :=
  match w.kind with
  | .reply => w.req.isSome
  | .drains => true
  | .gate => s.plane.any (fun r => some r.id == w.req && r.answered)
  | _ => false

/-- Is it a wait in the order of R21, which is saved (R369)? A QGET that issues again after a restore is a new wait behind every other
(R22). -/
def WaitKind.queued : WaitKind → Bool
  | .qput _ _ => true
  | _ => false

/-- A strand at a halt: every other wait is withdrawn with no effect, and its instruction issues again (R366). -/
def State.haltStrand (s : State) (t : TileId) (k : Fin 4) : State :=
  match (s.strand t k).wait with
  | none => s
  | some w =>
    if s.keepsWait w || w.kind.queued then s
    else
      let s1 := if w.kind = .gate ∨ w.kind = .counter then s.withdraw w.req else s
      s1.modStrand t k (fun z => { z with wait := none })

/-- A tile halts (R366); whether it is settled decides the form in which it is saved (R371). -/
def State.haltTile (s : State) (t : TileId) : State :=
  let s1 := (List.finRange 4).foldl (fun s k => s.haltStrand t k) s
  s1.modTile t (fun x => { x with settled := s.settledTile t, halted := true })

/-- Has every placed tile halted? Then the partition drains (R367). -/
def State.afterHalt (s : State) (p : Fin 24) : State :=
  if (s.placed p).all (fun t => (s.tile t).halted) then s.modPart p (fun q => { q with draining := true }) else s

/-- YIELD_DEADLINE (R363): the tile halts at the end of its deadline clk. -/
def execYieldDeadline (t : TileId) (s : State) : Out State :=
  let x := s.tile t
  match s.partOf t, x.sliceEnd with
  | some p, some c =>
    if s.stoppingAt t && !x.halted && decide (c + x.cw.ydl.toNat ≤ s.now) then .next ((s.haltTile t).afterHalt p) else .next s
  | _, _ => .next s

/-- GANG_STOP (R364): every placed tile has reported, and all halt. -/
def execGangStop (p : Fin 24) (s : State) : Out State :=
  match s.curLaunch p with
  | none => .next s
  | some l =>
    let q := s.parts[p]
    if l.st == .stopping && !q.gangStop && !q.draining && l.placed.all (fun t => (s.tile t).settled) then
      let s1 := l.placed.foldl (fun s t => s.haltTile t) s
      .next ((s1.modPart p (fun q => { q with gangStop := true })).afterHalt p)
    else .next s

end Machine
end Sys2Proof
end

