-- ==== Sys2Proof/Machine/Engine.lean ====
section
/-! DEFINITION. What the engines share: shape records (05 R123 to R126), the checks of operands at issue (R132), blanks, range locks
and pool granules (R133 to R135, 14 R343), the prefix of an engine instruction (R127 to R129), operands as they are read and
written, and the end of an operation (R137, 10 R262). -/

namespace Sys2Proof
namespace Machine

/-! ## Shape records -/

/-- A signed 32-bit field. -/
def sfield (w : Word) (lo : Nat) : Int :=
  let u := field w lo 32
  if 2 ^ 31 ≤ u then (u : Int) - (2 ^ 32 : Nat) else u

/-- A shape record as R123 lays it out; none where R132 step 2 refuses it. -/
def parseShape (at_ : Nat) (bs : List Byte) : Option Shape :=
  let w (i : Nat) : Word := dwOf bs i
  let w0 := w 0
  let rank := field w0 8 2
  let rsv := field w0 51 13 + field w0 23 9 + field w0 10 6 + field w0 3 5 + field (w 5) 19 45 + (w 6).toNat + (w 7).toNat
  let dim (j : Nat) : Bool :=
    if j ≤ rank then field (w (1 + j)) 16 16 == 0 && field (w (1 + j)) 0 16 != 0 else w (1 + j) == 0#64
  let ext := (List.range (rank + 1)).map (fun j => field (w (1 + j)) 0 16)
  if rsv = 0 ∧ (List.range 4).all dim = true ∧ ext.foldl (· * ·) 1 < 2 ^ 32 then
    some { at_ := at_, spc := field w0 0 3, base := field w0 32 19, bv := w0.getLsbD 22, blk := Fin.ofNat 64 (field w0 16 6)
           rank := rank, ext := ext, str := (List.range (rank + 1)).map (fun j => sfield (w (1 + j)) 32)
           sbase := field (w 5) 0 19 }
  else none

/-- Element count (R124). -/
def Shape.n (h : Shape) : Nat := h.ext.foldl (· * ·) 1

/-- Extent of dimension 0: the length of a row. -/
def Shape.row (h : Shape) : Nat := h.ext.headD 1

/-- Element offset of a linear index (R124). -/
def elemOfs : List Nat → List Int → Nat → Int
  | e :: es, s :: ss, i => ((i % e : Nat) : Int) * s + elemOfs es ss (i / e)
  | _, _, _ => 0

/-- Lowest and highest element offset. -/
def spanOfs : List Nat → List Int → Int × Int
  | e :: es, s :: ss =>
    let (lo, hi) := spanOfs es ss
    let r : Int := ((e - 1 : Nat) : Int) * s
    if r < 0 then (lo + r, hi) else (lo, hi + r)
  | _, _ => (0, 0)

/-- First byte of an element of `b` bits at element offset `eo` (R124). -/
def Shape.byteOf (h : Shape) (b : Nat) (eo : Int) : Int :=
  (h.base : Int) + (if b < 8 then eo / 2 else eo * (b / 8 : Nat))

/-- Bytes of an element. -/
def elemBytes (b : Nat) : Nat := if b < 8 then 1 else b / 8

/-- Lowest and highest byte of an operand's elements. -/
def Shape.span (h : Shape) (b : Nat) : Int × Int :=
  let (lo, hi) := spanOfs h.ext h.str
  (h.byteOf b lo, h.byteOf b hi + elemBytes b - 1)

/-- Number of scale bytes (R125). -/
def Shape.scales (h : Shape) : Nat := (h.n + 31) / 32

/-! ## Operands of an engine instruction -/

/-- An operand with its element size and its role. -/
structure Opd where
  sh   : Shape
  bits : Nat
  bs   : Bool
  dst  : Bool
  /-- Spaces that it may lie in, as codes. -/
  spcs : List Nat := [2, 3, 4]
  deriving DecidableEq, Repr, Inhabited

/-- The space of an operand whose checks have passed. -/
def Opd.spc (o : Opd) : Spc := (spcOf o.sh.spc).getD .act

/-- TVAL of a trap at an operand. -/
def Opd.tval (o : Opd) (a : Int) : Word := spcTval o.sh.spc (a % ((2 ^ 61 : Nat) : Int)).toNat

/-- The byte ranges of an operand: its elements, and its scale bytes where they are used (R134). -/
def Opd.ranges (o : Opd) : List (Nat × Nat) :=
  let (lo, hi) := o.sh.span o.bits
  (lo.toNat, hi.toNat) :: (if o.bs then [(o.sh.sbase, o.sh.sbase + o.sh.scales - 1)] else [])

/-- Does element `i` of an operand have a byte in a pool? -/
def State.elemInPool (s : State) (t : TileId) (o : Opd) (i : Nat) : Bool :=
  let b := o.sh.byteOf o.bits (elemOfs o.sh.ext o.sh.str i)
  decide (0 ≤ b) && s.inPool t o.spc b.toNat (elemBytes o.bits)

/-- Does an element or a scale byte of an operand lie in a pool (14 R343)? Elements on both sides of a pool are allowed (log 30). -/
def State.opdInPool (s : State) (t : TileId) (o : Opd) : Bool :=
  !(s.wins2 t).isEmpty && (spcOf o.sh.spc).isSome && o.ranges.any (fun r => s.inPool t o.spc r.1 (r.2 + 1 - r.1))
  && ((List.range o.sh.n).any (s.elemInPool t o) || (o.bs && s.inPool t o.spc o.sh.sbase o.sh.scales))

/-- R132 step 3. -/
def State.opdRights (s : State) (t : TileId) (o : Opd) : Chk :=
  need (o.spcs.contains o.sh.spc && !(o.dst && o.sh.spc == 2) && !s.opdInPool t o) .localRights (o.tval o.sh.base)

/-- The lowest offset among the bytes of an operand that lie outside its space. -/
def Opd.lowestOut (o : Opd) : Int :=
  let size : Int := (spcSize o.spc : Nat)
  let out (b n : Int) (m : Option Int) : Option Int :=
    let x : Option Int := if b < 0 then some b else if size < b + n then some (if b < size then size else b) else none
    match x, m with
    | some a, some c => some (if a < c then a else c)
    | some a, none => some a
    | none, m => m
  let e := (List.range o.sh.n).foldl (fun m i => out (o.sh.byteOf o.bits (elemOfs o.sh.ext o.sh.str i)) (elemBytes o.bits) m) none
  ((if o.bs then out o.sh.sbase o.sh.scales e else e)).getD 0

/-- R132 step 4. -/
def Opd.bounds (o : Opd) : Chk :=
  let size : Int := (spcSize o.spc : Nat)
  let (lo, hi) := o.sh.span o.bits
  if lo < 0 ∨ size ≤ hi ∨ (o.bs = true ∧ size < ((o.sh.sbase + o.sh.scales : Nat) : Int)) then .trap .localBounds (o.tval o.lowestOut)
  else .ok

/-- R132 step 5. -/
def Opd.aligned (o : Opd) : Chk :=
  need (decide (o.bits < 8) || o.sh.base % (o.bits / 8) == 0) .misaligned (o.tval o.sh.base)

/-- R132 step 6, with the failed producer of R228. -/
def State.opdBlank (s : State) (t : TileId) (o : Opd) : Chk :=
  if !o.sh.bv then .ok
  else
    let e := (s.tile t).blanks[o.sh.blk]
    need (e.dfn && e.spc == o.sh.spc && o.ranges.all (fun r => decide (e.base ≤ r.1) && decide (r.2 < e.base + e.len))
      && (o.dst || !e.err)) .blankState (BitVec.ofNat 64 o.sh.blk.val)

/-- Steps 3 to 6 of R132, each over every operand before the next. The spec does not order the operands within a step, nor the records within
steps 1 and 2: the model takes d, a, b, c and the mask in turn, and the first that fails gives TVAL (log 55). -/
def State.opdsChk (s : State) (os : List Opd) : Chk :=
  firstOf (os.map (fun o _ => s.opdRights s.ct o) ++ os.map (fun o _ => o.bounds) ++ os.map (fun o _ => o.aligned)
    ++ os.map (fun o _ => s.opdBlank s.ct o))

/-- Step 1 of R132: records as DATA reads. -/
def State.recsChk (s : State) (rs : List (Reg × Nat)) : Chk :=
  firstOf (rs.map (fun r _ => s.recChk (s.reg r.1) r.2 64))

/-- The shape record that a register names. -/
def State.shapeAt (s : State) (r : Reg) : Option Shape :=
  parseShape (s.reg r).toNat (s.recBytes (s.reg r).toNat 64 s.me.ctx)

/-- Step 2 of R132: records that are well formed, then counts. -/
def State.shapesChk (s : State) (rs : List Reg) : Chk :=
  firstOf (rs.map (fun r _ => need (s.shapeAt r).isSome .recordRefused (s.reg r)))

/-! ## Blanks, locks and pool granules (R133 to R135, R164, R258) -/

/-- Blanks that operands name as destinations. -/
def dstBlanks (os : List Opd) : List (Fin 64) := (os.filter (fun o => o.dst && o.sh.bv)).map (fun o => o.sh.blk)
/-- Blanks that operands name as sources only, each once: an issue is one reader of a blank (R228). -/
def srcBlanks (os : List Opd) : List (Fin 64) :=
  (((os.filter (fun o => !o.dst && o.sh.bv)).map (fun o => o.sh.blk)).filter (fun b => !(dstBlanks os).contains b)).eraseDups

/-- The wait for a blank (R135). -/
def blankWait (b : Fin 64) : WaitSpec := { kind := .issueBlank b, tval := 0x0A00 + b.val }
/-- A wait that ends when engines complete, which HANG does not bound (R135). -/
def engineWait : WaitSpec := { kind := .engine, tval := 0, bound := false }

/-- Do the blanks allow the issue of an operation of the engine `hold` (R133)? Where several do not, the wait, and so the TVAL of its expiry
(R135), names the first source among them, and else the first destination: the model's choice (log 55). -/
def Tile.blanksChk (x : Tile) (hold : Nat) (os : List Opd) : Chk :=
  firstOf ((srcBlanks os).map (fun b _ =>
      let e := x.blanks[b]
      if e.st = .ready ∨ (e.st = .draining ∧ e.hold = hold) then .ok else .wait (blankWait b))
    ++ (dstBlanks os).map (fun b _ =>
      let e := x.blanks[b]
      if e.st = .empty ∨ e.st = .ready then .ok else .wait (blankWait b)))

/-- Ranges that an operation locks: space, first and last byte, destination? -/
def lockRanges (os : List Opd) : List (Spc × Nat × Nat × Bool) := os.flatMap (fun o => o.ranges.map (fun r => (o.spc, r.1, r.2, o.dst)))

/-- Do the locks of other engines, and the free entries, allow the issue (R135)? Where `same` holds, locks of the engine itself
count too (10 R258). -/
def Tile.locksOk (x : Tile) (hold : Nat) (same : Bool) (rs : List (Spc × Nat × Nat × Bool)) : Bool :=
  decide (rs.length + x.lockList.length ≤ 16) &&
  rs.all (fun r => !(x.lockList.any (fun l => (same || l.hold != hold) && l.spc == r.1 && overlap r.2.1 r.2.2.1 l.lo l.hi
    && (l.rd || r.2.2.2))))

/-- Granules of a destination that have no bead in the strand's context, by window (14 R343). -/
def State.poolNeeds (s : State) (t : TileId) (ctx : Half) (rs : List (Spc × Nat × Nat × Bool)) : List (Nat × Nat) :=
  if ctx = 0#16 then []
  else ((s.wins2 t).map (fun w =>
    let lo := w.2.base.toNat
    let g := rs.flatMap (fun r => if r.2.2.2 && spcCode r.1 == w.2.spc && overlap r.2.1 r.2.2.1 lo (lo + w.2.len - 1)
      then (List.range (min r.2.2.1 (lo + w.2.len - 1) / 64 - max r.2.1 lo / 64 + 1)).map (fun i => max r.2.1 lo / 64 + i) else [])
    (w.1, ((g.eraseDups).filter (fun i => !((s.tile t).beads.any (fun b => b.win == w.1 && b.gran == i && b.tag == ctx)))).length))
    ).filter (fun p => p.2 != 0)

/-- Are the pool granules free that an operation may need? -/
def State.poolsOk (s : State) (t : TileId) (ns : List (Nat × Nat)) : Bool :=
  ns.all (fun p => match (s.wins2 t).find? (fun w => w.1 == p.1) with
    | some (w, e) =>
      let x := s.tile t
      decide (p.2 + x.poolReserved w ≤ (x.poolFree w e.plv.toNat).length)
    | none => true)

/-- A blank taken as a source. -/
def Blank.take (e : Blank) (hold : Nat) : Blank :=
  if e.st = .draining then { e with rdr := e.rdr + 1 } else { e with st := .draining, hold := hold, rdr := 1 }
/-- A blank taken as a destination. -/
def Blank.fill (e : Blank) (hold : Nat) (tok : Half) : Blank :=
  { e with st := .filling, hold := hold, rdr := 0, tok := tok, err := false, fw := false }
/-- A reader of a blank has completed. -/
def Blank.done (e : Blank) : Blank :=
  if e.rdr ≤ 1 then { e with st := .ready, hold := 0, rdr := 0 } else { e with rdr := e.rdr - 1 }

/-- Blanks changed, one by one. -/
def Tile.modBlanks (x : Tile) (bs : List (Fin 64)) (f : Blank → Blank) : Tile :=
  bs.foldl (fun x (b : Fin 64) => { x with blanks := x.blanks.set b (f x.blanks[b]) }) x

/-- Blanks and locks that an operation takes when it issues. -/
def Tile.takeOps (x : Tile) (hold id : Nat) (tok : Half) (os : List Opd) (rs : List (Spc × Nat × Nat × Bool)) : Tile :=
  let x1 := (x.modBlanks (srcBlanks os) (fun e => e.take hold)).modBlanks (dstBlanks os) (fun e => e.fill hold tok)
  rs.foldl (fun x r => x.lock1 { owner := id, hold := hold, rd := r.2.2.2, spc := r.1, lo := r.2.1, hi := r.2.2.1 }) x1

/-- All the waits of an issue: blanks, pool granules, locks, then the queue (R135, R165, R258). HANG bounds the wait for the queue of
the matrix forms, and of the forms of the network and EPREF, which take no operand and wait for it alone (07 R202, R203, log 18). -/
def State.issueChk (s : State) (hold : Nat) (same : Bool) (q : Fin 4) (n : Bool) (os : List Opd) : Chk :=
  let rs := lockRanges os
  firstOf [
    fun _ => s.my.blanksChk hold os,
    fun _ => if s.poolsOk s.ct (s.poolNeeds s.ct s.me.ctx rs) then .ok else .wait { kind := .pool, tval := 0x0402 },
    fun _ => if s.my.locksOk hold same rs then .ok else .wait engineWait,
    fun _ => s.pushChk q n false (q == 0 || os.isEmpty)]

/-- A command taken and pushed by the issuing strand, with its locks, blanks and pool granules; the instruction retires. -/
def State.issue (s : State) (hold : Nat) (q : Fin 4) (os : List Opd) (c : Cmd) (held : Bool) : State :=
  let rs := lockRanges os
  let c1 := { c with id := s.fresh, pool := s.poolNeeds s.ct s.me.ctx rs }
  let s1 := s.modMy (fun x => x.takeOps hold c1.id c1.tok.tok os rs)
  ((s1.bump).push q (.cmd c1) c1.tok.n (if held then some s.ck else none)).retire

/-! ## Prefixes of engine instructions (R52, R54, R127 to R129) -/

/-- What an engine form allows in its prefix. -/
structure PForm where
  dfl    : Nat × Nat × Nat
  okA    : List Nat := [0]
  okB    : List Nat := [0]
  okD    : List Nat := [0]
  /-- Operands that block scales may apply to, and the formats on which they may. -/
  bsA    : Bool := false
  bsB    : Bool := false
  bsD    : Bool := false
  bsFmt  : List Nat := [3, 4, 5, 6, 7]
  rounds : Bool := false
  /-- 0: no mask; 1: a mask; 2: a mask with MZ = 0. -/
  mask   : Nat := 0
  ope    : Bool := false

/-- R128 for one operand. -/
def bsOk (f : Nat) (b has : Bool) (fmts : List Nat) : Bool :=
  if b then has && fmts.contains f else f != 5 && f != 6

/-- The prefix of an engine instruction, resolved; none where R54 refuses it. RM is the mode's code, 0 where it is not used. -/
def State.enginePfx (s : State) (f : PForm) : Option Pfx :=
  let base : Pfx := {
    fa := f.dfl.1, fb := f.dfl.2.1, fd := f.dfl.2.2, rm := if f.rounds then swDRM s.me.sw else 0
    me := false, msk := 0, mz := false, ope := false, opd := 0, bsa := false, bsb := false, bsd := false }
  match s.pfx? with
  | none => some base
  | some p =>
    let bit (i : Nat) : Bool := p.getLsbD i
    let rm := pfxField p 12 3
    let x : Pfx := {
      fa := pfxField p 0 4, fb := pfxField p 4 4, fd := pfxField p 8 4
      rm := if !f.rounds then 0 else if rm = 7 then swDRM s.me.sw else rm
      me := bit 15, msk := Fin.ofNat 16 (pfxField p 16 4), mz := bit 20, ope := bit 21, opd := Fin.ofNat 16 (pfxField p 22 4)
      bsa := bit 26, bsb := bit 27, bsd := bit 28 }
    let ok := f.okA.contains x.fa && f.okB.contains x.fb && f.okD.contains x.fd
      && bsOk x.fa x.bsa f.bsA f.bsFmt && bsOk x.fb x.bsb f.bsB f.bsFmt && bsOk x.fd x.bsd f.bsD f.bsFmt
      && rm != 6 && (f.rounds || rm == 7)
      && (x.me || (x.msk == 0 && !x.mz)) && !(x.me && f.mask == 0) && !(x.mz && f.mask != 1)
      && (x.ope || x.opd == 0) && !(x.ope && !f.ope) && pfxField p 29 3 == 0
    if ok then some x else none

/-! ## A command as it is sampled at issue (R137) -/

/-- Everything that an engine instruction samples, its records apart. -/
def State.sample (s : State) (i : Instr) (tk : Tok) (x : Pfx) : Cmd :=
  { id := 0, ins := i, slot := s.ck, uid := s.me.uid, tok := tk, pfx := x, sw := s.me.sw, ctx := s.me.ctx, vpin := s.me.vpin
    wid := s.me.wid, regs := s.me.regs, key := s.my.rngKey, ctr := s.my.rngCtr, d := none, a := none, b := none, c := none, mask := none
    rc := .none, idx := [], ver := none, tcv := s.my.tcv, raw := none, posted := [], pool := [], dest := 0 }

/-- The rounding mode of a command. -/
def Cmd.mode (c : Cmd) : RMode := rmodeOf c.pfx.rm

/-- Result flush bit for a format. -/
def Cmd.fr (c : Cmd) (f : Nat) : Bool := swFR c.sw (fclass f)
/-- Input flush bit for a format. -/
def Cmd.fi (c : Cmd) (f : Nat) : Bool := swFI c.sw (fclass f)

/-- The draw of element `i` (R76). -/
def Cmd.drawAt (c : Cmd) (i : Nat) : Nat := draw ((c.ctr + i) % 2 ^ 128) c.key

/-- Is a value no integer, so that rounding it to one is inexact? -/
def Num.fractional : Num → Bool
  | .fin _ m e => decide (m % pow2 (-e) ≠ 0)
  | _ => false

/-- round(FD, mode, v) of element `i` (R72 to R77, R84); an inexact rounding to an integer sets NX, saturated or not (R140). -/
def Cmd.round (c : Cmd) (f : Nat) (wrap : Bool) (i : Nat) (v : Num) : Nat × FpFlags :=
  let r := roundNum f c.mode (if c.mode = .sr then c.drawAt i / 2 ^ 32 else 0) (c.fr f) wrap v
  (r.1, r.2 ||| flagIf (isInt f && v.fractional) fNX)

/-! ## Elements -/

/-- First byte of element `i`. -/
def Opd.at_ (o : Opd) (i : Nat) : Nat := (o.sh.byteOf o.bits (elemOfs o.sh.ext o.sh.str i)).toNat
/-- Is a 4-bit element in the high half of its byte? -/
def Opd.high (o : Opd) (i : Nat) : Bool := elemOfs o.sh.ext o.sh.str i % 2 == 1

/-- The code of element `i` of an operand of a tile's engine, under a tag. -/
def State.elem (s : State) (t : TileId) (tag : Half) (o : Opd) (i : Nat) : Nat :=
  let v := leNat (s.lread t o.spc (o.at_ i) (elemBytes o.bits) tag)
  if o.bits < 8 then (if o.high i then v / 16 else v % 16) else v

/-- The scale byte of element `i` (R125). -/
def State.scaleOf (s : State) (t : TileId) (tag : Half) (o : Opd) (i : Nat) : Nat :=
  leNat (s.lread t o.spc (o.sh.sbase + i / 32) 1 tag)

/-- A value under a scale byte (R68, R69). Under 0xFF every element is a quiet NaN, a signalling one too, as R69 raises no flag
(log 54). -/
def scaleNum (sc : Nat) (v : Num) : Num := if sc = 255 then .nan false else v.shift ((sc : Int) - 127)

/-- The value of element `i` in format `f`, after input flushing and its scale (R69, R77). -/
def State.elemNum (s : State) (t : TileId) (c : Cmd) (o : Opd) (f i : Nat) : Num :=
  let v := readNum f (c.fi f) (s.elem t c.ctx o i)
  if o.bs then scaleNum (s.scaleOf t c.ctx o i) v else v

/-- Element `i` written. -/
def State.putElem (s : State) (t : TileId) (tag : Half) (o : Opd) (i code : Nat) : State :=
  let a := o.at_ i
  if o.bits < 8 then
    let old := leNat (s.lread t o.spc a 1 tag)
    s.ewrite t o.spc a (leBytes 1 (if o.high i then old % 16 + code % 16 * 16 else old / 16 * 16 + code % 16)) tag
  else s.ewrite t o.spc a (leBytes (o.bits / 8) code) tag

/-- The scale byte of a block written. -/
def State.putScale (s : State) (t : TileId) (tag : Half) (o : Opd) (j sc : Nat) : State :=
  s.ewrite t o.spc (o.sh.sbase + j) (leBytes 1 sc) tag

/-! ## Poison that an operation meets (18 R401) -/

/-- The bytes of an operand, elements and scale bytes, by their offsets in its space. -/
def Opd.bytes (o : Opd) : List Nat :=
  (List.range o.sh.n).flatMap (fun i => (List.range (elemBytes o.bits)).map (fun j => o.at_ i + j))
    ++ (if o.bs then (List.range o.sh.scales).map (fun j => o.sh.sbase + j) else [])

/-- How many bytes of word `w` of a space the bytes `bs` touch, each where a tag places it. -/
def State.touches (s : State) (t : TileId) (tag : Half) (sp : Spc) (bs : List Nat) (w : Nat) : Nat :=
  ((List.range 8).filter (fun k => bs.any (fun b => s.place t sp b tag == 8 * w + k))).length

/-- Does a write to one of the bytes make a bead of base bytes that lie in word `w` (R341)? -/
def State.copiesBase (s : State) (t : TileId) (tag : Half) (sp : Spc) (bs : List Nat) (w : Nat) : Bool :=
  bs.any (fun b => b / 64 == w / 8 && (s.needsBead t sp b tag).isSome)

/-- The first poisoned word that an operation would read, would write in part, or would copy into a bead. -/
def State.opdsPoison (s : State) (t : TileId) (tag : Half) (os : List Opd) : Option (Spc × Nat) :=
  (s.tile t).poison.find? (fun p => os.any (fun o => o.spc == p.1 &&
    (let k := s.touches t tag o.spc o.bytes p.2
     decide (0 < k) && !(o.dst && k == 8) || (o.dst && s.copiesBase t tag o.spc o.bytes p.2))))

/-- Poison cleared in the words that an operation has written whole. -/
def State.clearPoison (s : State) (t : TileId) (tag : Half) (os : List Opd) : State :=
  if (s.tile t).poison.isEmpty then s
  else s.modTile t (fun x => { x with poison := x.poison.filter (fun p =>
    !(os.any (fun o => o.dst && o.spc == p.1 && s.touches t tag o.spc o.bytes p.2 == 8))) })

/-! ## The end of an operation (R137, R228, R262) -/

/-- Flags merged into the SW of the strand that issued the operation, if it is still there (R14). -/
def State.giveFlags (s : State) (t : TileId) (c : Cmd) (f : FpFlags) : State :=
  let z := s.strand t c.slot
  if z.live && z.uid == c.uid then s.setStrand t c.slot { z with sw := swOr z.sw f } else s

/-- Blanks and locks of a completed operation. -/
def Tile.endOps (x : Tile) (c : Cmd) (os : List Opd) (ok : Bool) : Tile :=
  let x1 := (x.unlock c.id).modBlanks (srcBlanks os) (fun e => e.done)
  x1.modBlanks (dstBlanks os) (fun e =>
    if ok then { e with st := .ready, hold := 0, rdr := 0, fw := false } else { e with st := .empty, hold := 0, rdr := 0, fw := false, err := true })

/-- The destination blank of a command of the copy engine. -/
def Cmd.dblank (c : Cmd) : Option (Fin 64) :=
  match c.rc with
  | .copy r => if r.dbv then some r.dblk else none
  | _ => c.d.bind (fun h => if h.bv then some h.blk else none)

/-- FW of the destination blank of a command (R261). -/
def Tile.setFw (x : Tile) (c : Cmd) (b : Bool) : Tile :=
  match c.dblank with
  | some n => { x with blanks := x.blanks.set n { x.blanks[n] with fw := b } }
  | none => x

/-- A completed operation: flags, blanks, locks and token at once. -/
def State.opDone (s : State) (t : TileId) (q : Fin 4) (c : Cmd) (os : List Opd) (f : FpFlags) : State :=
  (((s.giveFlags t c f).clearPoison t c.ctx os).modTile t (fun x => (x.endOps c os true).complete q c.tok)).progressAt t

/-- A failed operation: no token, its reservation released, its destination blank empty with ERR, and the cause at the strand's
next instruction boundary (R262). -/
def State.opFail (s : State) (t : TileId) (q : Fin 4) (c : Cmd) (os : List Opd) (cause : Cause) (tval : Word) : State :=
  ((s.modTile t (fun x =>
    let x1 := x.endOps c os false
    if c.tok.n then { x1 with resv := x1.resv.set q (x1.resv[q] - 1) } else x1)).progressAt t).lateTrap t c.slot c.uid cause tval

/-- The memories of a tile with each byte as it was, or as it is in `y`, by a free choice (log 8). -/
def State.tornMem (s : State) (t : TileId) (sp : Spc) (y : Tile) : State :=
  let m := (s.tile t).mem sp
  let m' := y.mem sp
  let as := ((m ++ m').map (·.1)).filter (fun a => mget m a != mget m' a)
  as.foldl (fun s a => { s.modTile t (fun x => if Config.lands s.free then x.setMem sp (mset (x.mem sp) a (mget m' a)) else x) with
    free := s.free + 1 }) s

/-- All spaces of a tile between `s` and `s'`. -/
def State.tornTo (s : State) (t : TileId) (s' : State) : State :=
  [Spc.code, .data, .wgt, .act, .acc].foldl (fun s sp => s.tornMem t sp (s'.tile t)) s

/-- What an operation does to the state: done, or refused at a write under a dead tag, with what its other writes have left (R262,
R347). -/
inductive Effect
  | done (s : State) (f : FpFlags)
  | dead (s : State) (tval : Word)

/-- The effect of an operation tried out. -/
def State.tryOut (s : State) (t : TileId) (eff : State → State × FpFlags) : Effect :=
  let r := eff { s with deadAt := none }
  match r.1.deadAt with
  | none => .done r.1 r.2
  | some v => .dead (s.tornTo t r.1) v

/-- An operation carried out at its completion (log 8): stopped by poison, refused by its tag, or done. -/
def State.finishOp (s : State) (t : TileId) (q : Fin 4) (c : Cmd) (os : List Opd) (eff : State → State × FpFlags) : State :=
  match s.opdsPoison t c.ctx os with
  | some (sp, w) => s.stopAt t (s.poisonStop t sp (8 * w))
  | none => match s.tryOut t eff with
    | .dead s1 v => s1.opFail t q c os .localRights v
    | .done s1 f => s1.opDone t q c os f

/-- Does a command take a raw operand (R122)? -/
def Cmd.isQ (c : Cmd) : Bool :=
  match c.ins with
  | .vbcast _ q => q
  | .cpyf _ q => q
  | .mdrainRem m => m.q
  | _ => false

/-- The command at the head of a queue that may start, with its raw operand, and the queue without it. A raw operand at the head
belongs to no command and is discarded (R121, R122). -/
def startHead : List QEntry → Option Cmd × List QEntry
  | [] => (none, [])
  | .raw _ :: r => startHead r
  | .cmd c :: r =>
    if !c.isQ then (some c, r)
    else match r with
      | .raw v :: r1 => (some { c with raw := some v }, r1)
      | _ => (none, .cmd c :: r)

end Machine
end Sys2Proof
end

