-- ==== Sys2Proof/Machine/Drain.lean ====
section
/-! DEFINITION. The sides of a copy (10 R255, R260), and which engine operations of a halted tile go on in a drain (15 R367, R369, log 32). -/

namespace Sys2Proof
namespace Machine

/-! ## The sides of a copy (R255, R260) -/

/-- Element size in bytes. -/
def CopyRec.esize (r : CopyRec) : Nat := 2 ^ r.esz

/-- Element count. -/
def CopyRec.n (r : CopyRec) : Nat := r.ext.foldl (· * ·) 1

/-- Is the instruction CPYF, or CPYG? -/
def isFill : Instr → Bool
  | .cpyf .. => true
  | _ => false
/-- CPYG? -/
def isGather : Instr → Bool
  | .cpyg _ => true
  | _ => false

/-- The address of an element on a side. -/
def sideAt (base : Word) (ext : List Nat) (str : List Int) (i : Nat) : Word := BitVec.ofInt 64 ((base.toNat : Int) + elemOfs ext str i)

/-- Where element `i` comes from; none where CPYG writes zeros. -/
def CopyRec.from_ (r : CopyRec) (c : Cmd) (i : Nat) : Option Word :=
  if isGather c.ins then
    let k := i / (r.ext.take r.rank).foldl (· * ·) 1
    let x := c.idx.getD k 0
    if x < 0 ∨ (r.glim : Int) ≤ x then none
    else some (BitVec.ofInt 64 ((r.saddr.toNat : Int) + elemOfs r.ext r.sstr i + (r.sstr.getLastD 0) * (x - k)))
  else some (sideAt r.saddr r.ext r.sstr i)

/-! ## Operations that a drain needs (15 R367, R369, log 32) -/

/-- The configuration of a slot of the launch at a tile; none where its LEN is 0. -/
def State.redEnt (s : State) (t : TileId) (slot : Nat) : Option RedEnt :=
  match s.launchAt t with
  | some l => match l.fp.reds[slot]? with
    | some e => if e.len = 0 then none else some e
    | none => none
  | none => none

/-- The operations whose locks guard a range of a tile against an access. -/
def Tile.guards (x : Tile) (sp : Spc) (lo n : Nat) (write : Bool) : List Nat :=
  (x.lockList.filter (fun l => n != 0 && l.spc == sp && (write || l.rd) && overlap lo (lo + n - 1) l.lo l.hi)).map (·.owner)

/-- The operations that guard the bytes of a global access. -/
def State.guardsOf (s : State) (g : Word) (n : Nat) (write : Bool) : List (TileId × Nat) :=
  match spcOf (gSpc g) with
  | some sp => ((s.tile (gTile g)).guards sp (gOfs g) n write).map (fun c => (gTile g, c))
  | none => []

/-- The commands of an engine of a tile in the order of their issue: those that run, then those that its queue holds. -/
def Tile.engineLine (x : Tile) : Fin 4 → List Cmd × List Cmd
  | 0 => (x.mat.run.map (·.cmd), x.queued 0)
  | 1 => (x.vec.toList, x.queued 1)
  | 2 => (x.copies.map (·.cmd), x.queued 2)
  | 3 => ([], x.queued 3)

/-- The commands that have to go on before the command `id` of a tile can: all those before it in its engine, but for a copy that runs
beside the others (R254). -/
def Tile.before (x : Tile) (id : Nat) : List Nat :=
  (List.finRange 4).flatMap (fun q =>
    let l := x.engineLine q
    if q == 2 && l.1.any (fun c => c.id == id) then []
    else if (l.1 ++ l.2).any (fun c => c.id == id) then (((l.1 ++ l.2).takeWhile (fun c => c.id != id)).map (·.id)) else [])

/-- A command of a tile. -/
def Tile.cmd (x : Tile) (id : Nat) : Option Cmd := x.cmds.find? (fun c => c.id == id)

/-- The commands of a tile whose posted accesses hold back one of the posted accesses `ids` (08 R217). -/
def State.holders (s : State) (t : TileId) (ids : List Nat) : List (TileId × Nat) :=
  let x := s.tile t
  let me := x.ordered.filter (fun q => ids.contains q.id)
  let held := x.ordered.filter (fun q => me.any (s.holdsBack q))
  (x.cmds.filter (fun c => held.any (fun q => c.posted.contains q.id))).map (fun c => (t, c.id))

/-- The operations before whose locks the accesses of a copy to tiles wait. -/
def State.copyGuards (s : State) (c : Cmd) : List (TileId × Nat) :=
  match c.rc with
  | .copy r => (List.range r.n).flatMap (fun i =>
      (if r.sk = 1 && !isFill c.ins then (match r.from_ c i with | some a => s.guardsOf a r.esize false | none => []) else [])
        ++ (if r.dk = 1 then s.guardsOf (sideAt r.daddr r.ext r.dstr i) r.esize true else []))
  | _ => []

/-- What an operation waits for, of operations of halted tiles. -/
def State.waitsFor (s : State) (x : TileId × Nat) : List (TileId × Nat) :=
  match (s.tile x.1).cmd x.2 with
  | none => []
  | some c => ((s.tile x.1).before x.2).map (fun d => (x.1, d)) ++ s.holders x.1 c.posted ++ s.copyGuards c

/-- The operations that an access which the drain performs waits for: a request of a strand or a delivery before a range lock, a posted
access behind an earlier one of its tile, and a local buffer of a network operation (R226, R217, R274, R282). -/
def State.drainWaits (s : State) : List (TileId × Nat) :=
  s.plane.flatMap (fun r =>
      (if r.phase = .locked then s.guardsOf r.addr r.op.size r.op.mod else [])
        ++ (if r.post && r.phase = .out && r.from_.isNone then s.holders r.tile [r.id] else []))
    ++ s.tiles.flatMap (fun tx => (List.finRange 32).flatMap (fun k =>
      match (tx.2.tree[k]).deliv, s.redEnt tx.1 k.val with
      | v :: _, some e => (tx.2.guards .acc e.dofs (4 * v.length) true).map (fun c => (tx.1, c))
      | _, _ => []))
    ++ (s.parts.toList.flatMap (·.netBusy)).flatMap (fun o =>
      s.holders o.tile o.cmd.posted ++ (if o.rc.lk then s.guardsOf o.rc.laddr o.rc.len true else []))

/-- A list of operations with all that they wait for; `n` bounds the chain. -/
def State.needed (s : State) : Nat → List (TileId × Nat) → List (TileId × Nat)
  | 0, l => l
  | n + 1, l =>
    let more := ((l.flatMap s.waitsFor).filter (fun x => !l.contains x)).eraseDups
    if more.isEmpty then l else s.needed n (l ++ more)

/-- May a command of a tile start or go on in its engine? The commands of a halted tile are frozen (15 R369), but for those without which
an access that the drain performs (R367) could not be made (log 32). -/
def State.goesOn (s : State) (t : TileId) (id : Nat) : Bool :=
  !(s.tile t).halted || (s.needed (s.tiles.map (fun x => x.2.cmds.length)).sum s.drainWaits).contains (t, id)

/-- May the command at the head of a queue start, if there is one? -/
def State.startsOn (s : State) (t : TileId) (c : Option Cmd) : Bool :=
  match c with
  | some c => s.goesOn t c.id
  | none => !(s.tile t).halted

end Machine
end Sys2Proof
end

