-- ==== Sys2Proof/Machine/Special.lean ====
section
/-! DEFINITION. The six special functions (R88), computed in fixed point with 512 fraction bits and then rounded once: the error
of the approximation lies far below the distance of any FP32 argument's result from a rounding boundary (log 11). -/

namespace Sys2Proof
namespace Machine

/-- Fraction bits of the fixed-point values. -/
def fixP : Nat := 512
/-- One. -/
def fixOne : Int := (2 ^ fixP : Nat)
/-- Fixed-point product. -/
def fixMul (a b : Int) : Int := a * b / fixOne
/-- Fixed-point quotient. -/
def fixDiv (a b : Int) : Int := a * fixOne / b

/-- Σ z^(2n+1)/(2n+1) from a term z^(2n+1): the series of atanh. -/
def atanhSum : Nat → Int → Int → Nat → Int
  | 0, _, _, _ => 0
  | k + 1, t, z2, n => t / (2 * n + 1 : Nat) + atanhSum k (fixMul t z2) z2 (n + 1)

/-- atanh z for |z| ≤ 1/3. -/
def fixAtanh (z : Int) : Int := atanhSum 170 z (fixMul z z) 0

/-- ln 2 = 2 atanh(1/3). -/
def fixLn2 : Int := 2 * fixAtanh (fixDiv fixOne (3 * fixOne))

/-- Σ r^n/n! from a term: the series of the exponential. -/
def expSum : Nat → Int → Int → Nat → Int
  | 0, _, _, _ => 0
  | k + 1, t, r, n => t + expSum k (fixMul t r / (n + 1 : Nat)) r (n + 1)

/-- e^x of a fixed-point x, as a fixed-point mantissa and a power of two. -/
def fixExp (x : Int) : Int × Int :=
  let ln2 := fixLn2
  let k := x / ln2
  (expSum 110 fixOne (x - k * ln2) 0, k)

/-- e^x of a fixed-point x in −1,100 to 1,100 as a fixed-point value. -/
def fixExpVal (x : Int) : Int :=
  let (m, k) := fixExp x
  if 0 ≤ k then m * pow2 k else m / pow2 (-k)

/-- The fixed-point value of a finite number, clamped to ±bound. -/
def toFix (bound : Int) (v : Num) : Int :=
  match v with
  | .fin n m e =>
    -- beyond 2^20 in magnitude: the bound itself
    if 20 < e + (bitLen m : Int) then (if n then -bound else bound) * fixOne
    else
      let a : Int := if 0 ≤ e + fixP then (m * pow2 (e + fixP) : Nat) else (m / pow2 (-(e + fixP)) : Nat)
      let a := if bound * fixOne < a then bound * fixOne else a
      if n then -a else a
  | _ => 0

/-- A fixed-point value as an inexact magnitude. -/
def ofFix (x : Int) : Num := jam (decide (x < 0)) x.natAbs false (-(fixP : Int))

/-- ln of m·2^e, m > 0, in fixed point. -/
def fixLn (m : Nat) (e : Int) : Int :=
  let n := bitLen m
  let y : Int := (m * 2 ^ fixP / 2 ^ (n - 1) : Nat)        -- in [1, 2)
  let z := fixDiv (y - fixOne) (y + fixOne)
  (e + n - 1) * fixLn2 + 2 * fixAtanh z

/-- e^x as a value. -/
def expNum (v : Num) : Num :=
  if v.isZero then .ofInt 1
  else
    let (m, k) := fixExp (toFix 300 v)
    jam false m.natAbs false (k - (fixP : Int))

/-- ln x of a positive value; +0 for 1. -/
def lnNum (m : Nat) (e : Int) : Num :=
  if magLt m e 1 0 || magLt 1 0 m e then ofFix (fixLn m e) else .zero false

/-- tanh x of a non-zero value. -/
def tanhNum (v : Num) : Num :=
  let x := toFix 150 v
  let E := fixExpVal (2 * (if x < 0 then -x else x))
  let t := fixDiv (E - fixOne) (E + fixOne)
  -- a result never reaches 1
  let t := if fixOne ≤ t then fixOne - 1 else t
  ofFix (if x < 0 then -t else t)

/-- 1/(1 + e^−x) of a non-zero value. -/
def sigmNum (v : Num) : Num :=
  let x := toFix 300 v
  let E := fixExpVal (if x < 0 then x else -x)       -- e^−|x| ≤ 1
  if x < 0 then ofFix (fixDiv E (fixOne + E))
  else
    let t := fixDiv fixOne (fixOne + E)
    ofFix (if fixOne ≤ t then fixOne - 1 else t)

/-- The six functions (R88). -/
inductive SpecFn | exp | log | rcp | rsqrt | tanh | sigm
  deriving DecidableEq, Repr, Inhabited

/-- The exact or jammed value of a function, with NV and DZ; special inputs by R88's table. -/
def specNum (fn : SpecFn) (v : Num) : Num × FpFlags :=
  match fn, v with
  | _, .nan s => (.nan false, flagIf s fNV)
  | .exp, .inf n => (if n then .zero false else .inf false, 0#5)
  | .exp, x => (expNum x, 0#5)
  | .log, .inf n => if n then (.nan false, fNV) else (.inf false, 0#5)
  | .log, .fin n m e => if m = 0 then (.inf true, fDZ) else if n then (.nan false, fNV) else (lnNum m e, 0#5)
  | .rcp, .inf n => (.zero n, 0#5)
  | .rcp, .fin n m e => if m = 0 then (.inf n, fDZ) else divNum (.ofInt 1) (.fin n m e)
  | .rsqrt, .inf n => if n then (.nan false, fNV) else (.zero false, 0#5)
  | .rsqrt, .fin n m e =>
    if m = 0 then (.inf n, fDZ) else if n then (.nan false, fNV)
    else
      -- 1/√x = √(1/x); the quotient is jammed at 400 bits, the root at half of them
      let k := bitLen m + 400
      let q := 2 ^ k / m
      let exact := decide (2 ^ k % m = 0)
      (if exact then sqrtMag q (-(e + k)) else
        match sqrtMag (2 * q + 1) (-(e + k) - 1) with
        | .fin _ r x => jam false (r / 2) false (x + 1)
        | w => w, 0#5)
  | .tanh, .inf n => (.fin n 1 0, 0#5)
  | .tanh, x => (if x.isZero then x else tanhNum x, 0#5)
  | .sigm, .inf n => (if n then .zero false else .ofInt 1, 0#5)
  | .sigm, x => (if x.isZero then .fin false 1 (-1) else sigmNum x, 0#5)

/-- A special function of an FP32 value: the FP32 code and flags, rounded once under RNE and flushed under FR32 (R88). -/
def specFp32 (fn : SpecFn) (fr : Bool) (v : Num) : Nat × FpFlags :=
  let (r, f) := specNum fn v
  let (c, g) := roundNum 0 .rne 0 fr false r
  (c, f ||| g)

end Machine
end Sys2Proof
end

