-- ==== Sys2Proof/Machine/Vector.lean ====
section
/-! DEFINITION. Vector instructions (05 R127 to R156, R427, R428): their issue, and what the vector engine does with them. -/

namespace Sys2Proof
namespace Machine

/-! ## Forms -/

/-- Every format of the vector forms. -/
def fmtAll : List Nat := [0, 1, 2, 3, 4, 5, 6, 7, 8, 9]
/-- The formats that need no block scale. -/
def fmtPlain : List Nat := [0, 1, 2, 3, 4, 7, 8, 9]
/-- The integer formats. -/
def fmtInts : List Nat := [7, 8, 9]
/-- The floating-point formats that need no block scale. -/
def fmtFloats : List Nat := [0, 1, 2, 3, 4]

/-- The prefix that a vector form accepts (R129, R139 to R155). VABS and VNEG round for an integer destination only, which
`vecLegal` adds. VDRAW stands among the forms with RM in R129's table, while R151 wants RM = 7 of it: the model follows R151 (log 55). -/
def vecForm (fd : Nat) : Instr → PForm
  | .vadd _ | .vsub _ | .vmul _ | .vmin _ | .vmax _ | .vfma _ =>
    { dfl := (0, 0, 0), okA := fmtAll, okB := fmtAll, okD := fmtPlain, bsA := true, bsB := true, bsD := true, rounds := true, mask := 1 }
  | .vabs _ | .vneg _ =>
    { dfl := (0, 0, 0), okA := fmtPlain, okD := fmtPlain, bsA := true, bsD := true, rounds := isInt fd, mask := 1 }
  | .vcvt _ => { dfl := (0, 0, 1), okA := fmtAll, okD := fmtAll, bsA := true, bsD := true, rounds := true, mask := 1 }
  | .vcmp _ _ => { dfl := (0, 0, 8), okA := fmtAll, okB := fmtAll, okD := [8], bsA := true, bsB := true, mask := 1 }
  | .vsel _ => { dfl := (0, 0, 0), okA := fmtPlain, okB := fmtPlain, okD := fmtPlain, bsA := true, bsB := true, bsD := true, mask := 1 }
  | .vand _ | .vor _ | .vxor _ =>
    { dfl := (9, 9, 9), okA := fmtInts, okB := fmtInts, okD := fmtInts, bsA := true, bsB := true, bsD := true, mask := 1 }
  | .vshl _ _ (.shape _) _ | .vshr _ _ (.shape _) _ _ =>
    { dfl := (9, 9, 9), okA := fmtInts, okB := fmtInts, okD := fmtInts, bsA := true, bsB := true, bsD := true, mask := 1 }
  | .vshl _ _ (.imm _) _ | .vshr _ _ (.imm _) _ _ =>
    { dfl := (9, 9, 9), okA := fmtInts, okB := fmtInts, okD := fmtInts, bsA := true, bsD := true, mask := 1 }
  | .vmov _ => { dfl := (0, 0, 0), okA := fmtPlain, okD := fmtPlain, bsA := true, bsD := true, mask := 1 }
  | .vbcast _ _ => { dfl := (0, 0, 0), okD := fmtPlain, bsD := true, mask := 1 }
  | .viota _ _ _ _ => { dfl := (0, 0, 0), okD := [0, 1, 2, 7, 8, 9], bsD := true, rounds := true, mask := 1 }
  | .vgath _ => { dfl := (0, 9, 0), okA := fmtPlain, okB := [9], okD := fmtPlain, bsA := true, bsD := true, mask := 1 }
  | .vscat _ => { dfl := (0, 9, 0), okA := fmtPlain, okB := [9], okD := fmtPlain, bsA := true, bsD := true, mask := 2 }
  | .vpack _ => { dfl := (0, 8, 0), okA := fmtPlain, okB := [8], okD := fmtPlain, bsA := true, bsD := true }
  | .vexp _ | .vlog _ | .vrcp _ | .vrsqrt _ | .vtanh _ | .vsigm _ =>
    { dfl := (0, 0, 0), okA := fmtFloats, okD := fmtFloats, bsD := true, rounds := true, mask := 1 }
  | .vred _ _ _ => { dfl := (0, 0, 0), okA := fmtAll, okD := fmtPlain, bsA := true, bsD := true, rounds := true, mask := 2 }
  | .vscan _ _ hf _ =>
    let b := if hf.isSome then 8 else 0
    { dfl := (0, b, 0), okA := fmtAll, okB := [b], okD := fmtPlain, bsA := true, bsD := true, rounds := true, mask := 1 }
  | .vsamp _ _ _ _ _ => { dfl := (0, 0, 0), okA := fmtFloats, bsA := true, mask := 2, ope := true }
  | .vtopk _ _ _ _ _ => { dfl := (0, 0, 0), okA := fmtPlain, bsA := true, mask := 2, ope := true }
  | .vdraw _ raw _ => { dfl := (0, 0, 0), okD := if raw then [0] else [0, 1, 2, 9], mask := 1 }
  | _ => { dfl := (0, 0, 0) }

/-- `.wrap` of an instruction (R140). -/
def vecWrap : Instr → Bool
  | .vadd v | .vsub v | .vmul v => v.wrap
  | .vfma v => v.wrap
  | .vabs v | .vneg v | .vcvt v => v.wrap
  | .viota _ _ w _ => w
  | _ => false

/-- The notify bit and token. -/
def vecTok : Instr → Tok
  | .vadd v | .vsub v | .vmul v => v.tk
  | .vfma v => v.tk
  | .vmin v | .vmax v | .vand v | .vor v | .vxor v | .vgath v | .vscat v => v.tk
  | .vcmp _ v => v.tk
  | .vabs v | .vneg v | .vcvt v => v.tk
  | .vsel v | .vpack v => v.tk
  | .vshl _ _ _ tk | .vshr _ _ _ _ tk => tk
  | .vmov v | .vexp v | .vlog v | .vrcp v | .vrsqrt v | .vtanh v | .vsigm v => v.tk
  | .vbcast v _ => v.tk
  | .viota _ _ _ tk => tk
  | .vred _ v _ => v.tk
  | .vscan _ v _ _ => v.tk
  | .vsamp _ _ _ _ tk | .vtopk _ _ _ _ tk | .vdraw _ _ tk => tk
  | _ => ⟨false, 0#16⟩

/-- The registers that hold the shape records of d, a, b and c. -/
def vecRegs : Instr → Option Reg × Option Reg × Option Reg × Option Reg
  | .vadd v | .vsub v | .vmul v => (some v.d, some v.a, some v.b, none)
  | .vfma v => (some v.d, some v.a, some v.b, some v.c)
  | .vmin v | .vmax v | .vand v | .vor v | .vxor v | .vgath v | .vscat v => (some v.d, some v.a, some v.b, none)
  | .vcmp _ v => (some v.d, some v.a, some v.b, none)
  | .vabs v | .vneg v | .vcvt v => (some v.d, some v.a, none, none)
  | .vsel v | .vpack v => (some v.d, some v.a, some v.b, some v.c)
  | .vshl d a b _ | .vshr d a b _ _ => (some d, some a, (match b with | .shape r => some r | .imm _ => none), none)
  | .vmov v | .vexp v | .vlog v | .vrcp v | .vrsqrt v | .vtanh v | .vsigm v => (some v.d, some v.a, none, none)
  | .vbcast v _ => (some v.d, none, none, none)
  | .viota d _ _ _ => (some d, none, none, none)
  | .vred _ v _ => (some v.d, some v.a, none, none)
  | .vscan _ v hf _ => (some v.d, some v.a, hf, none)
  | .vsamp d a _ _ _ | .vtopk d a _ _ _ => (some d, some a, none, none)
  | .vdraw d _ _ => (some d, none, none, none)
  | _ => (none, none, none, none)

/-- A temperature that VSAMP accepts: a positive finite normal FP32 value (R154). -/
def tempOk (t : BitVec 32) : Bool :=
  let e := t.toNat / 2 ^ 23
  decide (1 ≤ e) && decide (e ≤ 254)

/-- What a vector form asks of its fields and formats beside R129. -/
def vecLegal (i : Instr) (x : Pfx) : Bool :=
  (!vecWrap i || isInt x.fd) &&
  (match i with
    | .vabs _ | .vneg _ | .vmov _ | .vgath _ | .vscat _ | .vpack _ => x.fa == x.fd
    | .vsel _ | .vand _ | .vor _ | .vxor _ => x.fa == x.fd && x.fb == x.fd
    | .vshl _ _ b _ | .vshr _ _ b _ _ =>
      x.fa == x.fd && (match b with | .imm e => decide (e.toNat < fwidth x.fa) | .shape _ => true)
    | .vcvt _ => !(x.fd == 5 || x.fd == 6) || decide (x.fa ≤ 4)
    | .vsamp _ _ _ t _ => tempOk t
    | .vtopk _ _ _ k _ => decide (1 ≤ k.toNat) && decide (k.toNat ≤ 256)
    | _ => true)

/-! ## Operands -/

/-- Element size of the destination (R126). -/
def Cmd.bitsD (c : Cmd) : Nat :=
  match c.ins with
  | .vsamp .. | .vtopk .. => 64
  | .vdraw _ raw _ => if raw then 64 else fwidth c.pfx.fd
  | _ => fwidth c.pfx.fd

/-- The operands of a command, in the order d, a, b, c, mask. -/
def Cmd.opD (c : Cmd) : Opd := { sh := c.d.getD default, bits := c.bitsD, bs := c.pfx.bsd, dst := true }
/-- Operand a. -/
def Cmd.opA (c : Cmd) : Opd := { sh := c.a.getD default, bits := fwidth c.pfx.fa, bs := c.pfx.bsa, dst := false }
/-- Operand b. -/
def Cmd.opB (c : Cmd) : Opd := { sh := c.b.getD default, bits := fwidth c.pfx.fb, bs := c.pfx.bsb, dst := false }
/-- Operand c: the selector of VSEL, the count of VPACK, or the addend of VFMA, which BSD makes block-scaled like d, with its own
SBASE (log 55). -/
def Cmd.opC (c : Cmd) : Opd :=
  match c.ins with
  | .vsel _ => { sh := c.c.getD default, bits := 8, bs := false, dst := false }
  | .vpack _ => { sh := c.c.getD default, bits := 32, bs := false, dst := true, spcs := [3, 4] }
  | _ => { sh := c.c.getD default, bits := fwidth c.pfx.fd, bs := c.pfx.bsd, dst := false }
/-- The mask. -/
def Cmd.opM (c : Cmd) : Opd := { sh := c.mask.getD default, bits := 8, bs := false, dst := false }

/-- All operands that a command has. -/
def Cmd.vecOpds (c : Cmd) : List Opd :=
  (if c.d.isSome then [c.opD] else []) ++ (if c.a.isSome then [c.opA] else []) ++ (if c.b.isSome then [c.opB] else [])
  ++ (if c.c.isSome then [c.opC] else []) ++ (if c.mask.isSome then [c.opM] else [])

/-- Rows of operand a. -/
def Cmd.rowLen (c : Cmd) : Nat :=
  match c.ins with
  | .vred _ _ all => if all then c.opA.sh.n else c.opA.sh.row
  | _ => c.opA.sh.row

/-- The record whose element count does not match the form (R132 step 2), if any: the source or mask in the elementwise forms, d in
the row forms (log 55). -/
def Cmd.countBad (c : Cmd) : Option Nat :=
  let nd := c.opD.sh.n
  let na := c.opA.sh.n
  let chk (h : Option Shape) (n : Nat) : Option Nat := match h with
    | some h => if h.n = n then none else some h.at_
    | none => none
  let rows := if c.rowLen = 0 then 0 else na / c.rowLen
  let l : List (Option Nat) := match c.ins with
    | .vgath _ => [chk c.b nd, chk c.mask nd]
    | .vscat _ => [chk c.b na, chk c.mask na]
    | .vpack _ => [chk c.b na, chk c.c 1]
    | .vred _ _ _ | .vsamp .. => [chk c.d rows, chk c.mask na]
    | .vtopk _ _ _ k _ =>
      [if c.opA.sh.row < k.toNat then some c.opA.sh.at_ else none, chk c.d (rows * k.toNat), chk c.mask na]
    | .vscan .. => [chk c.d na, chk c.b na, chk c.mask na]
    | _ => [chk c.a nd, chk c.b nd, chk c.c nd, chk c.mask nd]
  l.findSome? (fun o => o)

/-- Counter values that a command takes at issue (R76, R130, R142, R151, R154). That a VCVT with FA = FD, which rounds nothing, still takes
one per element under SR is the model's choice (log 55). -/
def Cmd.draws (c : Cmd) : Nat :=
  match c.ins with
  | .vdraw .. => c.opD.sh.n
  | .vsamp .. => c.opA.sh.n
  | .vcvt _ => if c.pfx.rm = 5 ∧ c.pfx.fd ≠ 6 then c.opD.sh.n else 0
  | _ => if c.pfx.rm = 5 then c.opD.sh.n else 0

/-! ## Issue -/

/-- The shape records that a vector instruction names, the mask's last. -/
def vecRecs (i : Instr) (x : Pfx) : List Reg :=
  let (d, a, b, c) := vecRegs i
  d.toList ++ a.toList ++ b.toList ++ c.toList ++ (if x.me then [x.msk] else [])

/-- The version of VSAMP and VTOPK (R153). -/
def State.recVersion (s : State) (x : Pfx) : Option Half :=
  if x.ope then some ((s.reg x.opd).truncate 16)
  else if s.me.vpin.getLsbD 16 then some (s.me.vpin.truncate 16) else none

/-- The command of a vector instruction. -/
def State.vecCmd (s : State) (i : Instr) (x : Pfx) : Cmd :=
  let (d, a, b, c) := vecRegs i
  { s.sample i (vecTok i) x with
    d := d.bind s.shapeAt, a := a.bind s.shapeAt, b := b.bind s.shapeAt, c := c.bind s.shapeAt
    mask := if x.me then s.shapeAt x.msk else none
    ver := s.recVersion x }

/-- Does VSAMP lack a version (R153)? The check stands behind those of R132 and before the waits of R135 (log 55). -/
def State.versionChk (s : State) (i : Instr) (x : Pfx) : Chk :=
  match i with
  | .vsamp .. => need (s.recVersion x).isSome .versionRefused 0x10000#64
  | _ => .ok

/-- The issue of a vector instruction (R58, R132, R133 to R137). -/
def vecOp (i : Instr) (s : State) : Out State :=
  match s.enginePfx (vecForm (match s.pfx? with | some p => pfxField p 8 4 | none => (vecForm 0 i).dfl.2.2) i) with
  | none => run s .illegal id
  | some x =>
    let c := s.vecCmd i x
    run s (firstOf [
        fun _ => legal (vecLegal i x && s.my.hold[(1 : Fin 4)] != some s.ck),
        fun _ => s.recsChk ((vecRecs i x).map (fun r => (r, 64))),
        fun _ => s.shapesChk (vecRecs i x),
        fun _ => match c.countBad with
          | some o => .trap .recordRefused (BitVec.ofNat 64 o)
          | none => .ok,
        fun _ => s.opdsChk c.vecOpds,
        fun _ => s.versionChk i x,
        fun _ => s.issueChk 2 false 1 c.tok.n c.vecOpds])
      (fun s => (s.modMy (fun t => t.rngAdvance c.draws)).issue 2 1 c.vecOpds c c.isQ)

/-- VADD (R139). -/
def execVadd (v : V2) (s : State) : Out State := vecOp (.vadd v) s
/-- VSUB (R139). -/
def execVsub (v : V2) (s : State) : Out State := vecOp (.vsub v) s
/-- VMUL (R139). -/
def execVmul (v : V2) (s : State) : Out State := vecOp (.vmul v) s
/-- VFMA (R139). -/
def execVfma (v : V3) (s : State) : Out State := vecOp (.vfma v) s
/-- VMIN (R139). -/
def execVmin (v : VBin) (s : State) : Out State := vecOp (.vmin v) s
/-- VMAX (R139). -/
def execVmax (v : VBin) (s : State) : Out State := vecOp (.vmax v) s
/-- VABS (R141). -/
def execVabs (v : V1) (s : State) : Out State := vecOp (.vabs v) s
/-- VNEG (R141). -/
def execVneg (v : V1) (s : State) : Out State := vecOp (.vneg v) s
/-- VCVT (R142). -/
def execVcvt (v : V1) (s : State) : Out State := vecOp (.vcvt v) s
/-- VCMP (R143). -/
def execVcmp (r : FRel) (v : VBin) (s : State) : Out State := vecOp (.vcmp r v) s
/-- VSEL (R143). -/
def execVsel (v : VTri) (s : State) : Out State := vecOp (.vsel v) s
/-- VAND (R144). -/
def execVand (v : VBin) (s : State) : Out State := vecOp (.vand v) s
/-- VOR (R144). -/
def execVor (v : VBin) (s : State) : Out State := vecOp (.vor v) s
/-- VXOR (R144). -/
def execVxor (v : VBin) (s : State) : Out State := vecOp (.vxor v) s
/-- VSHL (R144). -/
def execVshl (d a : Reg) (b : VShAmt) (tk : Tok) (s : State) : Out State := vecOp (.vshl d a b tk) s
/-- VSHR (R144). -/
def execVshr (d a : Reg) (b : VShAmt) (ar : Bool) (tk : Tok) (s : State) : Out State := vecOp (.vshr d a b ar tk) s
/-- VMOV (R145). -/
def execVmov (v : VUn) (s : State) : Out State := vecOp (.vmov v) s
/-- VBCAST (R122, R145). -/
def execVbcast (v : VUn) (q : Bool) (s : State) : Out State := vecOp (.vbcast v q) s
/-- VIOTA (R145). -/
def execViota (d : Reg) (start : BitVec 32) (wrap : Bool) (tk : Tok) (s : State) : Out State := vecOp (.viota d start wrap tk) s
/-- VGATH (R146). -/
def execVgath (v : VBin) (s : State) : Out State := vecOp (.vgath v) s
/-- VSCAT (R146). -/
def execVscat (v : VBin) (s : State) : Out State := vecOp (.vscat v) s
/-- VPACK (R147). -/
def execVpack (v : VTri) (s : State) : Out State := vecOp (.vpack v) s
/-- VEXP (R148). -/
def execVexp (v : VUn) (s : State) : Out State := vecOp (.vexp v) s
/-- VLOG (R148). -/
def execVlog (v : VUn) (s : State) : Out State := vecOp (.vlog v) s
/-- VRCP (R148). -/
def execVrcp (v : VUn) (s : State) : Out State := vecOp (.vrcp v) s
/-- VRSQRT (R148). -/
def execVrsqrt (v : VUn) (s : State) : Out State := vecOp (.vrsqrt v) s
/-- VTANH (R148). -/
def execVtanh (v : VUn) (s : State) : Out State := vecOp (.vtanh v) s
/-- VSIGM (R148). -/
def execVsigm (v : VUn) (s : State) : Out State := vecOp (.vsigm v) s
/-- VRED (R149). -/
def execVred (fn : RedFn) (v : VUn) (all : Bool) (s : State) : Out State := vecOp (.vred fn v all) s
/-- VSCAN (R150). -/
def execVscan (fn : RedFn) (v : VUn) (hf : Option Reg) (excl : Bool) (s : State) : Out State := vecOp (.vscan fn v hf excl) s
/-- VSAMP (R154). -/
def execVsamp (d a c : Reg) (t : BitVec 32) (tk : Tok) (s : State) : Out State := vecOp (.vsamp d a c t tk) s
/-- VDRAW (R151). -/
def execVdraw (d : Reg) (raw : Bool) (tk : Tok) (s : State) : Out State := vecOp (.vdraw d raw tk) s
/-- VTOPK (R155). -/
def execVtopk (d a c : Reg) (k : Half) (tk : Tok) (s : State) : Out State := vecOp (.vtopk d a c k tk) s

/-! ## Results and destinations -/

/-- The result of an element: bits as they are, or a value to be rounded into FD. -/
inductive VRes
  | raw (code : Nat)
  | num (v : Num)
  deriving DecidableEq, Repr, Inhabited

/-- One element of a pass: its index, active?, its result. -/
structure VOut where
  i   : Nat
  act : Bool
  res : VRes
  deriving DecidableEq, Repr, Inhabited

/-- The zero code of a format (R130). -/
def zeroCode (f : Nat) : Nat := if f = 6 then 0x77 else 0

/-- floor(log2 |v|) of a non-zero finite value. -/
def Num.log2 : Num → Int
  | .fin _ m e => e + (bitLen m : Int) - 1
  | _ => 0

/-- The magnitude of a DS8 term nearest to `v` units, as its shift; 7 for zero. `u k` is 2^−k in units (R83). -/
def ds8Near (u : Nat → Nat) (v : Nat) : Nat :=
  let dist (k : Nat) : Nat := let t := if k = 7 then 0 else u k; if v < t then t - v else v - t
  [1, 2, 3, 4, 5, 6, 7].foldl (fun b k => if dist k < dist b then k else b) 0

/-- The greedy fit of a value to DS8: the code and whether it is exact (R83). -/
def ds8Fit (v : Num) : Nat × Bool :=
  let e0 : Int := if v.exp ≤ -6 then v.exp else -6
  let x := scaled e0 v
  let u (k : Nat) : Nat := pow2 (-(k : Int) - e0)
  let term (y : Int) : Nat × Int :=
    let k := ds8Near u y.natAbs
    if k = 7 then (7, 0)
    else ((if y < 0 then 8 else 0) + k, if y < 0 then -(u k : Int) else (u k : Int))
  let (a, va) := term x
  let (b, vb) := term (x - va)
  (a * 16 + b, decide (x = va + vb))

/-- The scale byte of a block of results (R82, R427): `up` is 125 for MXFP4, 127 for DS8, 127 − emax for FD 3, 4, 7. -/
def blockScale (up : Int) (vs : List Num) : Nat :=
  let l := (vs.filter (fun v => !v.isZero)).map (·.log2)
  match l with
  | [] => 0
  | x :: r =>
    let m := r.foldl (fun a b => if a < b then b else a) x + up
    if m < 0 then 0 else min m.toNat 254

/-- What is added to floor(log2 amax) (R82, R427). -/
def scaleUp (f : Nat) : Int :=
  match f with
  | 5 => 125 | 6 => 127 | 3 => 119 | 4 => 112 | 7 => 121 | _ => 127

/-- The active values of a block as a scale byte and codes, with flags (R82, R83, R427). A block with a NaN or an infinity sets no NX
(log 55). An E5M2 element above the largest finite value gets what R73's table gives, an infinity or the end of the range by the mode, with OF
and NX, although R427 says that it saturates (log 55). -/
def Cmd.blockCodes (c : Cmd) (f : Nat) (xs : List (Nat × Num)) : Nat × List Nat × FpFlags :=
  if xs.any (fun x => x.2.isNan || x.2.isInf) then
    (255, xs.map (fun _ => zeroCode f), flagIf (xs.any (fun x => x.2.isSig || x.2.isInf)) fNV)
  else
    let sc := blockScale (scaleUp f) (xs.map (·.2))
    let out := xs.map (fun x =>
      let y := x.2.shift (127 - (sc : Int))
      if f = 6 then
        let r := ds8Fit y
        (r.1, flagIf (!r.2) fNX)
      else
        let r := c.round f false x.1 y
        (r.1, if r.2 &&& fNV = 0#5 then r.2 else r.2 ||| fNX))
    (sc, out.map (·.1), out.foldl (fun a r => a ||| r.2) 0#5)

/-- Codes written at indices, in ascending order. -/
def State.putCodes (s : State) (t : TileId) (tag : Half) (o : Opd) (l : List (Nat × Nat)) : State :=
  l.foldl (fun s x => s.putElem t tag o x.1 x.2) s

/-- One block of a block-scaled destination (R427), its elements written in ascending order, active or not (R136). -/
def State.putBlock (s : State) (t : TileId) (c : Cmd) (mz : Bool) (j : Nat) (l : List VOut) : State × FpFlags :=
  let o := c.opD
  let f := c.pfx.fd
  let on := l.filter (·.act)
  let xs := on.map (fun x => (x.i, match x.res with | .num v => v | .raw n => decodeNum f n))
  let (sc, codes, fl) := if on.isEmpty then (0, [], 0#5) else c.blockCodes f xs
  let code : Tbl Nat := (on.map (·.i)).zip codes
  let out := l.filterMap (fun x =>
    if x.act then some (x.i, tget (zeroCode f) code x.i) else if mz then some (x.i, zeroCode f) else none)
  (if out.isEmpty then s else (s.putScale t c.ctx o j sc).putCodes t c.ctx o out, fl)

/-- The results of a pass written to d (R130, R136, R427). -/
def State.putOuts (s : State) (t : TileId) (c : Cmd) (mz : Bool) (l : List VOut) : State × FpFlags :=
  let o := c.opD
  let f := c.pfx.fd
  if c.pfx.bsd && (vecForm f c.ins).rounds then
    (l.map (fun x => x.i / 32)).eraseDups.foldl (fun (a : State × FpFlags) j =>
      let r := a.1.putBlock t c mz j (l.filter (fun x => x.i / 32 == j))
      (r.1, a.2 ||| r.2)) (s, 0#5)
  else
    l.foldl (fun (a : State × FpFlags) x =>
      if !x.act then (if mz then a.1.putElem t c.ctx o x.i (zeroCode f) else a.1, a.2)
      else match x.res with
        | .raw n => (a.1.putElem t c.ctx o x.i n, a.2)
        | .num v =>
          let r := c.round f (vecWrap c.ins) x.i v
          (a.1.putElem t c.ctx o x.i r.1, a.2 ||| r.2)) (s, 0#5)

/-- Is element `i` active under the mask (R130)? -/
def State.active (s : State) (t : TileId) (c : Cmd) (i : Nat) : Bool :=
  c.mask.isNone || s.elem t c.ctx c.opM i != 0

/-! ## Passes (R136, R428) -/

/-- Elements of a pass. -/
def vecL (os : List Opd) : Nat := 2048 / os.foldl (fun a o => max a o.bits) 1

/-- The indices of pass `p` of `n` elements. -/
def passIdx (L n p : Nat) : List Nat := (List.range (min L (n - p * L))).map (fun k => p * L + k)

/-- Passes over `n` elements, in ascending order, carrying a state and flags. -/
def passes {α : Type} (L n : Nat) (f : α → List Nat → α) (a : α) : α :=
  (List.range ((n + L - 1) / L)).foldl (fun a p => f a (passIdx L n p)) a

/-! ## Elementwise forms -/

/-- A bit pattern of `w` bits as a signed value. -/
def sgnVal (w x : Nat) : Int := if 2 ^ (w - 1) ≤ x then (x : Int) - (2 ^ w : Nat) else x

/-- A shift of a `w`-bit pattern (R144). -/
def shiftBits (left ar : Bool) (w x sh : Nat) : Nat :=
  if left then x * 2 ^ sh % 2 ^ w
  else if ar then ((sgnVal w x / (2 ^ sh : Nat)) % ((2 ^ w : Nat) : Int)).toNat
  else x / 2 ^ sh

/-- The value of an integer or floating-point element as it is. -/
def State.vA (s : State) (t : TileId) (c : Cmd) (i : Nat) : Num := s.elemNum t c c.opA c.pfx.fa i
/-- Of operand b. -/
def State.vB (s : State) (t : TileId) (c : Cmd) (i : Nat) : Num := s.elemNum t c c.opB c.pfx.fb i
/-- Of operand c, which has format FD. -/
def State.vC (s : State) (t : TileId) (c : Cmd) (i : Nat) : Num := s.elemNum t c c.opC c.pfx.fd i

/-- A special function of element `i` (R148): the FP32 value. -/
def State.vSpecial (s : State) (t : TileId) (c : Cmd) (fn : SpecFn) (i : Nat) : VRes × FpFlags :=
  let r := specFp32 fn (c.fr 0) (s.vA t c i)
  (if c.pfx.fd = 0 then .raw r.1 else .num (decodeNum 0 r.1), r.2)

/-- A pair of an exact value and its flags as a result. -/
def numRes (r : Num × FpFlags) : VRes × FpFlags := (.num r.1, r.2)

/-- The count of a shift (R144). -/
def State.vShift (s : State) (t : TileId) (c : Cmd) (b : VShAmt) (i : Nat) : Nat :=
  match b with
  | .imm e => e.toNat
  | .shape _ =>
    let w := fwidth c.pfx.fa
    match decodeNum c.pfx.fb (s.elem t c.ctx c.opB i) with
    | .fin n m _ => ((if n then -(m : Int) else m) % (w : Int)).toNat
    | _ => 0

/-- The result of element `i` of an elementwise form, with the flags of the operation itself (R139 to R148, R151). A draw of VDRAW is
flushed by no bit and sets no flag (log 55). -/
def State.vElem (s : State) (t : TileId) (c : Cmd) (i : Nat) : VRes × FpFlags :=
  let w := fwidth c.pfx.fd
  let a : Nat := s.elem t c.ctx c.opA i
  let b : Nat := s.elem t c.ctx c.opB i
  match c.ins with
  | .vadd _ => numRes (sumNum c.mode [s.vA t c i, s.vB t c i])
  | .vsub _ => numRes (sumNum c.mode [s.vA t c i, (s.vB t c i).neg])
  | .vmul _ => numRes (mulNum (s.vA t c i) (s.vB t c i))
  | .vfma _ => numRes (fmaNum c.mode (s.vA t c i) (s.vB t c i) (s.vC t c i))
  | .vmin _ => numRes (minmaxNum false (s.vA t c i) (s.vB t c i))
  | .vmax _ => numRes (minmaxNum true (s.vA t c i) (s.vB t c i))
  | .vabs _ => if isInt c.pfx.fd then (match s.vA t c i with | .fin _ m e => (.num (.fin false m e), 0#5) | v => (.num v, 0#5))
    else (.raw (a % 2 ^ (w - 1)), 0#5)
  | .vneg _ => if isInt c.pfx.fd then (.num (s.vA t c i).neg, 0#5) else (.raw (Nat.xor a (2 ^ (w - 1))), 0#5)
  | .vcvt _ => (.num (s.vA t c i), 0#5)
  | .vcmp r _ => let p := relNum r (s.vA t c i) (s.vB t c i); (.raw (b2n p.1), p.2)
  | .vsel _ => (.raw (if s.elem t c.ctx c.opC i != 0 then a else b), 0#5)
  | .vand _ => (.raw (Nat.land a b), 0#5)
  | .vor _ => (.raw (Nat.lor a b), 0#5)
  | .vxor _ => (.raw (Nat.xor a b), 0#5)
  | .vshl _ _ n _ => (.raw (shiftBits true false w a (s.vShift t c n i)), 0#5)
  | .vshr _ _ n ar _ => (.raw (shiftBits false ar w a (s.vShift t c n i)), 0#5)
  | .vmov _ => (.raw a, 0#5)
  | .vbcast v q => (.raw (lowBits (if q then c.raw.getD 0#64 else c.regs[v.a]) w), 0#5)
  | .viota _ st _ _ => (.num (.ofInt (st.toInt + i)), 0#5)
  | .vgath _ =>
    let j := sgnVal 32 b
    (.raw (if j < 0 ∨ (c.opA.sh.n : Int) ≤ j then 0 else s.elem t c.ctx c.opA j.toNat), 0#5)
  | .vexp _ => s.vSpecial t c .exp i
  | .vlog _ => s.vSpecial t c .log i
  | .vrcp _ => s.vSpecial t c .rcp i
  | .vrsqrt _ => s.vSpecial t c .rsqrt i
  | .vtanh _ => s.vSpecial t c .tanh i
  | .vsigm _ => s.vSpecial t c .sigm i
  | .vdraw _ raw _ =>
    let d := c.drawAt i
    (.raw (if raw then d else if c.pfx.fd = 9 then d / 2 ^ 32
      else (roundNum c.pfx.fd .rtz 0 false false (.fin false (2 * (d / 2 ^ 40) + 1) (-25))).1), 0#5)
  | _ => (.raw 0, 0#5)

/-- An elementwise operation (R428). -/
def State.runElems (s : State) (t : TileId) (c : Cmd) (L : Nat) : State × FpFlags :=
  passes L c.opD.sh.n (fun (a : State × FpFlags) idx =>
    let s := a.1
    let l := idx.map (fun i =>
      let on := s.active t c i
      let r := if on then s.vElem t c i else (.raw 0, 0#5)
      (({ i := i, act := on, res := r.1 } : VOut), r.2))
    let (s1, f) := s.putOuts t c c.pfx.mz (l.map (·.1))
    (s1, l.foldl (fun f x => f ||| x.2) (a.2 ||| f))) (s, 0#5)

/-! ## VSCAT, VPACK -/

/-- VSCAT (R146). -/
def State.runScat (s : State) (t : TileId) (c : Cmd) (L : Nat) : State :=
  passes L c.opA.sh.n (fun s idx =>
    s.putCodes t c.ctx c.opD (idx.filterMap (fun i =>
      let j := sgnVal 32 (s.elem t c.ctx c.opB i)
      if s.active t c i = true ∧ 0 ≤ j ∧ j < (c.opD.sh.n : Int) then some (j.toNat, s.elem t c.ctx c.opA i) else none))) s

/-- VPACK (R147). -/
def State.runPack (s : State) (t : TileId) (c : Cmd) (L : Nat) : State :=
  let (s1, n) := passes L c.opA.sh.n (fun (a : State × Nat) idx =>
    let sel := idx.filter (fun i => a.1.elem t c.ctx c.opB i != 0)
    let codes := sel.map (fun i => a.1.elem t c.ctx c.opA i)
    let l := ((List.range codes.length).map (fun k => a.2 + k)).zip codes
    (a.1.putCodes t c.ctx c.opD (l.filter (fun x => decide (x.1 < c.opD.sh.n))), a.2 + codes.length)) (s, 0)
  s1.putElem t c.ctx c.opC 0 (n % 2 ^ 32)

/-! ## Reductions and scans (R86, R149, R150) -/

/-- Do the values of a command reduce in INT32 (R86)? -/
def Cmd.intRed (c : Cmd) : Bool := isInt c.pfx.fa && !c.pfx.bsa

/-- An element brought into FP32, or into INT32 (R86). -/
def Cmd.into32 (c : Cmd) (v : Num) : Num × FpFlags :=
  if c.intRed then (v, 0#5)
  else
    let r := roundNum 0 .rne 0 false false v
    (decodeNum 0 r.1, r.2)

/-- A value of 32 bits two's complement. -/
def wrap32 (x : Int) : Int := sgnVal 32 (x % ((2 ^ 32 : Nat) : Int)).toNat

/-- The integer of a finite value with exponent 0. -/
def Num.toInt : Num → Int
  | .fin n m e => scaled 0 (.fin n m e)
  | _ => 0

/-- combine of R86, in FP32 or in INT32. -/
def combine32 (fn : RedFn) (ints : Bool) (p q : Num) : Num × FpFlags :=
  match fn with
  | .add =>
    if ints then (.ofInt (wrap32 (p.toInt + q.toInt)), 0#5)
    else
      let r := sumNum .rne [p, q]
      let k := roundNum 0 .rne 0 false false r.1
      (decodeNum 0 k.1, r.2 ||| k.2)
  | .min => minmaxNum false p q
  | .max => minmaxNum true p q

/-- The identities of R86. -/
def identity32 (fn : RedFn) (ints : Bool) : Num :=
  match fn with
  | .add => if ints then .zero false else .zero true
  | .min => .inf false
  | .max => .inf true

/-- The largest power of two below `n`, for n ≥ 2. -/
def pow2Below (n : Nat) : Nat := 2 ^ Nat.log2 (n - 1)

/-- tree(0, n) of R86; `k` bounds its depth. -/
def tree32 (f : Num → Num → Num × FpFlags) : Nat → List Num → Num × FpFlags
  | 0, l => (l.headD (.zero false), 0#5)
  | k + 1, l =>
    match l with
    | [] => (.zero false, 0#5)
    | [x] => (x, 0#5)
    | l =>
      let m := pow2Below l.length
      let a := tree32 f k (l.take m)
      let b := tree32 f k (l.drop m)
      let r := f a.1 b.1
      (r.1, a.2 ||| b.2 ||| r.2)

/-- A row reduced: the identity where it has no element. -/
def Cmd.reduce (c : Cmd) (fn : RedFn) (l : List Num) : Num × FpFlags :=
  if l.isEmpty then (identity32 fn c.intRed, 0#5) else tree32 (combine32 fn c.intRed) 33 l

/-- What a row operation carries from pass to pass. -/
structure RowAcc where
  s   : State
  f   : FpFlags
  /-- Included elements of the row so far: place in the row, linear index, value. -/
  row : List (Nat × Nat × Num)
  /-- Results of rows that have ended and are not yet written. -/
  out : List (Nat × Num)

/-- The results of rows that a pass of VRED writes, and those that it keeps: a block of a block-scaled destination is written whole, in
the pass in which the last of its rows ends, so that its scale is that of all its rows (R427; log 55). `ended` is the number of
rows that have ended. -/
def Cmd.redSplit (c : Cmd) (ended : Nat) (l : List (Nat × Num)) : List (Nat × Num) × List (Nat × Num) :=
  if c.pfx.bsd && ended < c.opD.sh.n then l.partition (fun x => decide (x.1 / 32 < ended / 32)) else (l, [])

/-- VRED (R149, R428): a row is written in the pass of its last element, with its block where d is block-scaled. -/
def State.runRed (s : State) (t : TileId) (c : Cmd) (fn : RedFn) (L : Nat) : State × FpFlags :=
  let m := c.rowLen
  let a := passes L c.opA.sh.n (fun (a : RowAcc) idx =>
    let s := a.s
    let a1 := idx.foldl (fun (a : RowAcc) i =>
      let a := if s.active t c i then
          let v := c.into32 (s.vA t c i)
          { a with row := a.row ++ [(i % m, i, v.1)], f := a.f ||| v.2 }
        else a
      if (i + 1) % m = 0 then
        let r := c.reduce fn (a.row.map (·.2.2))
        { a with row := [], f := a.f ||| r.2, out := a.out ++ [(i / m, r.1)] }
      else a) a
    let (now, later) := c.redSplit ((idx.getLastD 0 + 1) / m) a1.out
    let (s1, f) := s.putOuts t c false (now.map (fun x => { i := x.1, act := true, res := .num x.2 }))
    { a1 with s := s1, f := a1.f ||| f, out := later }) { s := s, f := 0#5, row := [], out := [] }
  (a.s, a.f)

/-- VSCAN (R150). -/
def State.runScan (s : State) (t : TileId) (c : Cmd) (fn : RedFn) (hf : Bool) (excl : Bool) (L : Nat) : State × FpFlags :=
  let m := c.opA.sh.row
  let (s1, f, _) := passes L c.opA.sh.n (fun (a : State × FpFlags × Num) idx =>
    let s := a.1
    let (l, f, y) := idx.foldl (fun (b : List VOut × FpFlags × Num) i =>
      let v := c.into32 (s.vA t c i)
      let start := i % m == 0 || (hf && s.elem t c.ctx c.opB i != 0)
      let r := if start then (v.1, 0#5) else combine32 fn c.intRed b.2.2 v.1
      let out := if excl then (if start then identity32 fn c.intRed else b.2.2) else r.1
      (b.1 ++ [{ i := i, act := s.active t c i, res := .num out }], b.2.1 ||| v.2 ||| r.2, r.1)) ([], a.2.1, a.2.2)
    let (s2, g) := s.putOuts t c c.pfx.mz l
    (s2, f ||| g, y)) (s, 0#5, Num.zero false)
  (s1, f)

/-! ## Token records (R152 to R156) -/

/-- A token record (R152). -/
def tokenRec (tok ver val : Nat) (nover empty tie nan : Bool) : Nat :=
  tok % 2 ^ 24 * 2 ^ 40 + ver * 2 ^ 24 + val * 2 ^ 8 + b2n nover * 8 + b2n empty * 4 + b2n tie * 2 + b2n nan

/-- round(FP32, RNE, v) as a value. -/
def fp32 (v : Num) : Num := decodeNum 0 (roundNum 0 .rne 0 false false v).1

/-- round(FP32, RNE, −ln(−ln u)) for u = (2k + 1) / 2^25 (R154, R91). -/
def gumbel (k : Nat) : Num :=
  let l := fixLn (2 * k + 1) (-25)
  fp32 (ofFix (-(fixLn l.natAbs (-(fixP : Int)))))

/-- A row of VSAMP: eligible elements with place, s and z (R154). -/
def Cmd.sampRow (c : Cmd) (temp : Num) (row : List (Nat × Nat × Num)) : List (Nat × Num × Num) :=
  row.filterMap (fun (i0, j, x) =>
    let z := fp32 (divNum (fp32 x) temp).1
    let k := c.drawAt j / 2 ^ 40
    let sc := fp32 (sumNum .rne [z, gumbel k]).1
    if sc.isNan then none else some (i0, sc, z))

/-- The record of a row of VSAMP (R154). -/
def Cmd.sampRec (c : Cmd) (base ver : Nat) (temp : Num) (row : List (Nat × Nat × Num)) : Nat :=
  let nan := row.any (fun x => x.2.2.isNan)
  let el := c.sampRow temp row
  match el with
  | [] => tokenRec 0xFFFFFF ver 0x7FC0 false true false nan
  | e :: r =>
    let best := r.foldl (fun b x => if cmpNum b.2.1 x.2.1 < 0 then x else b) e
    let tie := decide (1 < (el.filter (fun x => cmpNum x.2.1 best.2.1 == 0)).length)
    let m := (tree32 (combine32 .max false) 33 (el.map (·.2.2))).1
    let es := el.map (fun x => decodeNum 0 (specFp32 .exp false (fp32 (sumNum .rne [x.2.2, m.neg]).1)).1)
    let sum := (tree32 (combine32 .add false) 33 es).1
    let ln := decodeNum 0 (specFp32 .log false sum).1
    let lp := (sumNum .rne [fp32 (sumNum .rne [best.2.2, m.neg]).1, ln.neg]).1
    tokenRec (base + best.1) ver (roundNum 1 .rne 0 false false lp).1 false false tie nan

/-- Is `x` ranked before `y` by VTOPK: greater, −0 below +0, ties to the lower place (R155)? -/
def rankBefore (x y : Nat × Num) : Bool := ltNum y.2 x.2 || (!ltNum x.2 y.2 && decide (x.1 < y.1))

/-- The records of a row of VTOPK (R155); VAL is flushed under FR16 and sets no NX (log 55). -/
def Cmd.topRecs (c : Cmd) (base k : Nat) (row : List (Nat × Nat × Num)) : List Nat :=
  let nan := row.any (fun x => x.2.2.isNan)
  let nover := c.ver.isNone
  let ver := match c.ver with | some v => v.toNat | none => 0xFFFF
  let el := ((row.filter (fun x => !x.2.2.isNan)).map (fun x => (x.1, x.2.2))).mergeSort rankBefore
  (List.range k).map (fun i => match el[i]? with
    | none => tokenRec 0xFFFFFF ver 0x7FC0 nover true false nan
    | some x =>
      let tie := el.any (fun y => y.1 != x.1 && !ltNum x.2 y.2 && !ltNum y.2 x.2)
      tokenRec (base + x.1) ver (roundNum 1 .rne 0 (c.fr 1) false x.2).1 nover false tie nan)

/-- VSAMP and VTOPK: the records of a row are written together, in the pass of its last element (R156, R428). `f` gives them. -/
def State.runRecs (s : State) (t : TileId) (c : Cmd) (k L : Nat) (f : List (Nat × Nat × Num) → List Nat) : State × FpFlags :=
  let m := c.opA.sh.row
  let a := passes L c.opA.sh.n (fun (a : RowAcc × List (Nat × Nat)) idx =>
    let s := a.1.s
    let (a1, out) := idx.foldl (fun (a : RowAcc × List (Nat × Nat)) i =>
      let r := if s.active t c i then
          let v := s.vA t c i
          { a.1 with row := a.1.row ++ [(i % m, i, v)], f := a.1.f ||| flagIf v.isSig fNV }
        else a.1
      if (i + 1) % m = 0 then
        ({ r with row := [] }, a.2 ++ ((List.range k).map (fun q => i / m * k + q)).zip (f r.row))
      else (r, a.2)) (a.1, [])
    ({ a1 with s := s.putCodes t c.ctx c.opD out }, [])) ({ s := s, f := 0#5, row := [], out := [] }, [])
  (a.1.s, a.1.f)

/-! ## The engine -/

/-- Everything that a vector operation does to the state, with its flags (R136, R428). -/
def State.runVec (s : State) (t : TileId) (c : Cmd) : State × FpFlags :=
  let L := vecL c.vecOpds
  match c.ins with
  | .vscat _ => (s.runScat t c L, 0#5)
  | .vpack _ => (s.runPack t c L, 0#5)
  | .vred fn _ _ => s.runRed t c fn L
  | .vscan fn _ hf excl => s.runScan t c fn hf.isSome excl L
  | .vsamp _ _ r temp _ =>
    let base := lowBits (c.regs[r]) 24
    s.runRecs t c 1 L (fun row => [c.sampRec base ((c.ver.getD 0#16).toNat) (decodeNum 0 temp.toNat) row])
  | .vtopk _ _ r k _ =>
    let base := lowBits (c.regs[r]) 24
    s.runRecs t c k.toNat L (fun row => c.topRecs base k.toNat row)
  | _ => s.runElems t c L

/-- VECTOR_OPERATION_START (R136): the next operation of q2; none in a held clk (20 R421). -/
def execVectorOperationStart (t : TileId) (s : State) : Out State :=
  let x := s.tile t
  let (c, q) := startHead (x.cmdq[(1 : Fin 4)])
  if x.vec.isSome || !s.startsOn t c || s.heldNow then .next s
  else
    .next (s.setTile t { x with cmdq := x.cmdq.set 1 q, vec := c })

/-- VECTOR_COMPLETION (R137). -/
def execVectorCompletion (t : TileId) (s : State) : Out State :=
  match (s.tile t).vec with
  | none => .next s
  | some c =>
    if !s.goesOn t c.id then .next s
    else .next ((s.modTile t (fun x => { x with vec := none })).finishOp t 1 c c.vecOpds (fun s => s.runVec t c))

end Machine
end Sys2Proof
end

