-- ==== Sys2Proof/Machine/Tree.lean ====
section
/-! DEFINITION. The reduction tree (10 R271 to R274): its slots, participants and parents, the rounds that its routers combine, and
the deliveries. Contributions enter from the matrix engine (06 R175) and from RTRE (R275). -/

namespace Sys2Proof
namespace Machine

/-! ## Slots and participants (R271) -/

/-- The participants of a slot in row-major order: the present tiles of its rectangle. -/
def State.treeParts (s : State) (p : Fin 24) (e : RedEnt) : List TileId :=
  let q := s.parts[p]
  ((List.range (min (e.pr1 + 1) q.height - e.pr0)).flatMap (fun i =>
    (List.range (min (e.pc1 + 1) q.width - e.pc0)).map (fun j => tileAt (q.row0 + e.pr0 + i) (q.col0 + e.pc0 + j)))).filter (s.presentIn p)

/-- The entry of a slot in which a tile takes part, with its partition and the participants. -/
def State.treeAt (s : State) (t : TileId) (slot : Nat) : Option (RedEnt × Fin 24 × List TileId) :=
  match s.redEnt t slot, s.partOf t with
  | some e, some p =>
    let ps := s.treeParts p e
    if ps.contains t then some (e, p, ps) else none
  | _, _ => none

/-- The root of a slot. -/
def State.rootOf (s : State) (p : Fin 24) (e : RedEnt) : TileId :=
  tileAt ((s.parts[p]).row0 + e.rootr) ((s.parts[p]).col0 + e.rootc)

/-! ## The tree (R272) -/

/-- The numbers from next to `a` towards `b`, `b` included, nearest to `a` first. -/
def towards (a b : Nat) : List Nat :=
  if a < b then (List.range (b - a)).map (fun i => a + 1 + i) else (List.range (a - b)).map (fun i => a - 1 - i)

/-- Distance. -/
def natDist (a b : Nat) : Nat := if a < b then b - a else a - b

/-- Of the participants in a column, the one whose row is nearest to `r`, a tie going to the row nearer the root's. -/
def nearestRow (ps : List TileId) (c r rootr : Nat) : Option TileId :=
  (ps.filter (fun t => colOf t == c)).foldl (fun b t => match b with
    | none => some t
    | some u =>
      if natDist (rowOf t) r < natDist (rowOf u) r
        ∨ (natDist (rowOf t) r = natDist (rowOf u) r ∧ natDist (rowOf t) rootr < natDist (rowOf u) rootr) then some t else b) none

/-- The parent of a participant; none for the root. -/
def treeParent (ps : List TileId) (root t : TileId) : Option TileId :=
  if t = root then none
  else
    let r := rowOf t
    let c := colOf t
    match ((towards r (rowOf root)).map (fun i => tileAt i c)).find? ps.contains with
    | some u => some u
    | none => match ((towards c (colOf root)).map (fun j => tileAt r j)).find? ps.contains with
      | some u => some u
      | none => (towards c (colOf root)).findSome? (fun j => nearestRow ps j r (rowOf root))

/-- The place of a child in the order in which its parent combines: north, west, south, east (R87). -/
def childDir (parent t : TileId) : Nat :=
  if colOf t = colOf parent then (if rowOf parent < rowOf t then 2 else 0) else (if colOf parent < colOf t then 3 else 1)

/-- The children of a participant, in the order in which it combines them. -/
def treeChildren (ps : List TileId) (root t : TileId) : List TileId :=
  let kids := ps.filter (fun u => treeParent ps root u == some t)
  [0, 1, 2, 3].flatMap (fun d => kids.filter (fun u => childDir t u == d))

/-! ## Rounds (R273) -/

/-- One element combined (R80, R87): no flush, no flag, NaN as the canonical one. -/
def combineCode (fn : RedFn) (a b : BitVec 32) : BitVec 32 :=
  BitVec.ofNat 32 (roundNum 0 .rne 0 false false (combine32 fn false (decodeNum 0 a.toNat) (decodeNum 0 b.toNat)).1).1

/-- Two rounds combined; different operations leave no operation. -/
def Round.join (a b : Round) : Round :=
  match a.op, b.op with
  | some f, some g =>
    if f = g then ⟨some f, List.zipWith (combineCode f) a.vals b.vals⟩ else ⟨none, a.vals⟩
  | _, _ => ⟨none, a.vals⟩

/-- The total of a round, as it is delivered. -/
def Round.total (r : Round) : List (BitVec 32) :=
  r.vals.map (fun v => if r.op.isNone || (decodeNum 0 v.toNat).isNan then BitVec.ofNat 32 (canonNan 0) else v)

/-- A slot of a tile's router changed. -/
def Tile.modTree (x : Tile) (k : Fin 32) (f : TreeSlot → TreeSlot) : Tile := { x with tree := x.tree.set k (f x.tree[k]) }

/-- Rounds that a router holds from one source, at most. -/
def treeRoom : Nat := 2

/-- The rounds of a child that a router holds. -/
def TreeSlot.from_ (z : TreeSlot) (u : TileId) : List Round := tget [] z.kids u

/-- The head round of every source taken away. -/
def TreeSlot.advance (z : TreeSlot) (kids : List TileId) : TreeSlot :=
  { z with own := z.own.tail, kids := kids.foldl (fun k u => tset k u (tget [] k u).tail) z.kids }

/-- The tiles that receive a total, each with its part of it (R274). -/
def deliveries (e : RedEnt) (ps : List TileId) (root : TileId) (v : List (BitVec 32)) : List (TileId × List (BitVec 32)) :=
  match e.mode with
  | 0 => [(root, v)]
  | 1 => ps.map (fun t => (t, v))
  | _ =>
    let n := v.length / ps.length
    ((List.range ps.length).zip ps).map (fun x => (x.2, (v.drop (x.1 * n)).take n))

/-- A router that holds the round of each child and of its own tile combines them and sends the result to its parent, which has
room for it; the root's is the total (R273). -/
def State.roundStep (s : State) (t : TileId) (k : Fin 32) : Option State :=
  match s.treeAt t k.val with
  | none => none
  | some (e, p, ps) =>
    let root := s.rootOf p e
    let kids := treeChildren ps root t
    let z := (s.tile t).tree[k]
    match z.own, kids.mapM (fun u => (z.from_ u).head?) with
    | own :: _, some rs =>
      let r := match rs with
        | [] => own
        | a :: l => (l.foldl Round.join a).join own
      let s1 := s.modTile t (fun x => x.modTree k (fun z => z.advance kids))
      match treeParent ps root t with
      | some u =>
        if (((s.tile u).tree[k]).from_ t).length < treeRoom then
          some (s1.modTile u (fun x => x.modTree k (fun z => { z with kids := tset z.kids t (z.from_ t ++ [r]) })))
        else none
      | none =>
        some ((deliveries e ps root r.total).foldl (fun s d =>
          s.modTile d.1 (fun x => x.modTree k (fun z => { z with deliv := z.deliv ++ [d.2] }))) s1)
    | _, _ => none

/-- ROUND_COMBINE (R273). -/
def execRoundCombine (t : TileId) (k : Fin 32) (s : State) : Out State := .next ((s.roundStep t k).getD s)

/-! ## Deliveries (R274) -/

/-- Step 4 of a delivery: DTOK enters q7 where it has room. -/
def Tile.pushDtok (x : Tile) (k : Fin 32) (e : RedEnt) : Tile :=
  if 0 < x.tokFree 3 then
    { (x.modTree k (fun z => { z with tokPending := false })) with tokq := x.tokq.set 3 (x.tokq[(3 : Fin 4)] ++ [e.dtok]) }
  else x.modTree k (fun z => { z with tokPending := true })

/-- The bytes of a delivery. -/
def totalBytes (v : List (BitVec 32)) : List Byte := (v.map (fun c => leBytes 4 c.toNat)).flatten

/-- A delivery (R274): behind range locks, then the elements, the count, and the token, which waits for room in q7. -/
def State.deliveryStep (s : State) (t : TileId) (k : Fin 32) : Option State :=
  match s.redEnt t k.val with
  | none => none
  | some e =>
    let x := s.tile t
    let z := x.tree[k]
    if z.tokPending then (if 0 < x.tokFree 3 then some (s.setTile t (x.pushDtok k e)) else none)
    else match z.deliv with
      | [] => none
      | v :: r =>
        let bs := totalBytes v
        if x.guarded .acc e.dofs bs.length true then none
        else if s.poisonHit t .acc e.dofs bs.length true then some (s.stopAt t (s.poisonCause t .acc e.dofs bs.length))
        else
          let s1 := (s.lwrite t .acc e.dofs bs 0#16).modTile t (fun x => x.modTree k (fun z =>
            { z with deliv := r, count := z.count + 1 }))
          some (if e.dn then s1.modTile t (fun x => x.pushDtok k e) else s1)

/-- TREE_DELIVERY (R274). -/
def execTreeDelivery (t : TileId) (k : Fin 32) (s : State) : Out State := .next ((s.deliveryStep t k).getD s)

end Machine
end Sys2Proof
end

