-- ==== Sys2Proof/Machine/Matrix.lean ====
section
/-! DEFINITION. Matrix instructions (06 R157 to R176): their issue against the issue-side copy, and what the matrix engine does with
them, remote drains and drains to the reduction tree included. -/

namespace Sys2Proof
namespace Machine

/-! ## Formats (R158, R161) -/

/-- Group size, integer accumulation, RS mode? of a pair of formats: B, then A. -/
def mxPair (fb fa : Nat) : Option (Nat × Bool × Bool) :=
  if fb = 1 ∧ fa = 1 ∨ fb = 2 ∧ fa = 2 then some (1, false, true)
  else if (fb = 3 ∨ fb = 4) ∧ (fa = 3 ∨ fa = 4) then some (2, false, true)
  else if (fb = 7 ∨ fb = 8) ∧ (fa = 7 ∨ fa = 8) then some (2, true, true)
  else if fb = 6 ∧ (fa = 3 ∨ fa = 4) then some (4, false, false)
  else if fb = 5 ∧ fa = 5 then some (8, false, false)
  else none

/-- Group size of a weight format. -/
def mxGroup (fb : Nat) : Nat := if fb ≤ 2 then 1 else if fb = 6 then 4 else if fb = 5 then 8 else 2

/-- Operand formats of the engine. -/
def mxFmts : List Nat := [1, 2, 3, 4, 5, 6, 7, 8]
/-- Formats that may be block-scaled. -/
def mxScaled : List Nat := [3, 4, 5, 6]

/-- What a matrix form allows in its prefix (R161); MCFG and MZERO allow none. -/
def mxForm (fd : Nat) : Instr → PForm
  | .mload .. => { dfl := (0, 1, 0), okB := mxFmts, bsB := true, bsFmt := mxScaled }
  | .mmul .. | .mmulRs .. =>
    { dfl := (1, 1, 0), okA := mxFmts, okB := mxFmts, okD := [0, 9], bsA := true, bsB := true, bsFmt := mxScaled }
  | _ => { dfl := (0, 0, 0), okD := [0, 1, 2, 3, 4, 7, 8, 9], rounds := decide (1 ≤ fd) && decide (fd ≤ 4) }

/-- The notify bit and token. -/
def mxTok : Instr → Tok
  | .mcfg _ _ tk | .mload _ _ tk | .mzero tk | .mmul _ _ _ tk | .mmulRs _ _ tk | .mdrain _ _ tk | .mdrainTree _ _ tk => tk
  | .mdrainRem m => m.tk
  | _ => ⟨false, 0#16⟩

/-- What a form asks of its formats and of the issue-side copy (R158, R159, R161), and of its reduction slot (R175, R275). -/
def State.mxLegal (s : State) (i : Instr) (x : Pfx) : Bool :=
  let m := s.my.mat
  let drain := m.irs && (if m.iiacc then decide (7 ≤ x.fd) else decide (x.fd ≤ 4))
  match i with
  | .mcfg .. => s.pfx?.isNone
  | .mzero _ => s.pfx?.isNone && m.irs
  | .mload _ west _ => !m.irs && (!west || mxGroup x.fb == 1)
  | .mmul _ _ _ _ =>
    !m.irs && (match mxPair x.fb x.fa, m.iblk with
      | some (_, int, _), some (f, sc, _) =>
        f == x.fb && sc == x.bsb && int == m.iiacc && x.fd == (if m.iiacc then 9 else 0)
      | _, _ => false)
  | .mmulRs _ _ _ =>
    m.irs && (match mxPair x.fb x.fa with
      | some (_, int, rs) => rs && int == m.iiacc && x.fd == (if m.iiacc then 9 else 0)
      | none => false)
  | .mdrain .. | .mdrainRem _ => drain
  | .mdrainTree slot _ _ => drain && x.fd == 0 && decide (slot.toNat < 32) && (match s.treeAt s.ct slot.toNat with
      | some (e, _, _) => e.len == 256
      | none => false)
  | _ => false

/-! ## Operands (R162) -/

/-- The shape records of d, a and b. -/
def mxRegs : Instr → Option Reg × Option Reg × Option Reg
  | .mload a _ _ => (none, some a, none)
  | .mmul d a _ _ => (some d, some a, none)
  | .mmulRs a b _ => (none, some a, some b)
  | .mdrain d _ _ => (some d, none, none)
  | _ => (none, none, none)

/-- The operands of a command with the spaces that R162 allows. -/
def Cmd.mxOpds (c : Cmd) : List Opd :=
  let a (sp : List Nat) : Opd := { sh := c.a.getD default, bits := fwidth c.pfx.fa, bs := c.pfx.bsa, dst := false, spcs := sp }
  let b (h : Option Shape) (sp : List Nat) : Opd :=
    { sh := h.getD default, bits := fwidth c.pfx.fb, bs := c.pfx.bsb, dst := false, spcs := sp }
  let d (sp : List Nat) : Opd := { sh := c.d.getD default, bits := fwidth c.pfx.fd, bs := false, dst := true, spcs := sp }
  match c.ins with
  | .mload .. => [b c.a [2]]
  | .mmul .. => [d [4], a [3]]
  | .mmulRs .. => [a [3], b c.b [2, 3]]
  | .mdrain .. => [d [3, 4]]
  | _ => []

/-- An extent of a shape. -/
def Shape.extAt (h : Shape) (j : Nat) : Nat := h.ext.getD j 1

/-- A two-dimensional shape with the given extents. -/
def Shape.is2 (h : Shape) (e0 : Nat) (e1 : Option Nat) : Bool :=
  h.rank == 1 && h.extAt 0 == e0 && (match e1 with | some n => h.extAt 1 == n | none => true)

/-- The record whose shape does not match the form (R162), if any. Which one is named where two are wrong, or where M of two differs, is the
model's choice (log 63): d's before a's in WS mode, a's before b's in RS mode, and d's or b's for M. -/
def Cmd.mxBad (c : Cmd) : Option Nat :=
  let g := mxGroup c.pfx.fb
  let chk (h : Option Shape) (e0 : Nat) (e1 : Option Nat) : Option Nat := match h with
    | some h => if h.is2 e0 e1 then none else some h.at_
    | none => none
  let m (h : Option Shape) : Option Nat := h.bind (fun h => if h.rank = 1 then some (h.extAt 1) else none)
  let l : List (Option Nat) := match c.ins with
    | .mload .. => [chk c.a (16 * g) (some 16)]
    | .mmul .. => [chk c.d 16 (m c.a), chk c.a (16 * g) none]
    | .mmulRs .. => [chk c.a 16 none, chk c.b 16 (m c.a)]
    | .mdrain .. => [match c.d with | some h => if h.n = 256 then none else some h.at_ | none => none]
    | _ => []
  l.findSome? (fun o => o)

/-- A destination that the command also reads (R164). -/
def Cmd.mxReads (c : Cmd) : List Opd :=
  match c.ins with
  | .mmul _ _ acc _ => if acc then (c.mxOpds.filter (·.dst)).map (fun o => { o with dst := false }) else []
  | _ => []

/-! ## Remote drains (R173) -/

/-- The stores of a remote drain, at 64 bytes each. -/
def drainStores (fd : Nat) : Nat := 256 * (fwidth fd / 8) / 64

/-- The address of store `j`. -/
def drainAddr (t : TileId) (ofs j : Nat) : Word := gaddr (rowOf t) (colOf t) 4 (ofs + 64 * j)

/-- Steps 1 to 3 of R173, then the limit of R216. -/
def State.drainChk (s : State) (i : Instr) (x : Pfx) : Chk :=
  match i with
  | .mdrainRem m =>
    let rc := s.namedTile (s.reg m.a) m.pr
    let t := tileAt rc.1 rc.2
    let o := m.ofs.toNat
    let g := gaddr rc.1 rc.2 4 o
    let ok := match s.partOf s.ct with
      | some p => (s.parts[p]).covers t && !s.absent t
      | none => false
    firstOf [
      fun _ => need ok .remoteRefused g,
      fun _ => need (o % 64 == 0) .misaligned (spcTval 4 o),
      fun _ => need (decide (o + 64 * drainStores x.fd ≤ spcSize .acc)) .remoteRefused g,
      fun _ => s.limitChk (drainStores x.fd)]
  | _ => .ok

/-- The posted records of a remote drain, entered at issue, with the command that knows them. -/
def State.drainPost (s : State) (c : Cmd) : State × Cmd :=
  match c.ins with
  | .mdrainRem m =>
    let rc := s.namedTile (s.reg m.a) m.pr
    let t := tileAt rc.1 rc.2
    let n := drainStores c.pfx.fd
    let acc (j : Nat) : RAcc := {
      virt := false, addr := drainAddr t m.ofs.toNat j, op := .store (List.replicate 64 0#8), vc := .vc0, wc := .none, post := true
      rel := false, col := m.col, acq := false, d := 0, tag := c.ctx }
    let ids := (List.range n).map (fun j => s.fresh + j)
    let recs := (List.range n).map (fun j => s.postedRec (acc j) (s.fresh + j))
    (({ s with fresh := s.fresh + n }).modMy (fun x => { x with posted := x.posted ++ recs }), { c with posted := ids, dest := t })
  | _ => (s, c)

/-! ## Issue (R159, R163 to R166) -/

/-- The command of a matrix instruction. -/
def State.mxCmd (s : State) (i : Instr) (x : Pfx) : Cmd :=
  let (d, a, b) := mxRegs i
  { s.sample i (mxTok i) x with d := d.bind s.shapeAt, a := a.bind s.shapeAt, b := b.bind s.shapeAt }

/-- The shape records that a matrix instruction names. -/
def mxRecs (i : Instr) : List Reg :=
  let (d, a, b) := mxRegs i
  d.toList ++ a.toList ++ b.toList

/-- Counter values that a drain takes at issue (R172). -/
def Cmd.mxDraws (c : Cmd) : Nat :=
  match c.ins with
  | .mdrain .. | .mdrainRem _ | .mdrainTree .. => if c.pfx.rm = 5 then 256 else 0
  | _ => 0

/-- The issue-side copy after an instruction (R159). -/
def Matrix.note (m : Matrix) (i : Instr) (x : Pfx) : Matrix :=
  match i with
  | .mcfg rs iacc _ => { m with irs := rs, iiacc := iacc, iblk := none }
  | .mload _ west _ => { m with iblk := some (x.fb, x.bsb, west) }
  | _ => m

/-- The issue of a matrix instruction. -/
def matOp (i : Instr) (s : State) : Out State :=
  match s.enginePfx (mxForm (match s.pfx? with | some p => pfxField p 8 4 | none => 0) i) with
  | none => run s .illegal id
  | some x =>
    let c := s.mxCmd i x
    run s (firstOf [
        fun _ => legal (s.mxLegal i x && s.my.hold[(0 : Fin 4)] != some s.ck),
        fun _ => s.recsChk ((mxRecs i).map (fun r => (r, 64))),
        fun _ => s.shapesChk (mxRecs i),
        fun _ => match c.mxBad with
          | some o => .trap .recordRefused (BitVec.ofNat 64 o)
          | none => .ok,
        fun _ => s.opdsChk (c.mxOpds ++ c.mxReads),
        fun _ => s.drainChk i x,
        fun _ => s.issueChk 1 false 0 c.tok.n c.mxOpds])
      (fun s =>
        let (s1, c1) := s.drainPost c
        (s1.modMy (fun t => { t.rngAdvance c.mxDraws with mat := t.mat.note i x })).issue 1 0 c.mxOpds c1 c1.isQ)

/-- MCFG (R167). -/
def execMcfg (rs iacc : Bool) (tk : Tok) (s : State) : Out State := matOp (.mcfg rs iacc tk) s
/-- MLOAD (R169). -/
def execMload (a : Reg) (west : Bool) (tk : Tok) (s : State) : Out State := matOp (.mload a west tk) s
/-- MZERO (R168). -/
def execMzero (tk : Tok) (s : State) : Out State := matOp (.mzero tk) s
/-- MMUL (R170). -/
def execMmul (d a : Reg) (acc : Bool) (tk : Tok) (s : State) : Out State := matOp (.mmul d a acc tk) s
/-- MMUL.rs (R171). -/
def execMmulRs (a b : Reg) (tk : Tok) (s : State) : Out State := matOp (.mmulRs a b tk) s
/-- MDRAIN (R172). -/
def execMdrain (d : Reg) (keep : Bool) (tk : Tok) (s : State) : Out State := matOp (.mdrain d keep tk) s
/-- MDRAIN.rem (R173). -/
def execMdrainRem (m : DrainRem) (s : State) : Out State := matOp (.mdrainRem m) s
/-- MDRAIN.tree (R175). -/
def execMdrainTree (slot : BitVec 8) (keep : Bool) (tk : Tok) (s : State) : Out State := matOp (.mdrainTree slot keep tk) s

/-! ## Accumulation (R85, R170, R171) -/

/-- The additive identity (R157). -/
def accIdentity (int : Bool) : Nat := if int then 0 else 0x80000000

/-- One group added to an accumulator code. -/
def Cmd.group (c : Cmd) (int : Bool) (acc : Nat × FpFlags) (ps : List (Num × FpFlags)) : Nat × FpFlags :=
  if int then
    let t := ps.foldl (fun a p => a + p.1.toInt) (decodeNum 9 acc.1).toInt
    ((t % ((2 ^ 32 : Nat) : Int)).toNat, acc.2)
  else
    let r := sumNum .rne (decodeNum 0 acc.1 :: ps.map (·.1))
    let k := roundNum 0 .rne 0 (c.fr 0) false r.1
    (k.1, ps.foldl (fun f p => f ||| p.2) (acc.2 ||| r.2 ||| k.2))

/-- The groups of `g` of a list, `n` of them at most. -/
def groupsOf {α : Type} (g : Nat) : Nat → List α → List (List α)
  | 0, _ => []
  | n + 1, l => if l.isEmpty then [] else l.take g :: groupsOf g n (l.drop g)

/-- All the products of an output element, in ascending k. -/
def Cmd.accumulate (c : Cmd) (int : Bool) (g : Nat) (acc : Nat) (ps : List (Num × FpFlags)) : Nat × FpFlags :=
  (groupsOf g ps.length ps).foldl (c.group int) (acc, 0#5)

/-- The operand at a place of a command's list. -/
def Cmd.mxAt (c : Cmd) (i : Nat) : Opd := c.mxOpds.getD i default

/-- Weight w[k][n] of the block in the array as a value; a scale covers 32 elements of the shape (R125, R169). -/
def StatBlock.weight (b : StatBlock) (c : Cmd) (k n : Nat) : Num :=
  let v := readNum b.fmt (c.fi b.fmt) (b.codes.getD (16 * k + n) 0)
  if b.scaled then scaleNum (b.scales.getD ((k + 16 * mxGroup b.fmt * n) / 32) 0) v else v

/-- MLOAD in the array (R169). -/
def State.loadBlock (s : State) (t : TileId) (c : Cmd) (west : Bool) : StatBlock :=
  let o := c.mxAt 0
  let g := mxGroup c.pfx.fb
  { fmt := c.pfx.fb, scaled := c.pfx.bsb, west := west
    codes := (List.range (256 * g)).map (fun i =>
      let k := i / 16
      let n := i % 16
      s.elem t c.ctx o (if west then n + 16 * k else k + 16 * g * n))
    scales := if c.pfx.bsb then (List.range o.sh.scales).map (fun j => s.scaleOf t c.ctx o (32 * j)) else [] }

/-- MMUL in WS mode (R170): all of d is read before any of it is written, in ascending order (log 63). -/
def State.runWs (s : State) (t : TileId) (c : Cmd) (acc : Bool) (b : StatBlock) : State × FpFlags :=
  let d := c.mxAt 0
  let a := c.mxAt 1
  let g := mxGroup c.pfx.fb
  let int := (s.tile t).mat.iacc
  let K := 16 * g
  let out := (List.range d.sh.n).map (fun i =>
    let n := i % 16
    let m := i / 16
    let a0 := if acc then s.elem t c.ctx d i else accIdentity int
    c.accumulate int g a0 ((List.range K).map (fun k => mulNum (s.elemNum t c a c.pfx.fa (k + K * m)) (b.weight c k n))))
  ((List.range out.length).foldl (fun s i => s.putElem t c.ctx d i (out.getD i (0, 0#5)).1) s,
    out.foldl (fun f r => f ||| r.2) 0#5)

/-- MMUL in RS mode (R171): the new accumulators. -/
def State.runRs (s : State) (t : TileId) (c : Cmd) : Vector (BitVec 32) 256 × FpFlags :=
  let a := c.mxAt 0
  let b := c.mxAt 1
  let g := mxGroup c.pfx.fb
  let m := (s.tile t).mat
  let M := a.sh.extAt 1
  let r (i : Fin 256) : Nat × FpFlags :=
    let p := i.val / 16
    let q := i.val % 16
    c.accumulate m.iacc g (m.acc[i]).toNat ((List.range M).map (fun k =>
      mulNum (s.elemNum t c a c.pfx.fa (p + 16 * k)) (s.elemNum t c b c.pfx.fb (q + 16 * k))))
  (Vector.ofFn (fun i => BitVec.ofNat 32 (r i).1), (List.finRange 256).foldl (fun f i => f ||| (r i).2) 0#5)

/-! ## Drains (R172 to R175) -/

/-- One accumulator value converted into FD; a value in the accumulator's own format is moved unchanged. -/
def Cmd.drainVal (c : Cmd) (int : Bool) (i code : Nat) : Nat × FpFlags :=
  let own := if int then 9 else 0
  if c.pfx.fd = own then (code, 0#5) else c.round c.pfx.fd false i (decodeNum own code)

/-- A drain starts: its values leave the array (R172), which goes back to the identity without `.keep`. -/
def Tile.startDrain (x : Tile) (c : Cmd) (keep : Bool) : Tile :=
  let m := x.mat
  let vs := (List.finRange 256).map (fun i => c.drainVal m.iacc i.val (m.acc[i]).toNat)
  let r : MRun := { cmd := c, done := false, failed := false, drain := some (vs.map (·.1)), flags := vs.foldl (fun f v => f ||| v.2) 0#5 }
  { x with mat := { m with
      acc := if keep then m.acc else Vector.replicate 256 (BitVec.ofNat 32 (accIdentity m.iacc))
      run := m.run ++ [r] } }

/-- The bytes of a remote drain. -/
def drainBytes (fd : Nat) (vs : List Nat) : List Byte := (vs.map (fun v => leBytes (fwidth fd / 8) v)).flatten

/-- The stores of a remote drain leave (R173). -/
def State.sendDrain (s : State) (t : TileId) (c : Cmd) (m : DrainRem) (vs : List Nat) : State :=
  let bs := drainBytes c.pfx.fd vs
  let rs : List Req := ((List.range c.posted.length).zip c.posted).map (fun (x : Nat × Nat) => {
    id := x.2, tile := t, slot := c.slot, uid := c.uid, op := .store ((bs.drop (64 * x.1)).take 64), virt := false
    addr := drainAddr c.dest m.ofs.toNat x.1, tag := c.ctx, ver := none, vc := .vc0, post := true, acq := false, d := 0
    drain := some c.id, phase := .out })
  { s with plane := s.plane ++ rs }

/-- Is the command a drain, and to where: 0 local, 1 remote, 2 tree? -/
def Cmd.drainDst (c : Cmd) : Option Nat :=
  match c.ins with
  | .mdrain .. => some 0
  | .mdrainRem _ => some 1
  | .mdrainTree .. => some 2
  | _ => none

/-- Has the command released the array? -/
def MRun.released (r : MRun) : Bool := r.done || r.drain.isSome

/-- Does the drain still hold the drain buffer: a local one until its write, one to the tree until its router has accepted it? -/
def MRun.buffered (r : MRun) : Bool := !r.done && (r.cmd.drainDst == some 0 || r.cmd.drainDst == some 2)

/-- MATRIX_COMMAND_START (R166, R172): the next command of q0 starts once the array is released, a drain once the drain buffer is
empty too; none in a held clk (20 R421). A drain to the tree passes its values on as they are, FI32 or not (log 63). -/
def execMatrixCommandStart (t : TileId) (s : State) : Out State :=
  let x := s.tile t
  let (c, q) := startHead x.cmdq[(0 : Fin 4)]
  let x1 := { x with cmdq := x.cmdq.set 0 q }
  if !s.startsOn t c || s.heldNow || !x.mat.run.all MRun.released then .next s
  else match c with
    | none => .next (s.setTile t x1)
    | some c =>
      if c.drainDst.isSome && x.mat.run.any MRun.buffered then .next s
      else match c.ins with
        | .mdrain _ keep _ => .next (s.setTile t (x1.startDrain c keep))
        | .mdrainRem m =>
          let x2 := x1.startDrain c m.keep
          .next ((s.setTile t x2).sendDrain t c m ((x2.mat.run.getLast?.bind (·.drain)).getD []))
        | .mdrainTree slot keep _ =>
          let x2 := x1.startDrain c keep
          let vs := ((x2.mat.run.getLast?.bind (·.drain)).getD []).map (BitVec.ofNat 32)
          let k : Contrib := { cmd := c, slot := Fin.ofNat 32 slot.toNat, round := ⟨some .add, vs⟩ }
          .next (s.setTile t { x2 with contribs := x2.contribs ++ [k] })
        | _ =>
          let r : MRun := { cmd := c, done := false, failed := false, drain := none, flags := 0#5 }
          .next (s.setTile t { x1 with mat := { x1.mat with run := x1.mat.run ++ [r] } })

/-! ## Completion (R137, R164, R166) -/

/-- A finished command at its completion: a failed one returns no token (R174, R262), and the flags that the conversions of a refused remote
drain have raised are dropped (log 63). -/
def State.matEnd (s : State) (t : TileId) (r : MRun) : State :=
  let os := r.cmd.mxOpds
  if r.failed then
    (s.modTile t (fun x =>
      let x1 := x.endOps r.cmd os false
      if r.cmd.tok.n && !r.freed then { x1 with resv := x1.resv.set 0 (x1.resv[(0 : Fin 4)] - 1) } else x1)).progressAt t
  else ((s.giveFlags t r.cmd r.flags).modTile t (fun x => (x.endOps r.cmd os true).complete 0 r.cmd.tok)).progressAt t

/-- The finished commands at the head complete, in issue order. -/
def State.matFlush (t : TileId) : Nat → State → State
  | 0, s => s
  | n + 1, s =>
    match (s.tile t).mat.run with
    | r :: rest =>
      if r.done then
        State.matFlush t n ((s.modTile t (fun x => { x with mat := { x.mat with run := rest } })).matEnd t r)
      else s
    | [] => s

/-- A command has finished: its result is there, and it completes when the commands before it have. -/
def State.matDone (s : State) (t : TileId) (id : Nat) (failed : Bool) (f : FpFlags) : State :=
  let s1 := s.modTile t (fun x => { x with mat := { x.mat with run := x.mat.run.map (fun r =>
    if r.cmd.id = id then { r with done := true, failed := r.failed || failed, flags := r.flags ||| f } else r) } })
  s1.matFlush t (s1.tile t).mat.run.length

/-- What a command does when it finishes (R167 to R172); destination elements that share bytes are written in ascending order (log 63). -/
def State.matRun (s : State) (t : TileId) (r : MRun) : State × FpFlags :=
  let c := r.cmd
  match c.ins with
  | .mcfg rs iacc _ => (s.modTile t (fun x => { x with mat := { x.mat with
      rs := rs, iacc := iacc, blk := none, acc := Vector.replicate 256 (BitVec.ofNat 32 (accIdentity iacc)) } }), 0#5)
  | .mzero _ => (s.modTile t (fun x => { x with mat := { x.mat with
      acc := Vector.replicate 256 (BitVec.ofNat 32 (accIdentity x.mat.iacc)) } }), 0#5)
  | .mload _ west _ =>
    let b := s.loadBlock t c west
    (s.modTile t (fun x => { x.unlock c.id with mat := { x.mat with blk := some b } }), 0#5)
  | .mmul _ _ acc _ =>
    match (s.tile t).mat.blk with
    | some b => s.runWs t c acc b
    | none => (s, 0#5)
  | .mmulRs .. =>
    let (v, f) := s.runRs t c
    (s.modTile t (fun x => { x with mat := { x.mat with acc := v } }), f)
  | .mdrain .. =>
    let vs := r.drain.getD []
    ((List.range vs.length).foldl (fun s i => s.putElem t c.ctx (c.mxAt 0) i (vs.getD i 0)) s, 0#5)
  | _ => (s, 0#5)

/-- MATRIX_COMPLETION (R166): the oldest command that is still at work in the tile finishes; poison that it would read stops the
partition (R401), and a write under a dead tag is refused (R347). -/
def execMatrixCompletion (t : TileId) (s : State) : Out State :=
  match (s.tile t).mat.run.find? (fun r => !r.done && r.cmd.drainDst != some 1 && r.cmd.drainDst != some 2) with
  | none => .next s
  | some r =>
    let c := r.cmd
    let os := c.mxOpds ++ c.mxReads
    if !s.goesOn t c.id then .next s
    else match s.opdsPoison t c.ctx os with
      | some (sp, w) => .next (s.stopAt t (s.poisonStop t sp (8 * w)))
      | none => match s.tryOut t (fun s => s.matRun t r) with
        | .dead s1 v => .next ((s1.matDone t c.id true 0#5).lateTrap t c.slot c.uid .localRights v)
        | .done s1 f => .next ((s1.clearPoison t c.ctx c.mxOpds).matDone t c.id false f)

/-- The wake message of a remote drain (R173): no payload, the strand's CTX and WID. -/
def wakeMsg (id : Nat) (t : TileId) (img : Nat) (c : Cmd) (m : DrainRem) : TMsg :=
  { id := id, src := .wake t, dst := c.dest, kind := .wake, slot := m.slot, stq := none, srow := rowOf t, scol := colOf t
    ctx := c.ctx, arg := if m.q then c.raw.getD 0#64 else c.regs[m.c], wid := c.wid, img := img, stl := false, pc := 0#64
    pay := [], mig := none, post := none, resv := none, back := none, dreg := 0, nacks := 0, sent := false, phase := .out }

/-- REMOTE_DRAIN_COMPLETION (R173, R174): every store of the oldest such drain is acknowledged or refused; without a refusal the
wake message, if any, enters the interface's wake entry once that is free. -/
def execRemoteDrainCompletion (t : TileId) (s : State) : Out State :=
  let x := s.tile t
  match x.mat.run.find? (fun r => !r.done && r.cmd.drainDst == some 1 && !s.storesOpen t r.cmd.id) with
  | none => .next s
  | some r =>
    if !s.goesOn t r.cmd.id then .next s
    else match r.cmd.ins with
      | .mdrainRem m =>
        if r.failed || !m.wk then .next (s.matDone t r.cmd.id false 0#5)
        else if s.msgs.any (fun q => q.src == .wake t) then .next s
        else .next ((s.sendMsg (wakeMsg s.fresh t x.img r.cmd m)).matDone t r.cmd.id false 0#5)
      | _ => .next s

end Machine
end Sys2Proof
end

