-- ==== Sys2Proof/Machine/Copy.lean ====
section
/-! DEFINITION. Copies (10 R254 to R263): the copy record, its checks, the issue of CPY, CPYF and CPYG, and what the copy engine does
with them. -/

namespace Sys2Proof
namespace Machine

/-! ## Copy records (R255, R256) -/

/-- Extents of the source: CPYG's highest dimension runs over GLIM slices (R260). -/
def CopyRec.sext (r : CopyRec) (gather : Bool) : List Nat := if gather then r.ext.take r.rank ++ [r.glim] else r.ext

/-- Lowest and highest byte of a side. -/
def sideSpan (base : Word) (ext : List Nat) (str : List Int) (esize : Nat) : Int × Int :=
  let (lo, hi) := spanOfs ext str
  ((base.toNat : Int) + lo, (base.toNat : Int) + hi + esize - 1)

/-- Is every address of a side a multiple of the element size? -/
def sideAligned (base : Word) (ext : List Nat) (str : List Int) (esize : Nat) : Bool :=
  base.toNat % esize == 0 && (ext.zip str).all (fun x => decide (x.1 ≤ 1) || x.2 % (esize : Int) == 0)

/-- A source side? Its span; CPYF has none. -/
def CopyRec.sspan (r : CopyRec) (gather : Bool) : Int × Int := sideSpan r.saddr (r.sext gather) r.sstr r.esize
/-- The span of the destination. -/
def CopyRec.dspan (r : CopyRec) : Int × Int := sideSpan r.daddr r.ext r.dstr r.esize

/-- A copy record as R255 lays it out; none where R257 step 2 refuses it. -/
def parseCopy (at_ : Nat) (bs : List Byte) (fill gather : Bool) : Option CopyRec :=
  let w (i : Nat) : Word := dwOf bs i
  let w0 := w 0
  let rank := field w0 48 4
  let dims := List.range (rank + 1)
  let r : CopyRec := {
    at_ := at_, rank := rank, esz := field w0 46 2, vc := field w0 38 2
    dbv := w0.getLsbD 31, dblk := Fin.ofNat 64 (field w0 24 6), sbv := w0.getLsbD 23, sblk := Fin.ofNat 64 (field w0 16 6)
    dk := field w0 10 2, sk := field w0 8 2, dspc := field w0 4 3, sspc := field w0 0 3
    saddr := w 1, daddr := w 2, glim := field (w 3) 0 32
    ext := dims.map (fun j => field (w (4 + 2 * j)) 0 32)
    dstr := dims.map (fun j => sfield (w (5 + 2 * j)) 32), sstr := dims.map (fun j => sfield (w (5 + 2 * j)) 0) }
  let rsv := field w0 52 12 + field w0 40 6 + field w0 32 6 + field w0 30 1 + field w0 22 1 + field w0 12 4 + field w0 7 1
    + field w0 3 1 + field (w 3) 32 32 + (dims.map (fun j => field (w (4 + 2 * j)) 32 32)).sum
    + ((List.range (9 - rank)).map (fun k => (w (6 + 2 * rank + 2 * k)).toNat + (w (7 + 2 * rank + 2 * k)).toNat)).sum
  let noSrc := r.sk == 0 && r.sspc == 0 && !r.sbv && r.sblk == 0 && r.saddr == 0#64 && r.sstr.all (fun x => x == 0)
  let meet := r.sk == 0 && r.dk == 0 && r.sspc == r.dspc &&
    decide ((r.sspan gather).1 ≤ r.dspan.2) && decide (r.dspan.1 ≤ (r.sspan gather).2)
  if rsv = 0 ∧ rank ≤ 9 ∧ r.ext.all (fun e => e != 0) = true ∧ r.dk ≠ 3 ∧ r.sk ≠ 3 ∧ (r.dbv && r.dk != 0) = false
      ∧ (r.sbv && r.sk != 0) = false ∧ r.n * r.esize < 2 ^ 40 ∧ (r.glim != 0) = gather
      ∧ (if fill then noSrc else !meet) = true
  then some r else none

/-! ## Operands as byte ranges (R258) -/

/-- A byte range of a local space as an operand. -/
def rangeOpd (spc lo len : Nat) (bv : Bool) (blk : Fin 64) (dst : Bool) (spcs : List Nat) : Opd :=
  { sh := { at_ := 0, spc := spc, base := lo, bv := bv, blk := blk, rank := 0, ext := [len], str := [1], sbase := 0 }
    bits := 8, bs := false, dst := dst, spcs := spcs }

/-- A side as an operand. -/
def sideOpd (spc : Nat) (span : Int × Int) (bv : Bool) (blk : Fin 64) (dst : Bool) (spcs : List Nat) : Opd :=
  rangeOpd spc span.1.toNat (span.2 - span.1 + 1).toNat bv blk dst spcs

/-- The arguments of a copy form. -/
def copyArgs : Instr → Option CpArgs
  | .cpy m => some m
  | .cpyf m _ => some m
  | .cpyg m => some m
  | _ => none

/-- A local side of a copy: its byte range as an operand, and the walk over its elements. -/
structure CopySide where
  opd   : Opd
  addr  : Word
  ext   : List Nat
  str   : List Int
  esize : Nat

/-- Lowest and highest byte of a local side. -/
def CopySide.span (x : CopySide) : Int × Int := sideSpan x.addr x.ext x.str x.esize

/-- The source of a copy as a local side. -/
def CopyRec.sourceSide (r : CopyRec) (gather : Bool) : CopySide :=
  { opd := sideOpd r.sspc (r.sspan gather) r.sbv r.sblk false [2, 3, 4], addr := r.saddr, ext := r.sext gather, str := r.sstr
    esize := r.esize }

/-- The destination of a copy as a local side; CODE only in handler mode. -/
def CopyRec.destSide (r : CopyRec) (handler : Bool) : CopySide :=
  { opd := sideOpd r.dspc r.dspan r.dbv r.dblk true (if handler then [0, 2, 3, 4] else [2, 3, 4]), addr := r.daddr, ext := r.ext
    str := r.dstr, esize := r.esize }

/-- The local sides of a copy, source first. -/
def CopyRec.sides (r : CopyRec) (i : Instr) (handler : Bool) : List CopySide :=
  (if !isFill i && r.sk == 0 then [r.sourceSide (isGather i)] else []) ++ (if r.dk = 0 then [r.destSide handler] else [])

/-- The length of CPYG's index array in elements. -/
def CopyRec.slices (r : CopyRec) : Nat := r.ext.getLastD 1

/-- Local operands of a command of the copy engine. -/
def Cmd.cpOpds (c : Cmd) : List Opd :=
  match c.rc with
  | .copy r =>
    (r.sides c.ins true).map (·.opd)
    ++ (match c.ins with
      | .cpyg m => [rangeOpd 3 (c.regs[m.b]).toNat (4 * r.slices) false 0 false [3]]
      | _ => [])
  | .edge _ =>
    [{ sh := c.b.getD default, bits := fwidth c.pfx.fa, bs := c.pfx.bsa, dst := false, spcs := [3] },
     { sh := c.d.getD default, bits := 32, bs := false, dst := true, spcs := [4] }]
  | _ => []

/-! ## The checks of R257 -/

/-- Does an element of a side have a byte in a pool (14 R343, log 30)? -/
def State.sideInPool (s : State) (t : TileId) (x : CopySide) : Bool :=
  s.opdInPool t x.opd
  && (List.range (x.ext.foldl (· * ·) 1)).any (fun i =>
    let b : Int := (x.addr.toNat : Int) + elemOfs x.ext x.str i
    decide (0 ≤ b) && s.inPool t x.opd.spc b.toNat x.esize)

/-- Steps 3 and 4 for the local sides. -/
def State.localSides (s : State) (l : List CopySide) : Chk :=
  firstOf (l.map (fun x _ =>
      need (x.opd.spcs.contains x.opd.sh.spc && !s.sideInPool s.ct x) .localRights (spcTval x.opd.sh.spc x.addr.toNat))
    ++ l.map (fun x _ =>
      let size : Int := (spcSize x.opd.spc : Nat)
      let (lo, hi) := x.span
      if lo < 0 then .trap .localBounds (x.opd.tval lo)
      else if size ≤ hi then .trap .localBounds (x.opd.tval (if lo < size then size else lo))
      else need (sideAligned x.addr x.ext x.str x.esize) .misaligned (spcTval x.opd.sh.spc x.addr.toNat)))

/-- Step 5 for a global side. -/
def State.globalSide (s : State) (base : Word) (span : Int × Int) (aligned : Bool) (esize : Nat) : Chk :=
  match s.globalChk base esize with
  | .trap c _ => .trap c base
  | .ok =>
    let o : Int := (gOfs base : Nat)
    let lo := o + (span.1 - base.toNat)
    let hi := o + (span.2 - base.toNat)
    if lo < 0 ∨ (spcSize ((spcOf (gSpc base)).getD .ctl) : Int) ≤ hi ∨ ((2 ^ 24 : Nat) : Int) ≤ hi then .trap .remoteRefused base
    else need aligned .misaligned base
  | r => r

/-- Step 6 for a virtual side: both ends of the extent. -/
def State.virtSide (s : State) (span : Int × Int) (esize : Nat) : Chk :=
  firstOf [fun _ => s.virtualChk (BitVec.ofInt 64 span.1) esize, fun _ => s.virtualChk (BitVec.ofInt 64 (span.2 - esize + 1)) esize]

/-- Steps 3 to 8 of R257. -/
def State.copyChk (s : State) (i : Instr) (r : CopyRec) (m : CpArgs) : Chk :=
  let l := r.sides i (swMode s.me.sw)
  let g := isGather i
  let src := !isFill i
  firstOf [
    fun _ => s.localSides l,
    fun _ => if src && r.sk == 1 then s.globalSide r.saddr (r.sspan g) (sideAligned r.saddr (r.sext g) r.sstr r.esize) r.esize else .ok,
    fun _ => if r.dk = 1 then s.globalSide r.daddr r.dspan (sideAligned r.daddr r.ext r.dstr r.esize) r.esize else .ok,
    fun _ => if src && r.sk == 2 then s.virtSide (r.sspan g) r.esize else .ok,
    fun _ => if r.dk = 2 then s.virtSide r.dspan r.esize else .ok,
    fun _ => firstOf (l.map (fun x _ => s.opdBlank s.ct x.opd)),
    fun _ => if g then s.localChk { sp := .act, addr := s.reg m.b, size := 4 * r.slices, align := 4, write := false, tag := s.me.ctx }
      else .ok,
    fun _ => if r.dk = 0 then .ok else s.limitChk]

/-! ## Issue (R257 to R259) -/

/-- The posted record of a copy whose destination is not local: every granule it writes, and the bindings (R217, R235, R259); its channel
keeps it in issue order with the other accesses to its tile (R217, 19 R416). -/
def State.copyPosted (s : State) (r : CopyRec) (col : Fin 8) : Posted :=
  let virt := r.dk == 2
  let addrs := (List.range r.n).map (fun i => sideAt r.daddr r.ext r.dstr i)
  let vc : VcSel := match r.vc with | 0 => .vc0 | 1 => .vc5 | 2 => .vc6 | _ => .vc7
  let here := !virt && s.ownChip (gChip r.daddr)
  { id := s.fresh, col := col, cls := s.classOf virt r.daddr, slot := s.ck, uid := s.me.uid, lim := true
    gran := (addrs.flatMap (fun a => s.grans virt a r.esize)).eraseDups
    adapt := here && s.adaptive s.ct vc
    lane := if here && !s.adaptive s.ct vc then some (gTile r.daddr, vc) else none
    binds := (List.finRange 8).filter (fun k => addrs.any (fun a => (s.my.binds[k]).touches virt a r.esize)) }

/-- The index array of CPYG, read at issue (R260). -/
def State.copyIdx (s : State) (i : Instr) (r : CopyRec) (m : CpArgs) : List Int :=
  if isGather i then
    (List.range r.slices).map (fun k => sgnVal 32 (leNat (s.lread s.ct .act ((s.reg m.b).toNat + 4 * k) 4 s.me.ctx)))
  else []

/-- The record of a copy form. -/
def State.copyRec (s : State) (i : Instr) (m : CpArgs) : Option CopyRec :=
  parseCopy (s.reg m.a).toNat (s.recBytes (s.reg m.a).toNat 192 s.me.ctx) (isFill i) (isGather i)

/-- An engine instruction that accepts no prefix, of a strand that does not hold its queue. -/
def State.enginePlain (s : State) (q : Fin 4) : Chk := legal (s.pfx?.isNone && s.my.hold[q] != some s.ck)

/-- The prefix of a form that accepts none. -/
def noPfx : Pfx :=
  { fa := 0, fb := 0, fd := 0, rm := 0, me := false, msk := 0, mz := false, ope := false, opd := 0, bsa := false, bsb := false, bsd := false }

/-- The issue of a copy form. -/
def copyOp (i : Instr) (m : CpArgs) (s : State) : Out State :=
  let r := s.copyRec i m
  let c : Cmd := { s.sample i m.tk noPfx with
    rc := match r with | some r => .copy r | none => .none
    idx := match r with | some r => s.copyIdx i r m | none => [] }
  run s (firstOf [
      fun _ => s.enginePlain 2,
      fun _ => s.recChk (s.reg m.a) 192 64,
      fun _ => match r with
        | none => .trap .recordRefused (s.reg m.a)
        | some r => s.copyChk i r m,
      fun _ => s.issueChk 3 true 2 m.tk.n c.cpOpds])
    (fun s =>
      match r with
      | some r =>
        if r.dk = 0 then s.issue 3 2 c.cpOpds c c.isQ
        else
          let q := s.copyPosted r m.col
          (s.bump.modMy (fun x => { x with posted := x.posted ++ [q] })).issue 3 2 c.cpOpds { c with posted := [q.id] } c.isQ
      | none => s)

/-- CPY (R254). -/
def execCpy (m : CpArgs) (s : State) : Out State := copyOp (.cpy m) m s
/-- CPYF (R122, R254). -/
def execCpyf (m : CpArgs) (q : Bool) (s : State) : Out State := copyOp (.cpyf m q) m s
/-- CPYG (R254, R260). -/
def execCpyg (m : CpArgs) (s : State) : Out State := copyOp (.cpyg m) m s

/-! ## Accesses of an engine (R207, R210, R249, R259) -/

/-- What an access of an engine comes to. -/
inductive EAcc
  | ok (s : State) (v : Nat)
  | refuse (c : Cause) (tval : Word) (s : State)
  | hold                            -- it waits behind a lock, or for a held stack
  | event (req : BitVec 32) (va : Word) (s : State)
  | frame (s : State)
  | later (s : State)               -- it is made again in a later step (R332)
  | stop (s : State)

/-- The request that an access of an engine makes. -/
def engReq (t : TileId) (c : Cmd) (op : ReqOp) (virt : Bool) (addr : Word) (vc : VcSel) (quiet : Bool) : Req :=
  { id := c.id, tile := t, slot := c.slot, uid := c.uid, op := op, virt := virt, addr := addr, tag := c.ctx, ver := none, vc := vc
    post := false, acq := false, d := 0, drain := none, phase := if quiet then .frame else .out }

/-- An access to another wafer, carried by the network engine (R212, log 20): delivered or refused by a free choice, and what it reads
is a free value. -/
def State.engPeer (s : State) (t : TileId) (op : ReqOp) (addr : Word) : EAcc :=
  let (served, s1) := (s.chargeT t 10 (match op with | .store bs => bs.length | _ => 0)).choose
  if served then .ok { s1 with free := s1.free + 1 } (leNat (leBytes op.size (Config.peerWord s1.free).toNat))
  else .refuse .remoteRefused addr s1

/-- An access to a tile through its agent; the windows are checked for the issuing tile too (R207). -/
def State.engGlobal (s : State) (t : TileId) (c : Cmd) (op : ReqOp) (addr : Word) : EAcc :=
  let r := engReq t c op false addr .vc0 false
  let u := gTile addr
  if !s.ownChip (gChip addr) then s.engPeer t op addr
  else if !((s.tile u).accepts op.akind (gSpc addr) (gOfs addr) op.size (rowOf t) (colOf t)) then
    .refuse .remoteRefused addr s
  else if s.agentHeld r then .hold
  else match s.atTile r with
    | .refuse c v => .refuse c v s
    | .lock => .hold
    | .hold => .hold
    | .poison u sp o => .stop (s.stopAt u (s.poisonCause u sp o op.size))
    | .done s1 v _ => .ok s1 v.toNat

/-- The version of an address for a command: pinned, or current at its issue (R354). -/
def State.cmdVersion (s : State) (t : TileId) (c : Cmd) (va : Word) : Option Half :=
  match vwinOf (s.wins t) va.toNat with
  | .read w _ => some (if c.vpin.getLsbD 16 then c.vpin.truncate 16 else tget 0#16 c.tcv w)
  | _ => none

/-- A virtual access of an engine brought to its physical address, at the port of the tile or at another; no read buffer serves it
(R249). -/
def State.engLocate (s : State) (t : TileId) (c : Cmd) (op : ReqOp) (va : Word) (etu : Option (Fin 56)) (quiet : Bool) :
    EAcc ⊕ (State × HAcc × Nat) :=
  match s.virtAcc (engReq t c op true va .vc0 quiet) with
  | none => .inl (.refuse .virtualRefused va s)
  | some a0 =>
    let a := { a0 with plain := false, ver := s.cmdVersion t c va, ask := { a0.ask with etu := etu.getD a0.ask.etu } }
    match s.locate a with
    | .refuse c v s1 => .inl (.refuse c v s1)
    | .event id s1 => .inl (.event id va s1)
    | .empty s1 => .inl (.frame s1)
    | .behind s1 => .inl (.later s1)
    | .stop c s1 => .inl (.stop (s1.stopPart a.ask.p c))
    | .pa pa s1 =>
      if s1.heldPa pa then .inl .hold
      else if s1.hbmPoison pa a.size a.mod then .inl (.stop (s1.stopPart a.ask.p (hbmStop s1 pa)))
      else .inr (s1, a, pa)

/-- An access to virtual memory at its home. -/
def State.engVirtual (s : State) (t : TileId) (c : Cmd) (op : ReqOp) (va : Word) (quiet : Bool) : EAcc :=
  match s.engLocate t c op va none quiet with
  | .inl e => e
  | .inr (s1, a, pa) => match op with
    | .store bs => .ok (s1.stackWrite a.ask.v (s1.portOf a) pa bs) 0
    | _ =>
      let (bs, s2) := s1.stackRead a.ask.v pa a.size
      .ok s2 (leNat bs)

/-- A read of `n` bytes by an engine: kind 0 local, 1 global, 2 virtual. -/
def State.engRead (s : State) (t : TileId) (c : Cmd) (kind spc n : Nat) (a : Word) (quiet : Bool) : EAcc :=
  match kind with
  | 0 => .ok s (leNat (s.lread t ((spcOf spc).getD .act) a.toNat n c.ctx))
  | 1 => s.engGlobal t c (.load n false) a
  | _ => s.engVirtual t c (.load n false) a quiet

/-- A write of `n` bytes by an engine; a line of CODE that it writes is noted (01 R40). -/
def State.engWrite (s : State) (t : TileId) (c : Cmd) (kind spc n : Nat) (a : Word) (v : Nat) (quiet : Bool) : EAcc :=
  match kind with
  | 0 =>
    let sp := (spcOf spc).getD .act
    let s1 := s.lwrite t sp a.toNat (leBytes n v) c.ctx
    if !s.tagLive t c.ctx && (s.win2 t sp a.toNat).isSome then .refuse .localRights (spcTval spc a.toNat) s
    else .ok (if sp = .code then s1.modTile t (fun x =>
      let l := a.toNat / 64 * 64
      if x.written.contains l then x else { x with written := l :: x.written }) else s1) 0
  | 1 => s.engGlobal t c (.store (leBytes n v)) a
  | _ => s.engVirtual t c (.store (leBytes n v)) a quiet

/-! ## Moving elements (R260) -/

/-- The fill pattern (R122, R260). -/
def Cmd.pattern (c : Cmd) (m : CpArgs) (q : Bool) : Nat := (if q then c.raw.getD 0#64 else c.regs[m.b]).toNat

/-- The value of element `i`. -/
def State.copyRead (s : State) (t : TileId) (c : Cmd) (r : CopyRec) (i : Nat) (quiet : Bool) : EAcc :=
  match c.ins with
  | .cpyf m q => .ok s (c.pattern m q)
  | _ => match r.from_ c i with
    | some a => s.engRead t c r.sk r.sspc r.esize a quiet
    | none => .ok s 0

/-- Element `i` moved. -/
def State.copyElem (s : State) (t : TileId) (c : Cmd) (r : CopyRec) (i : Nat) (quiet : Bool) : EAcc :=
  match s.copyRead t c r i quiet with
  | .ok s1 v => s1.engWrite t c r.dk r.dspc r.esize (sideAt r.daddr r.ext r.dstr i) v quiet
  | e => e

/-- Elements from `i` on, `n` of them at most: the place of the first that does not move, with what it meets. -/
def State.copyElems (t : TileId) (c : Cmd) (r : CopyRec) (quiet : Bool) : Nat → Nat → State → Nat × EAcc
  | 0, i, s => (i, .ok s 0)
  | n + 1, i, s =>
    match s.copyElem t c r i quiet with
    | .ok s1 _ => State.copyElems t c r false n (i + 1) s1
    | .hold => (i, .ok s 0)
    | .later s1 => (i, .ok s1 0)
    | e => (i, e)

/-! ## Poison (18 R401) -/

/-- The bytes of elements at the given addresses. -/
def elemsBytes (addrs : List Nat) (esize : Nat) : List Nat := addrs.flatMap (fun a => (List.range esize).map (fun j => a + j))

/-- Poisoned words that a copy would read, or write in part; and those that it writes whole. -/
def State.copyPoison (s : State) (t : TileId) (c : Cmd) (r : CopyRec) : Option (Spc × Nat) × List (Spc × Nat) :=
  let ps := (s.tile t).poison
  if ps.isEmpty then (none, [])
  else
    let is := List.range r.n
    let src := elemsBytes (is.filterMap (fun i => (r.from_ c i).map (·.toNat))) r.esize
    let dst := elemsBytes (is.map (fun i => (sideAt r.daddr r.ext r.dstr i).toNat)) r.esize
    let rd (p : Spc × Nat) : Bool := (!isFill c.ins && r.sk == 0 && spcOf r.sspc == some p.1 && s.touches t c.ctx p.1 src p.2 != 0)
      || (r.dk == 0 && spcOf r.dspc == some p.1 && s.copiesBase t c.ctx p.1 dst p.2)
    let wr (p : Spc × Nat) : Nat := if r.dk = 0 ∧ spcOf r.dspc = some p.1 then s.touches t c.ctx p.1 dst p.2 else 0
    (ps.find? (fun p => rd p || (decide (0 < wr p) && decide (wr p < 8))), ps.filter (fun p => wr p == 8))

/-! ## COPY_START, COPY_COMPLETION, COPY_FAILURE -/

/-- COPY_START (R254): the head of q4 starts while fewer than four operations run; none in a held clk (20 R421). -/
def execCopyStart (t : TileId) (s : State) : Out State :=
  let x := s.tile t
  let (c, q) := startHead x.cmdq[(2 : Fin 4)]
  if !s.startsOn t c || s.heldNow || decide (4 ≤ x.copies.length) then .next s
  else match c with
    | some c => .next (s.setTile t { x with cmdq := x.cmdq.set 2 q, copies := x.copies ++ [{ cmd := c, phase := .running }] })
    | none => .next (s.setTile t { x with cmdq := x.cmdq.set 2 q })

/-- A running operation of the copy engine. -/
def State.copyRun (s : State) (t : TileId) (op : Nat) : Option CRun := (s.tile t).copies.find? (fun r => r.cmd.id == op)

/-- An operation changed. -/
def State.modCopy (s : State) (t : TileId) (op : Nat) (f : CRun → CRun) : State :=
  s.modTile t (fun x => { x with copies := x.copies.map (fun r => if r.cmd.id = op then f r else r) })

/-- An operation that leaves the engine, and its counters. -/
def State.dropCopy (s : State) (t : TileId) (c : Cmd) : State :=
  s.modTile t (fun x => { x with
    copies := x.copies.filter (fun r => r.cmd.id != c.id)
    posted := x.posted.filter (fun q => !c.posted.contains q.id), frozen := x.frozen.filter (fun q => !c.posted.contains q.id) })

/-- An operation pauses: FW of its destination blank (R261). -/
def State.pauseCopy (s : State) (t : TileId) (c : Cmd) (ph : CPhase) : State :=
  (s.modCopy t c.id (fun r => { r with phase := ph })).modTile t (fun x => x.setFw c true)

/-- May a copy write now: behind every earlier posted access of its tile to a granule that it writes (R217)? -/
def State.copyMayWrite (s : State) (t : TileId) (c : Cmd) : Bool :=
  match c.posted with
  | [] => true
  | id :: _ =>
    s.mayLeave t id

/-- A running or resumed phase, and whether it resumes for want of a frame. -/
def CPhase.goes : CPhase → Option Bool
  | .running => some false
  | .frame none => some true
  | _ => none

/-- The pool granules that a paused operation still has reserved: those of the beads that it has made since `s` are no longer free as
they are (R343). -/
def Cmd.poolAfter (c : Cmd) (x y : Tile) : Cmd :=
  let made (w : Nat) : Nat := (y.beads.filter (fun b => b.win == w && b.tag == c.ctx)).length
    - (x.beads.filter (fun b => b.win == w && b.tag == c.ctx)).length
  { c with pool := c.pool.map (fun p => (p.1, p.2 - made p.1)) }

/-- A copy that has come to element `i` between `s` and `s1`, in the phase `ph`. -/
def State.copyAt (s : State) (t : TileId) (op i : Nat) (ph : CPhase) (s1 : State) : State :=
  s1.modCopy t op (fun q => { q with pos := i, phase := ph, cmd := q.cmd.poolAfter (s.tile t) (s1.tile t) })

/-- COPY_COMPLETION (R260, R261): the copy goes on at its element, by `op.n` elements at most, and completes with its last. Where an element
would be refused, COPY_FAILURE is the next step. -/
def execCopyCompletion (t : TileId) (op : CopyStep) (s : State) : Out State :=
  match s.copyRun t op.op with
  | none => .next s
  | some q =>
    match q.cmd.rc, q.phase.goes with
    | .copy r, some quiet =>
      let c := q.cmd
      let (bad, whole) := s.copyPoison t c r
      if !s.goesOn t c.id || !s.copyMayWrite t c then .next s
      else match bad with
        | some (sp, w) => .next (s.stopAt t (s.poisonStop t sp (8 * w)))
        | none =>
          match State.copyElems t c r quiet (min op.n (r.n - q.pos)) q.pos s with
          | (i, .ok s1 _) =>
            if r.n ≤ i then
              .next (((s1.modTile t (fun x => { x with poison := x.poison.filter (fun p => !whole.contains p) })).dropCopy t c).opDone
                t 2 c c.cpOpds 0#5)
            else .next ((s.copyAt t op.op i .running s1).modTile t (fun x => x.setFw c false))
          | (_, .refuse _ _ s1) =>
            .next (({ s with etuWaits := s1.etuWaits }.modCopy t op.op (fun q => { q with phase := .running })).modTile t (fun x => x.setFw c false))
          | (_, .hold) => .next s
          | (_, .later s1) => .next s1
          | (i, .event id va s1) => .next ((s.copyAt t op.op i .running s1).pauseCopy t c (.event id va none))
          | (i, .frame s1) => .next ((s.copyAt t op.op i .running s1).pauseCopy t c (.frame none))
          | (_, .stop s1) => .next s1
    | _, _ => .next s

/-- The elements of a copy that fails: each that would move lands or does not (log 8), and element `bad` is refused, its walk made. -/
def State.copyPartial (t : TileId) (c : Cmd) (r : CopyRec) (bad : Nat) : Nat → Nat → State → State
  | 0, _, s => s
  | n + 1, i, s =>
    let (land, s1) := s.choose
    match (if land || i == bad then s1.copyElem t c r i false else .hold) with
    | .ok s2 _ | .refuse _ _ s2 => State.copyPartial t c r bad n (i + 1) s2
    | _ => State.copyPartial t c r bad n (i + 1) s1

/-- A failed operation ends (R262). -/
def State.copyFail (s : State) (t : TileId) (c : Cmd) (cause : Cause) (tval : Word) : State :=
  let s1 := (s.dropCopy t c).opFail t 2 c c.cpOpds cause tval
  match s1.partOf t with
  | some p => s1.settleDrops p
  | none => s1

/-- COPY_FAILURE (R262): a refused access, a refused translation, or what an EGEMV met at the edge (R268). -/
def execCopyFailure (t : TileId) (op : Nat) (s : State) : Out State :=
  match s.copyRun t op with
  | none => .next s
  | some q =>
    let c := q.cmd
    match q.phase, c.rc with
    | .failed cause v, _ => .next (s.copyFail t c cause v)
    | .running, .copy r =>
      if !s.goesOn t c.id || !s.copyMayWrite t c || (s.copyPoison t c r).1.isSome then .next s
      else match State.copyElems t c r false (r.n - q.pos) q.pos s with
        | (i, .refuse cause v _) => .next ((State.copyPartial t c r i (r.n - q.pos) q.pos s).copyFail t c cause v)
        | _ => .next s
    | _, _ => .next s

/-! ## Retirement of a tag (14 R346) -/

/-- Does a request go to a tagged window of the launch that holds the partition? -/
def State.toTagged (s : State) (p : Fin 24) (r : Req) : Bool :=
  if r.virt then (s.parts[p]).covers r.tile && (match vwinOf (s.pwins p) r.addr.toNat with | .tagged .. => true | _ => false)
  else (s.parts[p]).covers (gTile r.addr) && (match spcOf (gSpc r.addr) with
    | some sp => (s.win2 (gTile r.addr) sp (gOfs r.addr)).isSome
    | none => false)

/-- The home of a virtual address that lies in a tagged window. -/
def State.tagHomeOf (s : State) (p : Fin 24) (a : Word) : Option TagHome :=
  match vwinOf (s.pwins p) a.toNat with
  | .tagged _ e => some (.etu (Fin.ofNat 56 e.home))
  | _ => none

/-- The homes at which a paused copy stands at an access to a tagged window. -/
def State.copyAtTagged (s : State) (p : Fin 24) (q : CRun) : List TagHome :=
  match q.phase, q.cmd.rc with
  | .event _ va _, _ => (s.tagHomeOf p va).toList
  | .frame _, .copy r =>
    (if r.sk = 2 then ((r.from_ q.cmd q.pos).bind (s.tagHomeOf p)).toList else [])
      ++ (if r.dk = 2 then (s.tagHomeOf p (sideAt r.daddr r.ext r.dstr q.pos)).toList else [])
  | _, _ => []

/-- The accesses with the tag that homes have received to their windows and have not yet performed (R346 step 1), each with its home: a
request by its number, an access of a paused copy by the copy's number and its element. -/
def State.tagPending (s : State) (p : Fin 24) (t : Half) : List (TagHome × Nat × Nat) :=
  (s.plane.filter (fun r => r.tag == t && s.toTagged p r && (match r.phase with
    | .locked | .gate _ | .event _ | .again | .frame => true
    | _ => false))).flatMap (fun r =>
      (if r.virt then (s.tagHomeOf p r.addr).toList else [TagHome.tile (gTile r.addr)]).map (fun h => (h, r.id, 0)))
  ++ s.tiles.flatMap (fun tx => if (s.parts[p]).covers tx.1 then
      (tx.2.copies.filter (fun q => q.cmd.ctx == t)).flatMap (fun q => (s.copyAtTagged p q).map (fun h => (h, q.cmd.id, q.pos + 1))) else [])

/-- The homes that have still to free a tag, with the accesses that they wait for: those that they had received when the retirement
reached them, which is at the first step of it (log 67), and have not yet performed. -/
def Retire.waits (r : Retire) (pending : List (TagHome × Nat × Nat)) : List (TagHome × List (Nat × Nat)) :=
  match r.left with
  | none => ((pending.map (·.1)).eraseDups).map (fun h => (h, (pending.filter (fun x => x.1 == h)).map (·.2)))
  | some l => (l.map (fun x => (x.1, x.2.filter (fun a => pending.contains (x.1, a))))).filter (fun x => !x.2.isEmpty)

/-- The strands that wait for a tag: tile, slot, place in the order of their requests. -/
def State.tagWaiters (s : State) (p : Fin 24) : List (TileId × Fin 4 × Nat) :=
  s.tiles.flatMap (fun tx => if !(s.parts[p]).covers tx.1 then [] else
    (List.finRange 4).filterMap (fun k => match (tx.2.strand k).wait with
      | some w => if w.kind = .tag then some (tx.1, k, w.stamp) else none
      | none => none))

/-- The oldest of a list of waiters. -/
def oldest (l : List (TileId × Fin 4 × Nat)) : Option (TileId × Fin 4) :=
  (l.foldl (fun b x => match b with
    | none => some x
    | some y => if x.2.2 < y.2.2 then some x else some y) none).map (fun x => (x.1, x.2.1))

/-- The beads of a tag freed at the homes that `free` selects (R346 step 2). -/
def State.freeBeads (s : State) (p : Fin 24) (launch : Nat) (t : Half) (free : TagHome → Bool) : State :=
  let gone := s.beads1.filter (fun b => b.launch == launch && b.tag == t && free (.etu b.home))
  let s1 := { s with
    tiles := s.tiles.map (fun (tx : Nat × Tile) => if (s.parts[p]).covers tx.1 && free (.tile tx.1)
      then (tx.1, { tx.2 with beads := tx.2.beads.filter (fun b => b.tag != t) }) else tx) }
  s1.freeBead1 gone

/-- TAG_RETIREMENT_COMPLETE (R346): each home frees the tag's beads once it has performed what it had received; when all have, the tag is
free, or goes to the oldest request that waits (R349). -/
def execTagRetirementComplete (p : Fin 24) (t : Half) (s : State) : Out State :=
  match s.curLaunch p, (s.parts[p]).retire.find? (fun r => r.tag == t) with
  | some l, some r =>
    let left := r.waits (s.tagPending p t)
    let s0 := s.freeBeads p l.id t (fun h => !(s.parts[p]).tagFreed h t && !left.any (fun x => x.1 == h))
    if !left.isEmpty then
      .next (s0.modPart p (fun q => { q with retire := q.retire.map (fun r => if r.tag = t then { r with left := some left } else r) }))
    else
      let s1 := s0.modPart p (fun q => { q with retire := q.retire.filter (fun r => r.tag != t), dog := if q.draining then 0 else q.dog })
      match oldest (s1.tagWaiters p) with
      | some (u, k) =>
        let d : Reg := match (s1.strand u k).wait with
          | some w => w.dst
          | none => 0
        .next (((s1.modLaunch l.id (fun l => l.setTag t.toNat .live)).modStrand u k (fun z =>
          { z with regs := z.regs.set d (t.zeroExtend 64) })).retireAt u k)
      | none => .next (s1.modLaunch l.id (fun l => l.setTag t.toNat .free))
  | _, _ => .next s

end Machine
end Sys2Proof
end

