-- ==== Sys2Proof/Machine/Edge.lean ====
section
/-! DEFINITION. Near-memory products and warming: EGEMV (10 R264 to R269, 13 R322) and EPREF (10 R270). -/

namespace Sys2Proof
namespace Machine

/-! ## EGEMV: its record and its checks (R264 to R266) -/

/-- An edge record as R264 lays it out; none where it is refused as a record. -/
def parseEdge (at_ : Nat) (bs : List Byte) : Option EdgeRec :=
  let w (i : Nat) : Word := dwOf bs i
  let r : EdgeRec := { at_ := at_, wva := w 0, rp := field (w 1) 32 16, k := field (w 1) 16 16, n := field (w 1) 0 16, sva := w 2
                       mep := field (w 3) 0 5 }
  if field (w 1) 48 16 = 0 ∧ field (w 3) 5 59 = 0 ∧ (w 4).toNat + (w 5).toNat + (w 6).toNat + (w 7).toNat = 0
      ∧ r.rp ≠ 0 ∧ r.k ≠ 0 ∧ r.n ≠ 0 ∧ r.mep ≤ 23 then some r else none

/-- Bytes of a row of weights (R70, R264). -/
def EdgeRec.rowBytes (r : EdgeRec) (fb : Nat) : Nat := (r.k * fwidth fb + 7) / 8
/-- Scale bytes of a row. -/
def EdgeRec.rowScales (r : EdgeRec) : Nat := (r.k + 31) / 32
/-- First byte of row `n`. -/
def EdgeRec.rowAt (r : EdgeRec) (n : Nat) : Word := r.wva + BitVec.ofNat 64 (64 * r.rp * n)
/-- Last byte of the last row. -/
def EdgeRec.last (r : EdgeRec) (fb : Nat) : Word := r.rowAt (r.n - 1) + BitVec.ofNat 64 (r.rowBytes fb - 1)

/-- What EGEMV allows in its prefix (R265). -/
def egemvForm : PForm :=
  { dfl := (1, 1, 0), okA := [1, 2, 3, 4, 5], okB := [1, 2, 3, 4, 5, 6], bsA := true, bsB := true, bsFmt := [3, 4, 5, 6] }

/-- Is the pair one of R265? -/
def egemvPair (fb fa : Nat) : Bool :=
  match mxPair fb fa with
  | some (_, int, _) => !int
  | none => false

/-- The record of an EGEMV. -/
def State.edgeRec (s : State) (a : Reg) : Option EdgeRec := parseEdge (s.reg a).toNat (s.recBytes (s.reg a).toNat 64 s.me.ctx)

/-- Step 2 of R266: the shape that does not match the record. -/
def egemvShapes (r : EdgeRec) (act res : Option Shape) : Chk :=
  match act, res with
  | some a, some d =>
    let b := a.extAt 1
    if !(a.spc == 3 && a.is2 r.k none && decide (1 ≤ b) && decide (b ≤ 8)) then .trap .recordRefused (BitVec.ofNat 64 a.at_)
    else if !(d.spc == 4 && d.bv && d.is2 r.n (some b)) then .trap .recordRefused (BitVec.ofNat 64 d.at_)
    else .ok
  | _, _ => .ok

/-- The issue of EGEMV (R266, R268). -/
def execEgemv (d a b : Reg) (tk : Tok) (s : State) : Out State :=
  match s.enginePfx egemvForm with
  | none => run s .illegal id
  | some x =>
    let r := s.edgeRec a
    let c0 := s.sample (.egemv d a b tk) tk x
    let c : Cmd := { c0 with
      d := s.shapeAt d, b := s.shapeAt b
      rc := match r with | some r => .edge r | none => .none
      ver := match r with | some r => s.cmdVersion s.ct c0 r.wva | none => none }
    run s (firstOf [
        fun _ => legal (egemvPair x.fb x.fa && s.my.hold[(2 : Fin 4)] != some s.ck),
        fun _ => s.recsChk [(d, 64), (a, 64), (b, 64)],
        fun _ => s.shapesChk [d],
        fun _ => need r.isSome .recordRefused (s.reg a),
        fun _ => s.shapesChk [b],
        fun _ => match r with
          | none => .ok
          | some r => firstOf [
            fun _ => egemvShapes r c.b c.d,
            fun _ => need (r.wva.toNat % 64 == 0 && decide (r.rowBytes x.fb ≤ 64 * r.rp) && (r.sva != 0#64) == x.bsb)
              .recordRefused (s.reg a),
            fun _ => s.opdsChk c.cpOpds,
            fun _ => s.virtualChk r.wva 1,
            fun _ => s.virtualChk (r.last x.fb) 1,
            fun _ => if x.bsb then s.virtualChk r.sva 1 else .ok,
            fun _ => if x.bsb then s.virtualChk (r.sva + BitVec.ofNat 64 (r.n * r.rowScales - 1)) 1 else .ok],
        fun _ => s.issueChk 4 true 2 tk.n c.cpOpds])
      (fun s => s.issue 4 2 c.cpOpds c false)

/-! ## EGEMV at the edge (R268) -/

/-- Does `[lo, hi]` meet `[base, base + len)` without lying in it? -/
def straddles (lo hi base len : Nat) : Bool :=
  len != 0 && overlap lo hi base (base + len - 1) && !(decide (base ≤ lo) && decide (hi < base + len))

/-- Do the rows lie partly in a versioned window, or in a tagged window (R268)? -/
def rowsRefused (ws : List (Nat × WinEnt)) (lo hi : Nat) : Bool :=
  ws.any (fun w =>
    (w.2.type == 1 && w.2.len != 0 && overlap lo hi w.2.base.toNat (w.2.base.toNat + w.2.len - 1))
    || (w.2.type == 3 && (straddles lo hi w.2.base.toNat w.2.len || straddles lo hi w.2.psb.toNat (4 * w.2.len))))

/-- The directory and slot that an EGEMV's stamp finds, or nothing. -/
def State.stampSlot (s : State) (t : TileId) (c : Cmd) (r : EdgeRec) : Option (Nat × Option (Fin 4)) :=
  match vwinOf (s.wins t) r.wva.toNat, c.ver with
  | .read _ e, some v => some (e.key, (s.dir e.key).bind (·.slotFor v))
  | _, _ => none

/-- An EGEMV of the partition has been accepted or has failed: references on old slots may fall (R357 step 5). -/
def State.afterAccept (s : State) (t : TileId) : State :=
  match s.partOf t with
  | some p => s.settleDrops p
  | none => s

/-- EGEMV_ACCEPT (R268): the request has arrived at its port; with a slot that holds its stamp it takes its reference and its place
in the stack's order of passes; otherwise it is about to fail. -/
def execEgemvAccept (t : TileId) (op : Nat) (s : State) : Out State :=
  match s.copyRun t op with
  | none => .next s
  | some q =>
    match q.cmd.rc, q.phase with
    | .edge r, .running =>
      let c := q.cmd
      let bad (cause : Cause) (v : Word) : State := (s.modCopy t op (fun q => { q with phase := .failed cause v })).afterAccept t
      let accept (s : State) : State :=
        let s1 := (s.modCopy t op (fun q => { q with phase := .accepted s.passSeq })).chargeT t 8 1
        ({ s1 with passSeq := s.passSeq + 1 }).afterAccept t
      if !s.goesOn t op || (stackHoldClk s.now && s.power.hotStacks.contains r.mep) then .next s
      else if s.boot.noStack.contains r.mep || rowsRefused (s.wins t) r.wva.toNat (r.last c.pfx.fb).toNat then .next (bad .virtualRefused r.wva)
      else match s.stampSlot t c r, s.partOf t with
        | some (_, none), _ => .next (bad .versionRefused ((c.ver.getD 0#16).zeroExtend 64))
        | some (k, some i), some p => .next (accept (s.modDir k (fun x => x.modSlot i (fun y => y.addRef p))))
        | _, _ => .next (accept s)
    | _, _ => .next s

/-! ## A pass (R267, R269) -/

/-- What a pass has read, or what stopped it. -/
structure PassAcc where
  s     : State
  bad   : Option EAcc := none
  /-- An access led to another stack (R268). -/
  away  : Bool := false
  /-- Bytes that the stack has read for the pass so far, in whole granules, and bytes of weights and scales: metered when the pass ends
  (R407). -/
  rd    : Nat := 0
  wts   : Nat := 0
  bytes : List Byte := []
  /-- The pseudo-channel of each byte (R321, R322). -/
  chans : List Nat := []

/-- Bytes of one granule read at the stack of the port. -/
def PassAcc.gran (a : PassAcc) (t : TileId) (c : Cmd) (mep n : Nat) (va : Word) (quiet : Bool) : PassAcc :=
  if a.bad.isSome || a.away then a
  else match a.s.engLocate t c (.load n false) va (some (Fin.ofNat 56 mep)) quiet with
    | .inl e => { a with bad := some e }
    | .inr (s1, _, pa) =>
      if paStack pa != mep then { a with s := s1, away := true }
      else
        { a with
          s := s1, rd := a.rd + 64 * granules pa n, wts := a.wts + n, bytes := a.bytes ++ s1.hread pa n
          chans := a.chans ++ List.replicate n (pa / 64 % 256) }

/-- What a pass has read is metered (R407). -/
def PassAcc.meter (a : PassAcc) (t : TileId) (s : State) : State := (s.chargeT t 6 a.rd).chargeT t 9 a.wts

/-- `n` bytes from an address up, granule by granule; `k` bounds the number of granules. -/
def PassAcc.read (t : TileId) (c : Cmd) (mep : Nat) (quiet : Bool) : Nat → Nat → Word → PassAcc → PassAcc
  | 0, _, _, a => a
  | k + 1, n, va, a =>
    if n = 0 then a
    else
      let m := min n (64 - va.toNat % 64)
      PassAcc.read t c mep quiet k (n - m) (va + BitVec.ofNat 64 m) (a.gran t c mep m va quiet)

/-- The code of weight `k` of a row (R70). -/
def weightCode (fb : Nat) (bs : List Byte) (k : Nat) : Nat :=
  let w := fwidth fb
  if w < 8 then
    let b := (bs.getD (k / 2) 0#8).toNat
    if k % 2 = 0 then b % 16 else b / 16
  else leNat ((bs.drop (k * (w / 8))).take (w / 8))

/-- Channels that hold weights of a row, ascending, each with its k in ascending order (R87). -/
def rowChannels (fb K : Nat) (chans : List Nat) : List (List Nat) :=
  let of (k : Nat) : Nat := chans.getD (k * fwidth fb / 8) 0
  let ks := List.range K
  (List.range 256).filterMap (fun ch =>
    let l := ks.filter (fun k => of k == ch)
    if l.isEmpty then none else some l)

/-- One result element (R267). FR32 flushes every rounding, that of each channel sum (R85) and of each join of them (log 54). -/
def Cmd.edgeElem (c : Cmd) (chs : List (List Nat)) (w x : Nat → Num) : Nat × FpFlags :=
  let g := mxGroup c.pfx.fb
  let ps := chs.map (fun l => c.accumulate false g 0 (l.map (fun k => mulNum (w k) (x k))))
  match ps with
  | [] => (0, 0#5)
  | p :: r => r.foldl (fun a q =>
    let v := sumNum .rne [decodeNum 0 a.1, decodeNum 0 q.1]
    let k := roundNum 0 .rne 0 (c.fr 0) false v.1
    (k.1, a.2 ||| q.2 ||| v.2 ||| k.2)) p

/-- A pass under way: what it has read, the results of the rows so far, the flags. -/
structure PassOut where
  acc   : PassAcc
  out   : List (Nat × Nat) := []
  flags : FpFlags := 0#5

/-- Row `n` of a pass. -/
def PassOut.row (o : PassOut) (t : TileId) (c : Cmd) (r : EdgeRec) (quiet : Bool) (n : Nat) : PassOut :=
  let fb := c.pfx.fb
  let nb := r.rowBytes fb
  let a1 := PassAcc.read t c r.mep quiet (nb / 64 + 2) nb (r.rowAt n) { o.acc with bytes := [], chans := [] }
  let ns := if c.pfx.bsb then r.rowScales else 0
  let a2 := PassAcc.read t c r.mep quiet (ns / 64 + 2) ns (r.sva + BitVec.ofNat 64 (n * r.rowScales)) { a1 with bytes := [], chans := [] }
  if a2.bad.isSome || a2.away then { o with acc := a2 }
  else
    let w (k : Nat) : Num :=
      let v := readNum fb (c.fi fb) (weightCode fb a1.bytes k)
      if c.pfx.bsb then scaleNum (a2.bytes.getD (k / 32) 0#8).toNat v else v
    let chs := rowChannels fb r.k a1.chans
    let act := c.cpOpds.getD 0 default
    let es := (List.range (act.sh.extAt 1)).map (fun b =>
      (n + r.n * b, c.edgeElem chs w (fun k => o.acc.s.elemNum t c act c.pfx.fa (k + r.k * b))))
    { acc := a2, out := o.out ++ es.map (fun e => (e.1, e.2.1)), flags := es.foldl (fun f e => f ||| e.2.2) o.flags }

/-- The accepted passes of a stack with their tile and their place in its order. -/
def State.passesAt (s : State) (k : Nat) : List (Nat × TileId × CRun) :=
  s.tiles.flatMap (fun tx => tx.2.copies.filterMap (fun q =>
    match q.cmd.rc with
    | .edge r => if r.mep != k then none else match q.phase with
      | .accepted n => some (n, tx.1, q)
      | .event _ _ (some n) => some (n, tx.1, q)
      | .frame (some n) => some (n, tx.1, q)
      | _ => none
    | _ => none))

/-- The oldest of them. -/
def firstPass (l : List (Nat × TileId × CRun)) : Option (Nat × TileId × CRun) :=
  l.foldl (fun b x => match b with
    | none => some x
    | some y => if x.1 < y.1 then some x else b) none

/-- The reference of a pass on its slot ends with the pass (R268). -/
def State.endStamp (s : State) (t : TileId) (c : Cmd) (r : EdgeRec) : State :=
  match s.stampSlot t c r, s.partOf t with
  | some (k, some i), some p => s.modDir k (fun x => x.modSlot i (fun y => y.dropRef p))
  | _, _ => s

/-- EGEMV_PASS (R267, R269): the stack serves the oldest accepted pass; the results are in the blank when it ends. -/
def execEgemvPass (k : Fin 24) (s : State) : Out State :=
  match firstPass (s.passesAt k.val) with
  | none => .next s
  | some (seq, t, q) =>
    match q.cmd.rc, q.phase with
    | .edge r, ph =>
      let c := q.cmd
      let quiet := match ph with | .frame _ => true | _ => false
      let waits := match ph with | .event .. => true | _ => false
      let fail (s : State) (cause : Cause) (v : Word) : State :=
        (s.endStamp t c r).modCopy t c.id (fun q => { q with phase := .failed cause v })
      if waits then .next s
      else match s.opdsPoison t c.ctx c.cpOpds with
        | some (sp, w) => .next (s.stopAt t (s.poisonStop t sp (8 * w)))
        | none =>
          let o := (List.range r.n).foldl (fun (o : PassOut) n => o.row t c r quiet n) { acc := { s := s } }
          if o.acc.away then .next (fail (o.acc.meter t o.acc.s) .virtualRefused r.wva)
          else match o.acc.bad with
            | some (.refuse cause v s1) => .next (fail (o.acc.meter t s1) cause v)
            -- a pass that pauses is made again: its reads are metered when it ends, its walks as they are made
            | some (.event id va s1) => .next (s1.pauseCopy t c (.event id va (some seq)))
            | some (.frame s1) => .next (s1.pauseCopy t c (.frame (some seq)))
            | some (.later s1) => .next s1
            | some (.stop s1) => .next (o.acc.meter t s1)
            | some _ => .next s
            | none =>
              let d := c.cpOpds.getD 1 default
              match (o.acc.meter t o.acc.s).tryOut t (fun s => (o.out.foldl (fun s e => s.putElem t c.ctx d e.1 e.2) s, o.flags)) with
              | .dead s1 v => .next (fail s1 .localRights v)
              | .done s1 f => .next (((s1.endStamp t c r).dropCopy t c).opDone t 2 c c.cpOpds f)
    | _, _ => .next s

/-! ## EPREF (R270) -/

/-- EPREF: the range's ends are checked, then the command enters q4; it takes no lock and no counter. -/
def execEpref (a : Reg) (len : BitVec 21) (tk : Tok) (s : State) : Out State :=
  let c := s.sample (.epref a len tk) tk noPfx
  run s (firstOf [
      fun _ => s.enginePlain 2,
      fun _ => legal (decide (1 ≤ len.toNat) && decide (len.toNat ≤ 0x100000)),
      fun _ => s.virtualChk (s.reg a) 1,
      fun _ => s.virtualChk (s.reg a + BitVec.ofNat 64 (len.toNat - 1)) 1,
      fun _ => s.issueChk 4 true 2 tk.n []])
    (fun s => s.issue 4 2 [] c false)

/-- One granule warmed, unless the warming has ended: at a page that needs the island, a demand-zero page, a refused translation, or
a window whose reads no read buffer serves. -/
def State.warm (s : State) (t : TileId) (c : Cmd) (va : Word) : Option State :=
  match s.virtAcc (engReq t c (.load 1 false) true va .vc0 false) with
  | none => none
  | some a =>
    let served := match vwinOf (s.pwins a.ask.p) va.toNat with
      | .none => true
      | .slot .. => true
      | _ => false
    let ask := { a.ask with etu := s.portOf a }
    let put (s : State) (pa : Nat) : State :=
      if s.hbmPoison pa 1 false then s.stopPart ask.p (hbmStop s pa) else (s.charge ask.v 6 64).bufFill ask.etu ask.p (pa / 64)
    if !served then none
    else match (ptWalk s va 5 (s.vdevs[ask.v]).ppn.toNat).1, s.cached ask with
      | .leaf .., _ => match s.translate ask with
        | .pa pa s1 => some (put s1 pa)
        | _ => none
      | _, some e =>
        let (keep, s1) := s.choose
        if keep && s1.leafOk ask e.level e.pte then some (put s1 (leafPa e.level e.pte va)) else none
      | _, none => none

/-- Granules warmed in ascending address until the warming ends. -/
def State.warmAll (t : TileId) (c : Cmd) : Nat → Word → State → State
  | 0, _, s => s
  | n + 1, va, s => match s.warm t c va with
    | some s1 => State.warmAll t c n (va + 64#64) s1
    | none => s

/-- Does a granule of the warming lie on a hot stack (20 R422)? -/
def State.warmHot (s : State) (t : TileId) (lo n : Nat) : Bool :=
  match (s.partOf t).bind s.holder with
  | some v => (List.range n).any (fun i => (s.paOf v (BitVec.ofNat 64 (64 * (lo + i)))).any s.hotPa)
  | none => false

/-- Is a granule of the warming behind the hold of a hot stack in this clk (20 R422)? -/
def State.warmHeld (s : State) (t : TileId) (lo n : Nat) : Bool := stackHoldClk s.now && s.warmHot t lo n

/-- EPREF_WARMING_END (R270): the warming ends and the token is returned. -/
def execEprefWarmingEnd (t : TileId) (op : Nat) (s : State) : Out State :=
  match s.copyRun t op with
  | none => .next s
  | some q => match q.cmd.ins with
    | .epref a len _ =>
      if !s.goesOn t op then .next s
      else
        let va := q.cmd.regs[a]
        let lo := va.toNat / 64
        let n := (va.toNat + len.toNat - 1) / 64 + 1 - lo
        if s.warmHeld t lo n then .next s
        else .next (((State.warmAll t q.cmd n (BitVec.ofNat 64 (64 * lo)) s).dropCopy t q.cmd).opDone t 2 q.cmd [] 0#5)
    | _ => .next s

end Machine
end Sys2Proof
end

