-- ==== Sys2Proof/Machine/Net.lean ====
section
/-! DEFINITION. The network engine of a partition (10 R277 to R285), RMA by peers (13 R325), RTRE and RWAIT (10 R275, R276), and what
an island's response or a new frame sets going again (13 R330, R332). -/

namespace Sys2Proof
namespace Machine

/-! ## Send records (R279, R280) -/

/-- The four forms that take a send record. -/
inductive NetForm | send | put | get | recv
  deriving DecidableEq, Repr

/-- A send record as R279 lays it out; none where R280 refuses it. -/
def State.parseSend (s : State) (at_ : Nat) (bs : List Byte) (f : NetForm) : Option SendRec :=
  let w (i : Nat) : Word := dwOf bs i
  let w0 := w 0
  let r : SendRec := {
    at_ := at_, rq := Fin.ofNat 16 (field w0 36 4), rce := w0.getLsbD 31, rctr := Fin.ofNat 32 (field w0 24 5), ce := w0.getLsbD 23
    rod := field w0 21 2 == 1, ctr := Fin.ofNat 32 (field w0 16 5), lk := w0.getLsbD 12, peer := field w0 0 12
    laddr := w 1, len := field (w 2) 0 32, raddr := w 3, rkey := BitVec.ofNat 32 (field (w 4) 0 32) }
  let rsv := field w0 40 24 + field w0 32 4 + field w0 29 2 + field w0 13 3 + field (w 2) 32 32 + field (w 4) 32 32
    + (w 5).toNat + (w 6).toNat + (w 7).toNat
  let noR := !r.rce && r.rctr == 0
  let noAddr := r.raddr == 0#64 && r.rkey == 0#32
  let zero := match f with
    | .send => noR && noAddr
    | .put => r.rq == 0
    | .get => r.rq == 0 && noR
    | .recv => r.peer == 0 && field w0 21 2 == 0 && !r.lk && noR && noAddr
  let peerOk := f == .recv || (match s.partOf s.ct with
    | some p => decide (r.peer < 4096) && !(s.parts[p]).noPeer.contains r.peer
    | none => false)
  if rsv == 0 && zero && decide (field w0 21 2 ≤ 1) && decide (1 ≤ r.len) && decide (r.len ≤ 0x40000000) && peerOk then some r else none

/-- The check of LADDR over its whole range (R280): R206 where LK = 1, R221 at both ends otherwise. -/
def State.laddrChk (s : State) (r : SendRec) : Chk :=
  if r.lk then
    firstOf [
      fun _ => need (s.ownChip (gChip r.laddr)) .remoteRefused r.laddr,
      fun _ => s.globalChk r.laddr 1,
      fun _ => need (decide (gOfs r.laddr + r.len ≤ spcSize ((spcOf (gSpc r.laddr)).getD .ctl))) .remoteRefused r.laddr]
  else firstOf [fun _ => s.virtualChk r.laddr 1, fun _ => s.virtualChk (r.laddr + BitVec.ofNat 64 (r.len - 1)) 1]

/-- The posted record of a network operation (R281): an NGET writes its local bytes. -/
def State.sendPosted (s : State) (r : SendRec) (col : Fin 8) (get : Bool) : Posted :=
  { id := s.fresh, col := col, cls := .net, slot := s.ck, uid := s.me.uid, lim := true
    gran := if get then s.grans (!r.lk) r.laddr r.len else []
    adapt := false, binds := if get then s.my.bindsFor (!r.lk) r.laddr r.len else [] }

/-- The issue of a network form (R280, R281). -/
def netIssue (i : Instr) (f : NetForm) (a : Reg) (col : Fin 8) (tk : Tok) (s : State) : Out State :=
  let r := s.parseSend (s.reg a).toNat (s.recBytes (s.reg a).toNat 64 s.me.ctx) f
  let c : Cmd := { s.sample i tk noPfx with rc := match r with | some r => .send r | none => .none }
  run s (firstOf [
      fun _ => s.enginePlain 3,
      fun _ => s.recChk (s.reg a) 64 64,
      fun _ => need r.isSome .recordRefused (s.reg a),
      fun _ => match r with | some r => s.laddrChk r | none => .ok,
      fun _ => if f = .recv then .ok else s.limitChk,
      fun _ => s.issueChk 5 false 3 tk.n []])
    (fun s => match r with
      | none => s
      | some r =>
        if f = .recv then s.issue 5 3 [] c false
        else
          let q := s.sendPosted r col (f == .get)
          (s.bump.modMy (fun x => { x with posted := x.posted ++ [q] })).issue 5 3 [] { c with posted := [q.id] } false)

/-- NSEND (R280). -/
def execNsend (a : Reg) (col : Fin 8) (tk : Tok) (s : State) : Out State := netIssue (.nsend a col tk) .send a col tk s
/-- NPUT (R280). -/
def execNput (a : Reg) (col : Fin 8) (tk : Tok) (s : State) : Out State := netIssue (.nput a col tk) .put a col tk s
/-- NGET (R280). -/
def execNget (a : Reg) (col : Fin 8) (tk : Tok) (s : State) : Out State := netIssue (.nget a col tk) .get a col tk s
/-- NRECV (R280). -/
def execNrecv (a : Reg) (tk : Tok) (s : State) : Out State := netIssue (.nrecv a tk) .recv a 0 tk s

/-! ## NCTR (R278, R285) -/

/-- The virtual address of a completion counter of the launch at a tile. -/
def State.ctrAddr (s : State) (t : TileId) (c : Nat) : Word :=
  match s.launchAt t with
  | some l => l.hdr.cbase + BitVec.ofNat 64 (8 * c)
  | none => BitVec.ofNat 64 (8 * c)

/-- NCTR: the counter word is read at its home, under tag 0 (R339). -/
def nctrOp (s : State) (d : Reg) (ctr : Fin 32) (op : ReqOp) (acq : Bool) : Out State :=
  let a : RAcc := { virt := true, addr := s.ctrAddr s.ct ctr.val, op := op, vc := .vc0, wc := .none, post := false, rel := false
                    col := 0, acq := acq, d := d, tag := 0#16 }
  if s.asked then .next (s.stillAsked op) else plain s (s.addrChk a) (fun s => s.ask a)

/-- NCTR.rd (R285). -/
def execNctrRd (d : Reg) (ctr : Fin 32) (s : State) : Out State := nctrOp s d ctr (.ctr ctr.val) false
/-- NCTR.wt (R285): an acquire point at system scope. -/
def execNctrWt (d a : Reg) (ctr : Fin 32) (s : State) : Out State :=
  nctrOp s d ctr (.ctrWait ctr.val (field (s.reg a) 0 56)) true

/-! ## RTRE and RWAIT (R275, R276) -/

/-- The source of an RTRE. -/
def Cmd.treeOpds (c : Cmd) : List Opd :=
  [{ sh := c.a.getD default, bits := fwidth c.pfx.fa, bs := false, dst := false, spcs := [3, 4] }]

/-- RTRE (R275). -/
def execRtre (fn : RedFn) (a : Reg) (slot : BitVec 8) (tk : Tok) (s : State) : Out State :=
  match s.enginePfx { dfl := (0, 0, 0), okA := [0, 1, 2, 3, 4] } with
  | none => run s .illegal id
  | some x =>
    let c : Cmd := { s.sample (.rtre fn a slot tk) tk x with a := s.shapeAt a }
    let e := if slot.toNat < 32 then s.treeAt s.ct slot.toNat else none
    run s (firstOf [
        fun _ => legal (e.isSome && s.my.hold[(3 : Fin 4)] != some s.ck),
        fun _ => s.recsChk [(a, 64)],
        fun _ => s.shapesChk [a],
        fun _ => match e, c.a with
          | some (e, _, _), some h => need (h.n == e.len) .recordRefused (s.reg a)
          | _, _ => .ok,
        fun _ => s.opdsChk c.treeOpds,
        fun _ => s.issueChk 5 false 3 tk.n c.treeOpds])
      (fun s => s.issue 5 3 c.treeOpds c false)

/-- RWAIT (R276). -/
def execRwait (d a : Reg) (slot : BitVec 8) (s : State) : Out State :=
  let n := (s.my.tree[Fin.ofNat 32 slot.toNat]).count
  simple s (firstOf [
      fun _ => legal (decide (slot.toNat < 32)),
      fun _ => if (s.reg a).toNat ≤ n then .ok else .wait { kind := .delivery, tval := 0x0600 + slot.toNat }])
    (fun s => s.setReg d (BitVec.ofNat 64 n))

/-- The contribution of an RTRE: its elements in FP32 (R275). -/
def State.treeRound (s : State) (t : TileId) (c : Cmd) (fn : RedFn) : Round :=
  let o := c.treeOpds.headD default
  ⟨some fn, (List.range o.sh.n).map (fun i =>
    BitVec.ofNat 32 (roundNum 0 .rne 0 false false (s.elemNum t c o c.pfx.fa i)).1)⟩

/-- CONTRIBUTION_ACCEPTED (R175, R273, R275): the first contribution whose slot has room in the tile's router. -/
def execContributionAccepted (t : TileId) (s : State) : Out State :=
  let x := s.tile t
  match x.contribs.find? (fun k => decide ((x.tree[k.slot]).own.length < treeRoom)) with
  | none => .next s
  | some k =>
    if !s.goesOn t k.cmd.id then .next s
    else
      let s1 := s.setTile t { x.modTree k.slot (fun z => { z with own := z.own ++ [k.round] }) with
        contribs := x.contribs.filter (fun q => q.cmd.id != k.cmd.id) }
      match k.cmd.ins with
      | .rtre .. => .next (s1.opDone t 3 k.cmd k.cmd.treeOpds 0#5)
      | _ => .next (s1.matDone t k.cmd.id false 0#5)

/-! ## Accesses of the network engine (R282, R325, R326) -/

/-- What an access of the network engine comes to. -/
inductive NAcc
  | ok (s : State) (bs : List Byte)
  | refuse (s : State)
  | hold                                  -- behind a lock, or for a held stack
  | event (req : BitVec 32) (s : State)
  | frame (s : State)
  | later (s : State)
  | stop (s : State)

/-- The network edge ports of a partition that are present (R277). -/
def State.netPorts (s : State) (p : Fin 24) : List (Fin 32) := ((s.parts[p]).ports).filter (fun j => !s.boot.noNep.contains j.val)

/-- The port that the engine chooses for a packet that leaves: a free value (R284, log 16). -/
def State.pickPort (s : State) (p : Fin 24) : Option (Fin 32 × State) :=
  let l := s.netPorts p
  (l[Config.netPort s.free % l.length]?).map (fun j => (j, { s with free := s.free + 1 }))

/-- The translation unit of a network edge port (R326). -/
def nepEtu (j : Fin 32) : Fin 56 := Fin.ofNat 56 (24 + j.val)

/-- A byte range cut at granules; `k` bounds their number. -/
def pieces : Nat → Word → Nat → List (Word × Nat)
  | 0, _, _ => []
  | k + 1, va, n =>
    if n = 0 then []
    else
      let m := min n (64 - va.toNat % 64)
      (va, m) :: pieces k (va + BitVec.ofNat 64 m) (n - m)

/-- The pieces of `n` bytes. -/
def piecesOf (va : Word) (n : Nat) : List (Word × Nat) := pieces (n / 64 + 2) va n

/-- An access of the network engine, with tag 0 (R339); the launch's windows apply in its device's space, and `ver` gives the version that
a read of a read view uses (R354). -/
def State.netAcc (s : State) (ask : VAsk) (ver : Word → Option Half) (va : Word) (n : Nat) : HAcc :=
  { ask := { ask with va := va }, size := n, mod := ask.write, tag := 0#16, ver := ver va
    wins := s.spaceOf ask.p == some ask.v, plain := false, acqAt := 0 }

/-- Physical addresses of pieces under an address space, none where the device has no address space (13 R323). -/
def State.netLocate (ask : VAsk) (ver : Word → Option Half) : List (Word × Nat) → State → List (Nat × Nat) → NAcc ⊕ (State × List (Nat × Nat))
  | [], s, l => .inr (s, l)
  | (va, n) :: r, s, l =>
    if !(s.vdevs[ask.v]).sv57 then .inl (.refuse s) else
    match s.locate (s.netAcc ask ver va n) with
    | .pa pa s1 =>
      if s1.heldPa pa then .inl .hold
      else State.netLocate ask ver r s1 (l ++ [(pa, n)])
    | .refuse _ _ s1 => .inl (.refuse s1)
    | .event id s1 => .inl (.event id s1)
    | .empty s1 => .inl (.frame s1)
    | .behind s1 => .inl (.later s1)
    | .stop c s1 => .inl (.stop (s1.stopPart ask.p c))

/-- Virtual memory read by the network engine; `peer` says that poison is answered to a peer (R401). -/
def State.netRead (s : State) (ask : VAsk) (ver : Word → Option Half) (va : Word) (n : Nat) (peer : Bool) : NAcc :=
  match State.netLocate { ask with read := true } ver (piecesOf va n) s [] with
  | .inl e => e
  | .inr (s1, l) =>
    match l.find? (fun x => s1.hbmPoison x.1 x.2 false) with
    | some x => if peer then .refuse s1 else .stop (s1.stopPart ask.p (hbmStop s1 x.1))
    | none =>
      let (s2, bs) := l.foldl (fun (a : State × List Byte) x =>
        let r := a.1.stackRead ask.v x.1 x.2
        (r.2, a.2 ++ r.1)) (s1, [])
      .ok s2 bs

/-- Virtual memory written by the network engine. -/
def State.netWrite (s : State) (ask : VAsk) (va : Word) (bs : List Byte) (peer : Bool) : NAcc :=
  match State.netLocate { ask with write := true } (fun _ => none) (piecesOf va bs.length) s [] with
  | .inl e => e
  | .inr (s1, l) =>
    match l.find? (fun x => s1.hbmPoison x.1 x.2 true) with
    | some x => if peer then .refuse s1 else .stop (s1.stopPart ask.p (hbmStop s1 x.1))
    | none =>
      let (s2, _) := l.foldl (fun (a : State × List Byte) x =>
        (a.1.stackWrite ask.v ask.etu x.1 (a.2.take x.2), a.2.drop x.2)) (s1, bs)
      .ok s2 []

/-- An address space as the network engine of a partition uses it at a port; `rma` for a peer's access to a region. -/
def netAsk (p : Fin 24) (v : Fin 64) (j : Fin 32) (quiet : Bool) (rma : Bool := false) : VAsk :=
  { p := p, v := v, etu := nepEtu j, va := 0#64, read := false, write := false, quiet := quiet, rma := rma }

/-- Pieces of a local buffer of this wafer through its tile's agent (R207, R282). -/
def State.netLocal (t : TileId) (c : Cmd) (write : Bool) : List (Word × Nat) → List Byte → State → List Byte → NAcc
  | [], _, s, out => .ok s out
  | (g, n) :: r, bs, s, out =>
    match s.engGlobal t c (if write then .store (bs.take n) else .load n false) g with
    | .ok s1 v => State.netLocal t c write r (bs.drop n) s1 (out ++ leBytes n v)
    | .hold => .hold
    | .stop s1 => .stop s1
    | _ => .refuse s

/-- `n` bytes of an operation's local buffer, or bytes into it, at an offset, through the port of the packet. -/
def State.netBuf (s : State) (p : Fin 24) (o : NetOp) (j : Fin 32) (quiet : Bool) (ofs n : Nat) (bs : Option (List Byte)) : NAcc :=
  let a := o.rc.laddr + BitVec.ofNat 64 ofs
  if o.rc.lk then
    let k := { o.cmd with ctx := 0#16 }
    match bs with
    | some b => State.netLocal o.tile k true (piecesOf a b.length) b s []
    | none => State.netLocal o.tile k false (piecesOf a n) [] s []
  else match s.spaceOf p with
    | none => .refuse s
    | some v =>
      match bs with
      | some b => s.netWrite (netAsk p v j quiet) a b false
      | none => s.netRead (netAsk p v j quiet) (s.cmdVersion o.tile o.cmd) a n false

/-- A counter word after an event: COUNT modulo 2^56, ERR saturating (R278). -/
def ctrAdd (w cnt err : Nat) : Nat := min 0xFF (w / 2 ^ 56 + err) * 2 ^ 56 + (w + cnt) % 2 ^ 56

/-- A counter raised by an atomic add at its home. -/
def State.raise (s : State) (ask : VAsk) (va : Word) (cnt err : Nat) : NAcc :=
  match State.netLocate { ask with read := true, write := true } (fun _ => none) [(va, 8)] s [] with
  | .inl e => e
  | .inr (s1, (pa, _) :: _) =>
    if s1.hbmPoison pa 8 false then .stop (s1.stopPart ask.p (hbmStop s1 pa))
    else
      let (old, s2) := s1.stackRead ask.v pa 8
      .ok (s2.stackWrite ask.v ask.etu pa (leBytes 8 (ctrAdd (leNat old) cnt err))) []
  | .inr (s1, []) => .ok s1 []

/-! ## Operations of this node (R281, R282, R284) -/

/-- An operation in flight. -/
def State.netOp (s : State) (p : Fin 24) (op : Nat) : Option NetOp := (s.parts[p]).netBusy.find? (fun o => o.id == op)

/-- An operation changed. -/
def State.modNet (s : State) (p : Fin 24) (op : Nat) (f : NetOp → NetOp) : State :=
  s.modPart p (fun q => { q with netBusy := q.netBusy.map (fun o => if o.id = op then f o else o) })

/-- Is the operation an NGET? -/
def NetOp.isGet (o : NetOp) : Bool := match o.cmd.ins with | .nget .. => true | _ => false

/-- How far written ranges reach from `cur` without a gap; `k` bounds the search. -/
def covered (l : List (Nat × Nat)) : Nat → Nat → Nat
  | 0, cur => cur
  | k + 1, cur => match l.find? (fun r => decide (r.1 ≤ cur) && decide (cur < r.2)) with
    | some r => covered l k r.2
    | none => cur

/-- Has the operation reached local completion: every packet acknowledged, or every returned byte written? -/
def NetOp.complete (o : NetOp) : Bool :=
  o.sent == o.pkts.length &&
  (if o.isGet then decide (o.rc.len ≤ covered o.got o.got.length 0) else o.pkts.all (·.acked))

/-- May the operation go on, not waiting for the island, a frame or a retry? -/
def NetOp.free (o : NetOp) : Bool := match o.phase with | .going | .again => true | _ => false

/-- The order of the next transmission. -/
def NetOp.nextOrder (o : NetOp) : Nat := o.pkts.foldl (fun m k => max m k.order) 0 + 1

/-- Payload bytes of a packet. -/
def NetOp.pktLen (o : NetOp) (mtu no : Nat) : Nat := if o.isGet then 0 else min mtu (o.rc.len - mtu * no)

/-- The end of an operation (R282, R284): the counter, then the counters of R281, then the token. Where the counter's access has to wait,
the end is tried again. -/
def State.netEnd (s : State) (p : Fin 24) (o : NetOp) : State :=
  let close (s : State) : State :=
    let s1 := s.modPart p (fun q => { q with netBusy := q.netBusy.filter (fun x => x.id != o.id) })
    let s2 := (s1.modTile o.tile (fun x => { x with posted := x.posted.filter (fun q => !o.cmd.posted.contains q.id) }.complete 3
      o.cmd.tok)).progressAt o.tile
    if o.failing then s2.tell (.netEvent p o.id) else s2
  match o.rc.ce, s.spaceOf p with
  | true, some v =>
    match s.raise (netAsk p v o.port (o.phase == .again)) (s.ctrAddr o.tile o.rc.ctr.val) (if o.failing then 0 else 1)
        (if o.failing then 1 else 0) with
    | .ok s1 _ | .refuse s1 => close s1
    | .event id s1 => s1.modNet p o.id (fun x => { x with phase := .event id })
    | .frame s1 => s1.modNet p o.id (fun x => { x with phase := .frame o.port })
    | .later s1 | .stop s1 => s1
    | .hold => s
  | _, _ => close s

/-- Has the operation come to its end, with nothing that it waits for? -/
def NetOp.over (o : NetOp) : Bool := o.free && (o.failing || o.complete)

/-- Is it the operation's turn to end: under ROD, after every earlier one of its peer (R284)? -/
def Part.opTurn (q : Part) (o : NetOp) : Bool :=
  !o.rc.rod || !q.netBusy.any (fun x => x.rc.rod && x.rc.peer == o.rc.peer && decide (x.msg < o.msg))

/-- An operation that has failed, or that is complete, ends in its turn. -/
def State.netAdvance (s : State) (p : Fin 24) (op : Nat) : State :=
  match s.netOp p op with
  | none => s
  | some o => if o.over && (s.parts[p]).opTurn o then s.netEnd p o else s

/-- The wait of an operation of this node, if it waits at an ETU, ends. -/
def State.endOpWait (s : State) (p : Fin 24) (o : NetOp) : State :=
  match o.phase, s.spaceOf p with
  | .event id, _ => s.endEventWait id
  | .frame j, some v =>
    let at_ (va : Word) : Fin 56 := s.portOf (s.netAcc (netAsk p v j false) (fun _ => none) va 1)
    if o.failing || o.complete then s.endFrameWait p false at_ (s.ctrAddr o.tile o.rc.ctr.val) 1
    else s.endFrameWait p false at_ o.rc.laddr o.rc.len
  | _, _ => s

/-- An operation fails (R284): it waits for nothing more. -/
def State.netFail (s : State) (p : Fin 24) (op : Nat) : State :=
  match s.netOp p op with
  | none => s
  | some o =>
    ((s.endOpWait p o).modNet p op (fun o => { o with failing := true, phase := .going })).netAdvance p op

/-- What a packet of an operation says to its peer; a read request carries the operation that its answer names. -/
def NetOp.body (o : NetOp) : PktBody :=
  match o.cmd.ins with
  | .nput .. => .put o.rc.rkey o.rc.raddr o.rc.rce o.rc.rctr
  | .nget .. => .getReq o.rc.rkey o.rc.raddr
  | _ => .send o.rc.rq

/-- An operation of which packet `k` has been sent through a port at the clk `now`; one sent before counts as a retransmission. -/
def NetOp.sentPkt (o : NetOp) (mtu now : Nat) (k : Pkt) (j : Fin 32) : NetOp :=
  let again := decide (k.no < o.sent)
  { o with
    sent := if again then o.sent else k.no + 1
    port := j
    src := o.src.filter (fun x => x.1 / mtu != k.no)
    pkts := o.pkts.map (fun y => if y.no = k.no
      then { y with sentAt := now, order := o.nextOrder, resends := if again then y.resends + 1 else y.resends, due := false, port := none } else y) }

/-- An operation with the port of a packet chosen. -/
def NetOp.setPort (o : NetOp) (no : Nat) (j : Fin 32) : NetOp :=
  { o with pkts := o.pkts.map (fun k => if k.no = no then { k with port := some j } else k) }

/-- An operation of which a packet is to be sent again. -/
def NetOp.again (o : NetOp) (no : Nat) : NetOp :=
  { o with pkts := o.pkts.map (fun k => if k.no = no then { k with due := true, port := none } else k) }

/-- A packet of an operation with its bytes, as it leaves through a port. -/
def NetOp.packet (o : NetOp) (mtu no : Nat) (bs : List Byte) (j : Fin 32) (body : PktBody) : Packet :=
  { peer := o.rc.peer, rod := o.rc.rod, msg := o.msg, ord := if o.isGet then o.id else o.ord, seq := no
    count := o.pkts.length, len := o.rc.len, ofs := mtu * no, port := j, body := body, bytes := bs }

/-- Packet `k` leaves through a port with its bytes (R284). -/
def State.emit (s : State) (p : Fin 24) (o : NetOp) (k : Pkt) (bs : List Byte) (j : Fin 32) : State :=
  let mtu := (s.parts[p]).mtu
  ((s.modNet p o.id (fun y => y.sentPkt mtu s.now k j)).chargeP p 10 bs.length).tell (.packet p (o.packet mtu k.no bs j o.body))

/-- A source byte that has been read. -/
def NetOp.srcByte (o : NetOp) (i : Nat) : Option Byte :=
  o.src.findSome? (fun (b, l) => if b ≤ i then l[i - b]? else none)

/-- A packet that is to be sent and whose bytes have all been read: one that is sent again, or the next of the first transmissions, which
leave in ascending order (R284). -/
def NetOp.readyPkt (o : NetOp) (mtu : Nat) : Option (Pkt × List Byte) :=
  o.pkts.findSome? (fun k =>
    if k.due && !k.acked && decide (k.no ≤ o.sent) then
      ((List.range (o.pktLen mtu k.no)).mapM (fun i => o.srcByte (mtu * k.no + i))).map (fun bs => (k, bs))
    else none)

/-- The port that carries a packet: the one chosen for it, where it is still there, or a fresh choice (R284, R326, log 16). -/
def State.pktPort (s : State) (p : Fin 24) (k : Pkt) : Option (Fin 32 × State) :=
  match k.port with
  | some j => if (s.netPorts p).contains j then some (j, s) else s.pickPort p
  | none => s.pickPort p

/-- The packets that are ready leave; `n` bounds them. -/
def State.sendReady (p : Fin 24) (op : Nat) : Nat → State → State
  | 0, s => s
  | n + 1, s =>
    match s.netOp p op with
    | none => s
    | some o => match o.readyPkt (s.parts[p]).mtu with
      | none => s
      | some (k, bs) => match s.pktPort p k with
        | some (j, s1) => State.sendReady p op n (s1.emit p o k bs j)
        | none => s

/-- Bytes `ofs` to `ofs + n - 1` of the source of an operation, in a packet that is to be sent, are read at their home through the packet's
port, once for each transmission, at any time before the packet leaves (R281, R326). -/
def State.netPump (s : State) (p : Fin 24) (o : NetOp) (ofs n : Nat) : State :=
  let no := ofs / (s.parts[p]).mtu
  match o.pkts.find? (fun k => k.no == no) with
  | none => s
  | some k =>
    if !o.free || !k.due || decide (o.rc.len < ofs + n) || decide ((s.parts[p]).mtu * (no + 1) < ofs + n)
        || (List.range n).any (fun i => (o.srcByte (ofs + i)).isSome) then s
    else match s.pktPort p k with
      | none => s
      | some (j, s0) =>
        let s1 := s0.modNet p o.id (fun x => x.setPort no j)
        match s1.netBuf p o j (o.phase == .again) ofs n none with
        | .ok s2 bs =>
          State.sendReady p o.id o.pkts.length (s2.modNet p o.id (fun x => { x with phase := .going, src := (ofs, bs) :: x.src }))
        | .event id s2 => s2.modNet p o.id (fun x => { x with phase := .event id })
        | .frame s2 => s2.modNet p o.id (fun x => { x with phase := .frame j })
        | .later s2 | .stop s2 => s2
        | .hold => s1
        | .refuse s2 => s2.netFail p o.id

/-- A packet is to be sent again, its source read once more, or the operation fails at RLIM (R284). -/
def State.resend (s : State) (p : Fin 24) (o : NetOp) (k : Pkt) : State :=
  if (s.parts[p]).rlim ≤ k.resends + o.tries then s.netFail p o.id
  else State.sendReady p o.id 1 (s.modNet p o.id (fun x => x.again k.no))

/-- Packets that an acknowledgement shows missing: three or more sent after their latest transmission are acknowledged (R284). -/
def NetOp.missing (o : NetOp) : List Pkt :=
  o.pkts.filter (fun k => !k.acked && !k.due && decide (k.no < o.sent)
    && decide (3 ≤ (o.pkts.filter (fun x => x.acked && decide (k.order < x.order))).length))

/-! ## Commands of q6 (R275, R283) -/

/-- An entry for a message whose end is still to be carried out. -/
def endOf (id : Nat) (b : RBuf) (j : Fin 32) (cnt err : Nat) : InMsg :=
  { id := id, peer := 0, rod := false, msg := 0, count := 0, len := 0, buf := some b, rma := none, placed := [], port := j, st := .ending
    cnt := cnt, err := err }

/-- An incoming message changed. -/
def State.modIn (s : State) (p : Fin 24) (id : Nat) (f : InMsg → InMsg) : State :=
  s.modPart p (fun q => { q with inMsgs := q.inMsgs.map (fun m => if m.id = id then f m else m) })

/-- The counter that the end of an incoming message raises, if any: its device and address. -/
def State.inCounter (s : State) (p : Fin 24) (m : InMsg) : Option (Fin 64 × Word) :=
  match m.buf, m.rma with
  | some b, _ => if b.ce then (s.spaceOf p).map (fun v => (v, s.ctrAddr b.tile b.ctr.val)) else none
  | none, some r => if r.rce && m.cnt != 0 then some (r.v, r.rcb + BitVec.ofNat 64 (8 * r.rctr.val)) else none
  | none, none => none

/-- The end of an incoming message (R282, R283, R325): its counter, then the token of the NRECV whose buffer it took. -/
def State.inEnd (s : State) (p : Fin 24) (m : InMsg) : State :=
  let close (s : State) : State :=
    let s1 := s.modIn p m.id (fun x => { x with st := if m.cnt = 0 then .refused else .ended })
    match m.buf with
    | some b => (s1.modTile b.tile (fun x => x.complete 3 b.tok)).progressAt b.tile
    | none => s1
  match s.inCounter p m with
  | none => close s
  | some (v, va) =>
    match s.raise (netAsk p v m.port m.quiet m.buf.isNone) va m.cnt m.err with
    | .ok s1 _ | .refuse s1 => close s1
    | .event id s1 => s1.modIn p m.id (fun x => { x with wait := some id })
    | .frame s1 => s1.modIn p m.id (fun x => { x with frame := true, quiet := true })
    | .later s1 | .stop s1 => s1
    | .hold => s

/-- Every byte of the message is placed. -/
def InMsg.full (m : InMsg) : Bool := (List.range m.count).all (fun i => m.placed.contains i)

/-- Is it the message's turn to end: under ROD, after every earlier one of its peer (R284)? -/
def Part.turn (q : Part) (m : InMsg) : Bool := !m.rod || tget 0 q.netDone m.peer == m.msg

/-- A message of a peer under ROD has come to its end in its turn. -/
def Part.passMsg (q : Part) (m : InMsg) : Part := if m.rod then { q with netDone := tset q.netDone m.peer (m.msg + 1) } else q

/-- One message that can go on: it ends, it is complete in its turn, or, refused and at its end, it lets the next one of its peer go on. -/
def Part.nextIn (q : Part) : Option InMsg :=
  q.inMsgs.find? (fun m => (m.st == .ending && m.wait.isNone && !m.frame) || (m.st == .going && m.full && q.turn m)
    || (m.st == .refused && m.rod && q.turn m))

/-- Incoming messages that can go on do so; `n` bounds the steps. -/
def State.netSettle (p : Fin 24) : Nat → State → State
  | 0, s => s
  | n + 1, s =>
    match (s.parts[p]).nextIn with
    | some m =>
      match m.st with
      | .going =>
        State.netSettle p n ((s.modPart p (fun q => q.passMsg m)).modIn p m.id (fun x => { x with
          st := .ending, cnt := 1
          err := match m.buf with | some b => if b.len < m.len then 1 else 0 | none => 0 }))
      | .refused => State.netSettle p n (s.modPart p (fun q => q.passMsg m))
      | _ =>
        let s1 := s.inEnd p m
        match (s1.parts[p]).inMsgs.find? (fun x => x.id == m.id) with
        | some x => if x.st = .ending then s1 else State.netSettle p n s1
        | none => s1
    | none => s

/-- Every message that can go on. -/
def State.settleIn (s : State) (p : Fin 24) : State := State.netSettle p (3 * (s.parts[p]).inMsgs.length + 3) s

/-- The acknowledgement of a message, which names every packet of it that has been received: placed, or early under ROD (R284). -/
def InMsg.sack (p : Fin 24) (m : InMsg) : Notice :=
  .sack p m.peer m.rod m.msg (.acked (m.placed ++ m.early.filter (fun i => !m.placed.contains i)))

/-- A message that is refused (R284, R325): its sender is told, and a message that has taken a buffer raises ERR and ends that NRECV. One
that has been refused before is not ended again. -/
def State.inRefuse (s : State) (p : Fin 24) (m : InMsg) : State :=
  (if m.st = .going then
    s.modIn p m.id (fun x => { x with st := if x.buf.isSome then .ending else .refused, cnt := 0, err := 1, wait := none })
  else s).tell (.sack p m.peer m.rod m.msg .refusedKey)

/-- NRECV appends its buffer, or completes at once where its queue is full (R283). -/
def State.postBuf (s : State) (p : Fin 24) (t : TileId) (c : Cmd) (r : SendRec) : State :=
  let b : RBuf := { tile := t, uid := c.uid, tok := c.tok, laddr := r.laddr, len := r.len, ce := r.ce, ctr := r.ctr }
  let l := (s.parts[p]).recvq[r.rq]
  if l.length < 256 then s.modPart p (fun q => { q with recvq := q.recvq.set r.rq (l ++ [b]) })
  else (s.bump.modPart p (fun q => { q with inMsgs := q.inMsgs ++ [endOf s.fresh b ((s.netPorts p).headD 0) 0 1] })).settleIn p

/-- A network operation as the engine takes it; an NGET's request leaves at once. -/
def State.startNet (s : State) (p : Fin 24) (t : TileId) (c : Cmd) (r : SendRec) : State :=
  let q := s.parts[p]
  let key := 2 * r.peer + b2n r.rod
  let send := match c.ins with | .nsend .. => true | _ => false
  let get := match c.ins with | .nget .. => true | _ => false
  let n := if get then 1 else (r.len + q.mtu - 1) / q.mtu
  let o : NetOp := {
    id := c.id, tile := t, cmd := c, rc := r, tries := 0, phase := .going, failing := false, got := []
    msg := tget 0 q.outMsg key, ord := tget 0 q.outOrd key
    pkts := (List.range n).map (fun i => { no := i, acked := false, sentAt := 0, order := 0, resends := 0 }) }
  let s1 := s.modPart p (fun q => { q with
    netBusy := q.netBusy ++ [o], outMsg := tset q.outMsg key (o.msg + 1)
    outOrd := if send then tset q.outOrd key (o.ord + 1) else q.outOrd })
  if get then State.sendReady p o.id 1 s1 else s1

/-- NETWORK_COMMAND_START (R275): with `e.n = 0` the engine takes the command at the head of q6, outside held clks (20 R421) and not of a
halted tile; else it reads `e.n` source bytes at the offset `e.ofs` of the operation `e.op` of the tile, in a drain too (R281, 15 R367,
log 16). -/
def execNetworkCommandStart (e : NetStart) (s : State) : Out State :=
  let t := e.tile
  let x := s.tile t
  let (c, q) := startHead x.cmdq[(3 : Fin 4)]
  let s1 := s.setTile t { x with cmdq := x.cmdq.set 3 q }
  match s.partOf t with
  | none => .next s
  | some p =>
    if e.n ≠ 0 then
      match s.netOp p e.op with
      | some o => .next (if o.tile == t && !o.isGet && !o.failing then s.netPump p o e.ofs e.n else s)
      | none => .next s
    else if !s.startsOn t c || s.heldNow then .next s
    else match c with
      | none => .next s1
      | some c =>
        match c.ins, c.rc with
        | .rtre fn _ slot _, _ =>
          match s.opdsPoison t c.ctx c.treeOpds with
          | some (sp, w) => .next (s.stopAt t (s.poisonStop t sp (8 * w)))
          | none =>
            let k : Contrib := { cmd := c, slot := Fin.ofNat 32 slot.toNat, round := s.treeRound t c fn }
            .next (s1.modTile t (fun x => { x with contribs := x.contribs ++ [k] }))
        | .nrecv .., .send r => .next (s1.postBuf p t c r)
        | _, .send r => .next (s1.startNet p t c r)
        | _, _ => .next s1

/-! ## Answers to peers' reads (R284, R325) -/

/-- An answer changed. -/
def State.modAns (s : State) (p : Fin 24) (id : Nat) (f : NetOp → NetOp) : State :=
  s.modPart p (fun q => { q with answers := q.answers.map (fun a => if a.o.id = id then { a with o := f a.o } else a) })

/-- An answer that has come to its end. -/
def State.dropAns (s : State) (p : Fin 24) (id : Nat) : State :=
  s.modPart p (fun q => { q with answers := q.answers.filter (fun a => a.o.id != id) })

/-- An answer that fails: its peer is told (log 16). -/
def State.failAns (s : State) (p : Fin 24) (a : NetAns) : State :=
  (s.dropAns p a.o.id).tell (.sack p a.o.rc.peer a.o.rc.rod a.o.msg .refusedKey)

/-- The next packet of an answer that is to be sent. -/
def NetOp.nextDue (o : NetOp) : Option Pkt := o.pkts.find? (fun k => k.due && !k.acked && decide (k.no ≤ o.sent))

/-- One packet of an answer: its bytes are read through its port, and it leaves. -/
def State.ansStep (s : State) (p : Fin 24) (a : NetAns) : State :=
  let mtu := (s.parts[p]).mtu
  let o := a.o
  match (if o.free then o.nextDue else none) with
  | none => s
  | some k => match s.pktPort p k with
    | none => s
    | some (j, s0) =>
      let s1 := s0.modAns p o.id (fun x => x.setPort k.no j)
      match s1.netRead (netAsk p a.v j (o.phase == .again) true) (fun _ => none) (o.rc.laddr + BitVec.ofNat 64 (mtu * k.no))
          (min mtu (o.rc.len - mtu * k.no)) true with
      | .ok s2 bs =>
        ((s2.modAns p o.id (fun x => { x.sentPkt mtu s.now k j with phase := .going })).charge a.v 10 bs.length).tell
          (.packet p (o.packet mtu k.no bs j (.getData o.ord)))
      | .event id s2 => s2.modAns p o.id (fun x => { x with phase := .event id })
      | .frame s2 => s2.modAns p o.id (fun x => { x with phase := .frame j })
      | .later s2 | .stop s2 => s2
      | .hold => s1
      | .refuse s2 => s2.failAns p a

/-- The answers of a partition go on, each by one packet. -/
def State.ansRun (s : State) (p : Fin 24) : State :=
  (s.parts[p]).answers.foldl (fun s a => match (s.parts[p]).answers.find? (fun b => b.o.id == a.o.id) with
    | some b => s.ansStep p b
    | none => s) s

/-- A packet of an answer is to be sent again, or the answer fails at RLIM (R284). -/
def State.ansResend (s : State) (p : Fin 24) (a : NetAns) (k : Pkt) : State :=
  if (s.parts[p]).rlim ≤ k.resends then s.failAns p a else s.modAns p a.o.id (fun x => x.again k.no)

/-- An acknowledgement or a refusal of the data of an answer. -/
def State.ansSack (s : State) (p : Fin 24) (a : NetAns) (x : SackBody) : State :=
  match x with
  | .refusedKey | .notReady => s.dropAns p a.o.id
  | .acked l =>
    let o : NetOp := { a.o with pkts := a.o.pkts.map (fun k => if l.contains k.no && decide (k.no < a.o.sent) then { k with acked := true } else k) }
    if o.pkts.all (·.acked) then s.dropAns p o.id
    else o.missing.foldl (fun s k => match (s.parts[p]).answers.find? (fun b => b.o.id == o.id) with
      | some b => s.ansResend p b k
      | none => s) (s.modAns p o.id (fun _ => o))

/-! ## Acknowledgements and timeouts (R283, R284) -/

/-- SACK_ARRIVAL (R284). -/
def execSackArrival (p : Fin 24) (op : Nat) (x : SackBody) (s : State) : Out State :=
  match s.netOp p op with
  | none => match (s.parts[p]).answers.find? (fun a => a.o.id == op) with
    | some a => .next (s.ansSack p a x)
    | none => .next s
  | some o =>
    if o.failing || o.sent == 0 || (!o.isGet && o.complete) then .next s
    else match x with
      | .refusedKey => .next (s.netFail p op)
      | .notReady =>
        let due : Bool := match o.phase with | .notReady _ => true | _ => false
        if due then .next s
        else if o.pkts.any (fun k => decide ((s.parts[p]).rlim ≤ k.resends + o.tries)) then .next (s.netFail p op)
        else .next (s.modNet p op (fun o => { o with phase := .notReady (s.now + 14000) }))
      | .acked l =>
        let s1 := s.modNet p op (fun o => { o with
          pkts := o.pkts.map (fun k => if l.contains k.no && decide (k.no < o.sent) then { k with acked := true } else k) })
        match s1.netOp p op with
        | none => .next s1
        | some o1 =>
          if o1.complete then .next (s1.netAdvance p op)
          else .next (o1.missing.foldl (fun s k => match s.netOp p op with
            | some o2 => if o2.failing || !o2.free then s else s.resend p o2 k
            | none => s) s1)

/-- RTO_EXPIRY (R284): RTO clks after the latest transmission of a packet that is not acknowledged. -/
def execRtoExpiry (p : Fin 24) (op pkt : Nat) (s : State) : Out State :=
  let late (k : Pkt) (o : NetOp) : Bool :=
    !k.acked && !k.due && decide (k.no < o.sent) && decide (k.sentAt + (s.parts[p]).rto ≤ s.now)
  match s.netOp p op with
  | none => match (s.parts[p]).answers.find? (fun a => a.o.id == op) with
    | some a => match a.o.pkts.find? (fun k => k.no == pkt) with
      | some k => .next (if late k a.o then s.ansResend p a k else s)
      | none => .next s
    | none => .next s
  | some o =>
    match o.pkts.find? (fun k => k.no == pkt) with
    | none => .next s
    | some k =>
      if late k o && !o.failing && o.free then
        .next (s.resend p o k)
      else .next s

/-- NOT_READY_RETRY (R283): the message is sent again, its source read once more; that counts toward RLIM. -/
def execNotReadyRetry (p : Fin 24) (op : Nat) (s : State) : Out State :=
  match s.netOp p op with
  | none => .next s
  | some o => match o.phase with
    | .notReady due =>
      if s.now < due then .next s
      else
        let s1 := s.modNet p op (fun o => { o with
          tries := o.tries + 1, phase := .going, sent := 0, src := []
          pkts := o.pkts.map (fun k => { k with acked := false, due := true, port := none }) })
        .next (if o.isGet then State.sendReady p op 1 s1 else s1)
    | _ => .next s

/-! ## Packets from peers (R282 to R284, R325) -/

/-- The region entry that a peer's access finds: the lowest with its key, if it gives the right and holds the range, and its device is
assigned to the partition, which is itself assigned, and has an address space (R323, R325). -/
def State.region (s : State) (p : Fin 24) (key : BitVec 32) (addr : Word) (len : Nat) (write : Bool) : Option Rma :=
  match s.rma.find? (fun e => e.2.en && e.2.key == key) with
  | some (_, e) =>
    if (s.parts[p]).st = .assigned ∧ (s.vdevs[e.vdev]).part.val = p.val ∧ (s.vdevs[e.vdev]).sv57 = true ∧ (if write then e.wr else e.rd) = true ∧ e.base.toNat ≤ addr.toNat
        ∧ addr.toNat + len ≤ e.base.toNat + e.len.toNat then some e else none
  | none => none

/-- The message that a packet belongs to, if its first packet has come before. -/
def Part.inMsg (q : Part) (x : Packet) : Option InMsg :=
  q.inMsgs.find? (fun m => m.peer == x.peer && m.rod == x.rod && m.msg == x.msg && m.count == x.count && m.count != 0)

/-- A fresh message. -/
def InMsg.new (id : Nat) (x : Packet) (buf : Option RBuf) (rma : Option RmaIn) : InMsg :=
  { id := id, peer := x.peer, rod := x.rod, msg := x.msg, count := x.count, len := x.len, buf := buf, rma := rma, placed := []
    port := x.port, st := .going, cnt := 0, err := 0 }

/-- Is the launch of the partition RUNNING (R367)? -/
def State.netRunning (s : State) (p : Fin 24) : Bool :=
  match s.curLaunch p with
  | some l => l.st == .running
  | none => false

/-- What becomes of a packet: it is done with, or it is kept. -/
inductive Took
  | done (s : State)
  | keep (s : State) (h : HeldPkt)

/-- An access of the engine for a packet that has to wait. -/
def NAcc.took (h : HeldPkt) (s : State) : NAcc → Took
  | .ok s1 _ => .done s1
  | .refuse s1 => .done s1
  | .hold => .keep s { h with ready := true }
  | .event id s1 => .keep s1 { h with req := some id, ready := false }
  | .frame s1 => .keep s1 { h with quiet := true, ready := false }
  | .later s1 => .keep s1 { h with ready := true }
  | .stop s1 => .done s1

/-- Where a packet of a message goes: device, address and the bytes that its buffer takes (R283). -/
def State.target (s : State) (p : Fin 24) (m : InMsg) (x : Packet) : Option (Fin 64 × Word × List Byte) :=
  match m.buf, m.rma with
  | some b, _ => (s.spaceOf p).map (fun v => (v, b.laddr + BitVec.ofNat 64 x.ofs, x.bytes.take (b.len - x.ofs)))
  | none, some r => some (r.v, r.addr + BitVec.ofNat 64 x.ofs, x.bytes)
  | none, none => none

/-- A packet placed at its home, once, and acknowledged; under ROD in packet order (R284). Poison that a buffer of the launch would meet stops
the partition, and refuses a peer's write to a region (18 R401). -/
def State.placePkt (s : State) (p : Fin 24) (m : InMsg) (h : HeldPkt) : Took :=
  let x := h.pkt
  if m.st = .refused || (m.st == .ending && m.cnt == 0) then .done (s.tell (.sack p m.peer m.rod m.msg .refusedKey))
  else if m.st != .going || m.placed.contains x.seq then .done (s.tell (m.sack p))
  else if m.rod && x.seq != m.placed.length then
    -- an early packet is received, and named so once
    if m.early.contains x.seq then .keep s { h with ready := true }
    else
      let m1 := { m with early := x.seq :: m.early }
      .keep ((s.modIn p m.id (fun _ => m1)).tell (m1.sack p)) { h with ready := true }
  else match s.target p m x with
    | none => .done (s.inRefuse p m)
    | some (v, va, bs) =>
      match s.netWrite (netAsk p v x.port h.quiet m.buf.isNone) va bs m.buf.isNone with
      | .ok s1 _ =>
        let m1 := { m with placed := x.seq :: m.placed, port := x.port }
        .done (((s1.modIn p m.id (fun _ => m1)).charge v 11 bs.length).tell (m1.sack p))
      | .refuse s1 => .done (s1.inRefuse p m)
      | r => r.took h s

/-- Do two packets belong to one message? -/
def sameMsg (x y : Packet) : Bool := x.peer == y.peer && x.rod == y.rod && x.msg == y.msg

/-- The packets of a send that are kept before its turn. -/
def Part.keptOf (q : Part) (x : Packet) : List Nat :=
  (q.heldPkts.filter (fun h => sameMsg h.pkt x && (match h.pkt.body with | .send _ => true | _ => false))).map (·.pkt.seq)

/-- The acknowledgement of a send that waits for its turn: it names the packets that are kept (R284). -/
def State.ackKept (s : State) (p : Fin 24) (x : Packet) : State :=
  s.tell (.sack p x.peer x.rod x.msg (.acked ((x.seq :: (s.parts[p]).keptOf x).eraseDups)))

/-- The first packet of a message: a send takes the next buffer of its queue in its turn; a write finds its region (R283, R325). A send
that finds its queue empty is refused as not ready; before its turn it is kept, and acknowledged. One that has been acknowledged before
its turn waits for a buffer (log 16). -/
def State.openMsg (s : State) (p : Fin 24) (h : HeldPkt) : Took :=
  let q := s.parts[p]
  let x := h.pkt
  let refused : Took := if h.early then .keep s { h with ready := true } else .done (s.tell (.sack p x.peer x.rod x.msg .notReady))
  let put (m : InMsg) (s : State) : Took := (s.bump.modPart p (fun q => { q with inMsgs := q.inMsgs ++ [m] })).placePkt p m h
  match x.body with
  | .send rq =>
    let key := 2 * x.peer + b2n x.rod
    if x.ord < tget 0 q.netNext key then .done s
    else if !s.netRunning p then refused
    else if tget 0 q.netNext key < x.ord then .keep (if h.early then s else s.ackKept p x) { h with ready := true, early := true }
    else match q.recvq[rq] with
      | b :: r =>
        put (InMsg.new s.fresh x (some b) none) (s.modPart p (fun q => { q with
          recvq := q.recvq.set rq r, netNext := tset q.netNext key (x.ord + 1) }))
      | [] => refused
  | .put key addr rce rctr =>
    match s.region p key addr x.len true with
    | some e => put (InMsg.new s.fresh x none (some { v := e.vdev, rcb := e.rcb, addr := addr, rce := rce, rctr := rctr })) s
    | none => put { InMsg.new s.fresh x none none with st := .refused } s
  | _ => .done s

/-- Data that answers an NGET of this node: written at LADDR (R282), behind the earlier posted accesses of its tile to those granules
(08 R217), and acknowledged. -/
def State.placeGet (s : State) (p : Fin 24) (o : NetOp) (h : HeldPkt) : Took :=
  let x := h.pkt
  let ack (s : State) : State := s.tell (.sack p x.peer x.rod x.msg (.acked [x.seq]))
  let seen := o.got.contains (x.ofs, x.ofs + x.bytes.length)
  if o.failing || !o.isGet || seen then .done (ack s)
  else if o.rc.rod && covered o.got o.got.length 0 != x.ofs then
    -- under ROD the data are written in packet order; an early packet is received, and acknowledged once
    .keep (if h.early then s else ack s) { h with ready := true, early := true }
  else if !o.cmd.posted.all (s.mayLeave o.tile) then .keep s { h with ready := true }
  else match s.netBuf p o x.port h.quiet x.ofs x.bytes.length (some x.bytes) with
    | .ok s1 _ =>
      .done ((ack ((s1.modNet p o.id (fun y => { y with
        got := (x.ofs, x.ofs + x.bytes.length) :: y.got, port := x.port, pkts := y.pkts.map (fun k => { k with acked := true }) })).chargeP
          p 11 x.bytes.length)).netAdvance p o.id)
    | .refuse s1 => .done (s1.netFail p o.id)
    | r => r.took h s

/-- The operation that answers a peer's read: its data, cut at the MTU (R284). -/
def answerOp (x : Packet) (id mtu : Nat) (addr : Word) : NetOp :=
  { (default : NetOp) with
    id := id, phase := .going, msg := x.msg, ord := x.ord
    rc := { (default : SendRec) with peer := x.peer, rod := x.rod, laddr := addr, len := x.len }
    pkts := (List.range ((x.len + mtu - 1) / mtu)).map (fun i => { no := i, acked := false, sentAt := 0, order := 0, resends := 0 }) }

/-- A peer's read of a region (R325): it is acknowledged, and its data leave packet by packet. Under ROD it is served in its turn. -/
def State.serveGet (s : State) (p : Fin 24) (h : HeldPkt) (key : BitVec 32) (addr : Word) : Took :=
  let x := h.pkt
  let q := s.parts[p]
  let done := tget 0 q.netDone x.peer
  let pass (s : State) : State :=
    if x.rod && done == x.msg then s.modPart p (fun q => q.passMsg (InMsg.new 0 x none none)) else s
  if x.rod && done < x.msg then .keep s { h with ready := true }
  else if q.answers.any (fun a => a.o.rc.peer == x.peer && a.o.rc.rod == x.rod && a.o.msg == x.msg) then .done s
  else match s.region p key addr x.len false with
    | none => .done (pass (s.tell (.sack p x.peer x.rod x.msg .refusedKey)))
    | some e => .done (pass ((s.bump.modPart p (fun q => { q with
        answers := q.answers ++ [{ v := e.vdev, o := answerOp x s.fresh q.mtu addr }] })).tell (.sack p x.peer x.rod x.msg (.acked [0]))))

/-- What becomes of a packet that has come. -/
def State.takePkt (s : State) (p : Fin 24) (h : HeldPkt) : Took :=
  match h.pkt.body with
  | .access _ => .done s
  | .getData op => match s.netOp p op with
    | some o => s.placeGet p o h
    | none => .done (s.tell (.sack p h.pkt.peer h.pkt.rod h.pkt.msg (.acked [h.pkt.seq])))
  | .getReq key addr => s.serveGet p h key addr
  | _ => match (s.parts[p]).inMsg h.pkt with
    | some m => s.placePkt p m h
    | none => s.openMsg p h

/-- A packet that has come, taken or kept. -/
def State.meetOne (s : State) (p : Fin 24) (h : HeldPkt) : State :=
  match s.takePkt p h with
  | .done s1 => s1
  | .keep s1 h1 => s1.modPart p (fun q => { q with heldPkts := q.heldPkts ++ [h1] })

/-- The first of the kept packets with which a send takes its buffer: its turn has come, and its queue has one. -/
def Part.nextOpen (q : Part) : Option HeldPkt :=
  q.heldPkts.find? (fun h => (match h.pkt.body with | .send rq => !q.recvq[rq].isEmpty | _ => false) && (q.inMsg h.pkt).isNone
    && h.pkt.ord == tget 0 q.netNext (2 * h.pkt.peer + b2n h.pkt.rod))

/-- Sends whose first packets have come before their turn take their buffers as soon as it comes, in the order of those packets and before
any later packet (R283); `n` bounds them. -/
def State.openKept (p : Fin 24) : Nat → State → State
  | 0, s => s
  | n + 1, s =>
    match (if s.netRunning p then (s.parts[p]).nextOpen else none) with
    | some h => State.openKept p n ((s.modPart p (fun q => { q with heldPkts := q.heldPkts.erase h })).meetOne p h)
    | none => s

/-- The sends whose turn has come take their buffers. -/
def State.openAll (s : State) (p : Fin 24) : State := State.openKept p (s.parts[p]).heldPkts.length s

/-- A packet that has come, taken or kept, behind the sends whose turn has come before it and before those whose turn comes with it. -/
def State.meetPkt (s : State) (p : Fin 24) (h : HeldPkt) : State := ((s.openAll p).meetOne p h).openAll p

/-- One pass over the packets that are kept and may be tried again, in the order in which they came. -/
def State.passHeld (s : State) (p : Fin 24) : State :=
  let l := (s.parts[p]).heldPkts
  l.foldl (fun s h => if h.ready then s.meetPkt p h else s.modPart p (fun q => { q with heldPkts := q.heldPkts ++ [h] }))
    (s.modPart p (fun q => { q with heldPkts := [] }))

/-- Kept packets tried again until none more is taken; `n` bounds the passes. -/
def State.tryHeld (p : Fin 24) : Nat → State → State
  | 0, s => s
  | n + 1, s =>
    let s1 := s.passHeld p
    if (s1.parts[p]).heldPkts.length < (s.parts[p]).heldPkts.length then State.tryHeld p n s1 else s1

/-- Has the network engine of a partition something that it can go on with: the end of an operation or of a message, a kept packet, or an
answer? -/
def Part.netReady (q : Part) : Bool :=
  q.netBusy.any (·.over) || q.nextIn.isSome || q.heldPkts.any (·.ready) || q.answers.any (fun a => a.o.free && a.o.nextDue.isSome)

/-- What a partition's network engine can go on with, it goes on with. -/
def State.netRun (s : State) (p : Fin 24) : State :=
  let s1 := (((s.parts[p]).netBusy.filter (·.over)).foldl (fun s o => s.netAdvance p o.id) s).settleIn p
  let s2 := if (s1.parts[p]).heldPkts.any (·.ready) then State.tryHeld p (s1.parts[p]).heldPkts.length s1 else s1
  s2.ansRun p

/-- Every network engine that can go on may do so after a step: when it does is a free value (log 16). -/
def State.netRunAll (s : State) : State :=
  (List.finRange 24).foldl (fun s p => if (s.parts[p]).netReady && Config.netTurn (24 * s.steps + p.val) then s.netRun p else s) s

/-- Is a copy of the packet kept already (R325)? -/
def Part.keeps (q : Part) (x : Packet) : Bool :=
  q.heldPkts.any (fun h => h.pkt.peer == x.peer && h.pkt.rod == x.rod && h.pkt.msg == x.msg && h.pkt.seq == x.seq && h.pkt.body == x.body)

/-- An access of another wafer reaches its tile of the partition as a request (R212); to a tile elsewhere it is refused. -/
def State.enterPeer (s : State) (p : Fin 24) (a : PeerAcc) : State :=
  let t := gTile a.addr
  if s.partOf t == some p && !s.boot.absent.contains t then
    { s.bump with plane := s.plane ++ [{
        id := s.fresh, tile := tileAt a.row a.col, slot := 0, uid := 0, op := a.op, virt := false, addr := a.addr, tag := a.tag, ver := none
        vc := .vc0, post := a.post, acq := false, d := 0, drain := none, from_ := some a.chip, phase := .out }] }
  else s.bump.tell (.peer a.chip s.fresh false a.addr)

/-- Another copy of a packet that is kept: it is acknowledged again where its first copy was before its turn (R284), and not while that
waits for the island (R325). -/
def State.meetCopy (s : State) (p : Fin 24) (x : Packet) : State :=
  match (s.parts[p]).inMsg x, x.body with
  | some m, _ => if m.early.contains x.seq then s.tell (m.sack p) else s
  | none, .send _ => s.ackKept p x
  | none, .getData _ => if (s.parts[p]).heldPkts.any (fun h => h.early && sameMsg h.pkt x && h.pkt.seq == x.seq)
      then s.tell (.sack p x.peer x.rod x.msg (.acked [x.seq])) else s
  | none, _ => s

/-- PACKET_ARRIVAL (R212, R282 to R284, R325) at a port of the partition, while it is assigned (R323). -/
def execPacketArrival (p : Fin 24) (x : Packet) (s : State) : Out State :=
  if (s.parts[p]).st != .assigned || !(s.netPorts p).contains x.port then .next s
  else match x.body with
    | .access a => .next (s.enterPeer p a)
    | _ =>
      if (s.parts[p]).keeps x then .next (s.meetCopy p x)
      else .next (s.meetPkt p { pkt := x })

/-! ## What waits for the island goes on (R330, R332) -/

/-- A request that waits under an event walks again, or is refused (R332). -/
def State.respondReq (s : State) (id : BitVec 32) (walk : Bool) : State :=
  { s with
    plane := s.plane.map (fun r => if r.phase = .event id
      then { r with phase := if walk then .again else .refused .virtualRefused r.addr } else r)
    etuWaits := s.etuWaits.filter (fun w => w.req != some id) }

/-- The phase of an operation whose pause has ended. -/
def resumed (acc : Option Nat) : CPhase := match acc with | some n => .accepted n | none => .running

/-- Does the operation wait under the event `id`? -/
def CRun.waitsOn (c : CRun) (id : BitVec 32) : Bool :=
  match c.phase with
  | .event i _ _ => i == id
  | _ => false

/-- An operation that waits under an event goes on, or is about to fail (10 R261). -/
def CRun.respond (c : CRun) (id : BitVec 32) (walk : Bool) : CRun :=
  match c.phase with
  | .event i va acc => if i = id then { c with phase := if walk then resumed acc else .failed .virtualRefused va } else c
  | _ => c

/-- The operations of a tile after a response; a blank that waited for first words waits no longer. -/
def Tile.respond (x : Tile) (id : BitVec 32) (walk : Bool) : Tile :=
  let x1 := (x.copies.filter (fun c => c.waitsOn id)).foldl (fun (x : Tile) c => x.setFw c.cmd false) x
  { x1 with copies := x1.copies.map (fun c => c.respond id walk) }

/-- An EGEMV that its stack has accepted and whose translation the island refuses gives its version reference back (R268). -/
def State.dropStamps (s : State) (t : TileId) (x : Tile) (id : BitVec 32) : State :=
  x.copies.foldl (fun s c => match c.phase, c.cmd.rc with
    | .event i _ (some _), .edge r => if i = id then s.endStamp t c.cmd r else s
    | _, _ => s) s

/-- A kept packet whose translation the island refuses (R325). -/
def State.refuseHeld (s : State) (p : Fin 24) (h : HeldPkt) : State :=
  let x := h.pkt
  let s1 := s.modPart p (fun q => { q with heldPkts := q.heldPkts.filter (fun k => k != h) })
  match x.body with
  | .getData op => s1.netFail p op
  | .getReq .. => s1
  | _ => match (s.parts[p]).inMsg x with
    | some m => s1.inRefuse p m
    | none => s1

/-- Operations, messages and packets of a partition after a response. -/
def State.respondNet (s : State) (p : Fin 24) (id : BitVec 32) (walk : Bool) : State :=
  let q := s.parts[p]
  let s1 := match q.netBusy.find? (fun o => o.phase == .event id) with
    | some o =>
      let s2 := s.modNet p o.id (fun o => { o with phase := .going })
      -- a refused translation of the source fails the operation; of the counter, it leaves the counter as it is
      if walk then s2.netAdvance p o.id
      else if o.failing || o.complete then (s2.modNet p o.id (fun o => { o with rc := { o.rc with ce := false } })).netAdvance p o.id
      else s2.netFail p o.id
    | none => s
  let s2 : State := match q.inMsgs.find? (fun m => m.wait == some id) with
    | some m =>
      s1.modIn p m.id (fun m => if walk then { m with wait := none } else { m with
        wait := none
        buf := m.buf.map (fun b => { b with ce := false }), rma := m.rma.map (fun r => { r with rce := false }) })
    | none => s1
  let s3 := match q.heldPkts.find? (fun h => h.req == some id) with
    | some h =>
      if walk then s2.modPart p (fun q => { q with heldPkts := q.heldPkts.map (fun k => if k = h then { k with req := none, ready := true } else k) })
      else s2.refuseHeld p h
    | none => s2
  match q.answers.find? (fun a => a.o.phase == .event id) with
  | some a => if walk then s3.modAns p a.o.id (fun o => { o with phase := .going }) else s3.failAns p a
  | none => s3

/-- TRANSLATION_RESPONSE (R332): a response that names no waiting request is discarded. -/
def execTranslationResponse (id : BitVec 32) (walk : Bool) (s : State) : Out State :=
  let s0 := if walk then s else s.tiles.foldl (fun s tx => s.dropStamps tx.1 tx.2 id) s
  let s1 := s0.respondReq id walk
  let s2 := { s1 with
    tiles := s1.tiles.map (fun tx => (tx.1, tx.2.respond id walk))
    launches := s1.launches.map (fun l => if l.wait = some id then { l with wait := none, denied := l.denied || !walk } else l) }
  .next ((List.finRange 24).foldl (fun s (p : Fin 24) => s.respondNet p id walk) s2)

/-- Does it wait for a frame? -/
def NetPhase.framed : NetPhase → Bool
  | .frame _ => true
  | _ => false

/-- FPTAIL_WRITE (R330): accesses that wait for a frame may go on. -/
def execFptailWrite (p : Fin 24) (v : BitVec 32) (s : State) : Out State :=
  .next (s.modPart p (fun q => { q with
    fptail := v
    netBusy := q.netBusy.map (fun o => if o.phase.framed then { o with phase := .again } else o)
    inMsgs := q.inMsgs.map (fun m => { m with frame := false })
    answers := q.answers.map (fun a => if a.o.phase.framed then { a with o := { a.o with phase := .again } } else a)
    heldPkts := q.heldPkts.map (fun h => if h.req.isNone then { h with ready := true } else h) }))

end Machine
end Sys2Proof
end

