-- ==== Sys2Proof/Machine/Held.lean ====
section
/-! DEFINITION. The island's action on a strand that it holds (01 R30), with what becomes of a command queue that the strand holds
(04 R122). -/

namespace Sys2Proof
namespace Machine

/-- What a command that never starts has taken at issue is given back: its locks, its source blanks, its posted accesses; its
destination blanks become empty with ERR (log 24). -/
def Tile.withdraw (x : Tile) (c : Cmd) : Tile :=
  { (x.endOps c (match c.rc with | .none => c.vecOpds | _ => c.cpOpds) false) with
    posted := x.posted.filter (fun q => !c.posted.contains q.id) }

/-- The hold of a command queue by a freed strand ends: the held command leaves the queue with its completion reservation
(R122). -/
def Tile.endHold (x : Tile) (k : Fin 4) (q : Fin 4) : Tile :=
  if x.hold[q] = some k then
    let l := x.cmdq[q]
    let x1 : Tile := { x with hold := x.hold.set q none, cmdq := x.cmdq.set q l.dropLast }
    match l.getLast? with
    | some (.cmd c) => (if c.tok.n then { x1 with resv := x1.resv.set q (x1.resv[q] - 1) } else x1).withdraw c
    | _ => x1
  else x

/-- The holds of a freed strand end. -/
def Tile.freeHeld (x : Tile) (k : Fin 4) : Tile :=
  (List.finRange 4).foldl (fun x q => x.endHold k q) x

/-- ISLAND_STRAND_ACTION (R30): a held strand goes on with new trap words (log 23), or its slot is freed. -/
def execIslandStrandAction (t : TileId) (k : Fin 4) (a : IslandAct) (s : State) : Out State :=
  let x := s.tile t
  let z := x.strand k
  if !z.live || z.held.isNone then .next s
  else match a with
    | .resume w =>
      let cw := { x.cw with tcause := w.tcause &&& 0xFF#64, tepc := w.tepc, tval := w.tval, tpxl := w.tpxl.zeroExtend 64 }
      .next (s.setTile t (({ x with cw := cw }.setStrand k { z with held := none }).nextPending k))
    | .free => .next (s.setTile t (((x.freeHeld k).freeStrand k).nextPending k))

end Machine
end Sys2Proof
end

