-- ==== Sys2Proof/Machine/Image.lean ====
section
/-! DEFINITION. Imxel containers (12 R293 to R297): sections, roles, faceplate and boot tree, and the tree of the load stream
(R298). -/

namespace Sys2Proof
namespace Machine

/-! ## Header and section table (R293, R294) -/

/-- Bytes `[ofs, ofs + len)`. -/
def slice (bs : List Byte) (ofs len : Nat) : List Byte := (bs.drop ofs).take len

/-- The bytes of a 256-bit digest or key as a number. -/
def digestOf (bs : List Byte) : BitVec 256 := BitVec.ofNat 256 (leNat (bs.take 32))

/-- A section (R293). -/
structure Sect where
  type : Nat
  num  : Nat
  ofs  : Nat
  len  : Nat

/-- The length that a container's header gives, if its first 32 bytes are those of a header (R293). -/
def containerLen (bs : List Byte) : Option Nat :=
  let len := (dwOf bs 2).toNat
  if dwOf bs 0 = 0x0000004C45584D49#64 ∧ field (dwOf bs 1) 0 16 = 1 ∧ len % 64 = 0 ∧ len ≤ 2 ^ 32 ∧ 2432 ≤ len then some len
  else none

/-- SIGOFS. -/
def sigOfs (bs : List Byte) : Nat := field (dwOf bs 3) 0 32

/-- The section at an entry of the table; none where a reserved bit is set or a field is out of range. -/
def parseSect (bs : List Byte) (i : Nat) : Option Sect :=
  let at_ := 128 + 32 * i
  let w (j : Nat) : Word := dwOf (slice bs at_ 32) j
  let x : Sect := ⟨field (w 0) 56 8, field (w 0) 32 16, field (w 1) 0 32, field (w 2) 0 32⟩
  if 1 ≤ x.type ∧ x.type ≤ 4 ∧ field (w 0) 48 8 = 0 ∧ field (w 0) 0 32 = 0 ∧ field (w 1) 32 32 = 0 ∧ field (w 2) 32 32 = 0
      ∧ w 3 = 0#64 ∧ x.ofs % 64 = 0 ∧ x.ofs + x.len ≤ sigOfs bs ∧ at_ + 32 ≤ bs.length then some x else none

/-- No two of a list stand in a relation. -/
def nonePair {α : Type} (r : α → α → Bool) : List α → Bool
  | [] => true
  | a :: l => l.all (fun b => !r a b) && nonePair r l

/-- Do two byte ranges, given by first byte and length, meet? -/
def rangesMeet (a b : Nat × Nat) : Bool := a.2 != 0 && b.2 != 0 && decide (a.1 < b.1 + b.2) && decide (b.1 < a.1 + a.2)

/-- The sections of a container whose header is well formed. -/
def parseSects (bs : List Byte) : Option (List Sect) :=
  let n := field (dwOf bs 1) 32 16
  let rsv := field (dwOf bs 1) 48 16 + field (dwOf bs 1) 16 16 + field (dwOf bs 3) 32 32 + leNat (slice bs 64 64)
  if rsv = 0 ∧ 2 ≤ n ∧ n ≤ 1024 ∧ sigOfs bs % 64 = 0 ∧ bs.length = sigOfs bs + 2432 then
    match (List.range n).mapM (parseSect bs) with
    | some l => if nonePair (fun a b => rangesMeet (a.ofs, a.len) (b.ofs, b.len)) l then some l else none
    | none => none
  else none

/-- The sections of a kind, numbered 0, 1, … without gaps; none where a number is missing or given twice. -/
def numbered (l : List Sect) (type : Nat) : Option (List Sect) :=
  let k := l.filter (fun x => x.type == type)
  (List.range k.length).mapM (fun i => k.find? (fun x => x.num == i))

/-! ## Roles (R295) -/

/-- A segment descriptor. -/
def parseSeg (sec : Sect) (b : List Byte) (i : Nat) : Option Seg :=
  let w0 := dwOf (slice b (64 + 16 * i) 16) 0
  let w1 := dwOf (slice b (64 + 16 * i) 16) 1
  let dst := field w0 32 19
  let src := field w1 32 32
  let len := field w1 0 32
  match spcOf (field w0 0 3) with
  | none => none
  | some sp =>
    let top := if sp = .ctl then 0x500 else spcSize sp
    if field w0 51 13 = 0 ∧ field w0 3 29 = 0 ∧ sp ≠ .code ∧ src % 64 = 0 ∧ src + len ≤ sec.len ∧ dst + len ≤ top
    then some ⟨sp, dst, sec.ofs + src, len⟩ else none

/-- A role section; `imgs` are the lengths of the CODE images. -/
def parseRole (bs : List Byte) (imgs : List Nat) (sec : Sect) : Option Role :=
  let b := slice bs sec.ofs sec.len
  let w (i : Nat) : Word := dwOf b i
  let img := field (w 0) 0 16
  let tvec := field (w 1) 0 16
  let n := field (w 2) 0 16
  let rsv := field (w 0) 16 48 + field (w 1) 16 48 + field (w 2) 16 48 + leNat (slice b 24 40)
  if 64 + 16 * n ≤ sec.len ∧ rsv = 0 ∧ img < imgs.length ∧ pcOk (BitVec.ofNat 64 tvec) = true ∧ tvec < imgs.getD img 0 ∧ n ≤ 1024 then
    match (List.range n).mapM (parseSeg sec b) with
    | some l =>
      if nonePair (fun (a b : Seg) => a.spc == b.spc && rangesMeet (a.dst, a.len) (b.dst, b.len)) l
      then some ⟨img, BitVec.ofNat 64 tvec, l⟩ else none
    | none => none
  else none

/-! ## Faceplate (R271, R296) -/

/-- A stage with its trigger table. -/
def parseStage (b : List Byte) (roles : Nat) (at_ : Nat) : Option StageEnt :=
  let w (i : Nat) : Word := dwOf (slice b at_ 32) i
  let tt := field (w 2) 0 32
  let t (i : Nat) : Word × Word := (dwOf (slice b (tt + 16 * i) 16) 0, dwOf (slice b (tt + 16 * i) 16) 1)
  let e : StageEnt := {
    steal := (w 0).getLsbD 16, set := field (w 0) 8 8, role := field (w 0) 0 8, max := field (w 1) 16 16, min := field (w 1) 0 16
    trigs := (List.range 16).map t }
  if at_ + 32 ≤ b.length ∧ tt + 256 ≤ b.length ∧ field (w 0) 17 47 = 0 ∧ field (w 1) 32 32 = 0 ∧ field (w 2) 32 32 = 0 ∧ w 3 = 0#64
      ∧ e.role < roles ∧ 1 ≤ e.min ∧ e.min ≤ e.max
      ∧ e.trigs.all (fun x => field x.1 48 16 == 0 && field x.2 1 63 == 0) = true then some e else none

/-- A stage queue. -/
def parseQueue (b : List Byte) (stages : Nat) (at_ : Nat) : Option QueueEnt :=
  let w (i : Nat) : Word := dwOf (slice b at_ 16) i
  let e : QueueEnt := { dslot := Fin.ofNat 16 (field (w 0) 24 4), tstg := field (w 0) 16 6, depth := field (w 0) 0 13 }
  if at_ + 16 ≤ b.length ∧ field (w 0) 28 36 = 0 ∧ field (w 0) 22 2 = 0 ∧ field (w 0) 13 3 = 0 ∧ w 1 = 0#64
      ∧ e.tstg < stages ∧ 1 ≤ e.depth ∧ e.depth ≤ 4096 then some e else none

/-- A rectangle. -/
def parseRect (b : List Byte) (stages : List StageEnt) (fh fw : Nat) (at_ : Nat) : Option RectEnt :=
  let w (i : Nat) : Word := dwOf (slice b at_ 16) i
  let e : RectEnt := {
    fire := BitVec.ofNat 16 (field (w 0) 48 16), stg := field (w 0) 32 6, row0 := field (w 0) 0 8, col0 := field (w 0) 8 8
    rows := field (w 0) 16 8 + 1, cols := field (w 0) 24 8 + 1 }
  let armed := match stages[e.stg]? with
    | some g => (List.range 16).all (fun n => !e.fire.getLsbD n ||
        (match g.trigs[n]? with | some t => field t.1 16 16 != 0 | none => false))
    | none => false
  if at_ + 16 ≤ b.length ∧ field (w 0) 38 10 = 0 ∧ w 1 = 0#64 ∧ armed = true ∧ e.row0 + e.rows ≤ fh ∧ e.col0 + e.cols ≤ fw
  then some e else none

/-- Do two rectangles share a tile? -/
def rectsMeet (a b : RectEnt) : Bool := rangesMeet (a.row0, a.rows) (b.row0, b.rows) && rangesMeet (a.col0, a.cols) (b.col0, b.cols)

/-- A reduction-slot entry in the layout of R271. -/
def parseRed (b : List Byte) (at_ : Nat) : Option RedEnt :=
  let w (i : Nat) : Word := dwOf (slice b at_ 32) i
  let e : RedEnt := {
    mode := field (w 0) 62 2, dn := (w 0).getLsbD 48, rootr := field (w 0) 40 8, rootc := field (w 0) 32 8
    dtok := BitVec.ofNat 16 (field (w 0) 0 16), dofs := field (w 1) 32 18, len := field (w 1) 0 13
    pr0 := field (w 2) 56 8, pr1 := field (w 2) 48 8, pc0 := field (w 2) 40 8, pc1 := field (w 2) 32 8 }
  if at_ + 32 ≤ b.length ∧ field (w 0) 49 13 = 0 ∧ field (w 0) 16 16 = 0 ∧ field (w 1) 50 14 = 0 ∧ field (w 1) 13 19 = 0
      ∧ field (w 2) 0 32 = 0 ∧ w 3 = 0#64 then some e else none

/-- Stages that share an elastic set name roles with the same image. -/
def setsOk (stages : List StageEnt) (roles : List Role) : Bool :=
  let img (e : StageEnt) : Nat := ((roles[e.role]?).map (·.img)).getD 0
  nonePair (fun a b => a.set == b.set && a.set != 0xFF && img a != img b) stages

/-- The faceplate section; its boot tree is parsed apart. -/
def parseFaceplate (b : List Byte) (roles : List Role) : Option Faceplate :=
  let w (i : Nat) : Word := dwOf b i
  let nred := field (w 0) 48 8
  let nrect := field (w 0) 32 16
  let nq := field (w 0) 24 8
  let nstg := field (w 0) 16 8
  let fw := field (w 0) 8 8 + 1
  let fh := field (w 0) 0 8 + 1
  let vca := field (w 1) 0 8
  let ofs (i : Nat) : Nat := field (w (2 + i)) 0 32
  let rsv := field (w 0) 56 8 + field (w 1) 8 56 + field (w 2) 32 32 + field (w 3) 32 32 + field (w 4) 32 32 + field (w 5) 32 32
    + (w 6).toNat + (w 7).toNat
  if 64 ≤ b.length ∧ rsv = 0 ∧ nred ≤ 32 ∧ 1 ≤ nrect ∧ nrect ≤ 1024 ∧ nq ≤ 16 ∧ 1 ≤ nstg ∧ nstg ≤ 64 ∧ fh ≤ 180
      ∧ vca / 4 % 16 = 0 ∧ (List.range 4).all (fun i => ofs i % 64 == 0) = true then
    match (List.range nstg).mapM (fun i => parseStage b roles.length (ofs 0 + 32 * i)) with
    | none => none
    | some stages =>
      match (List.range nq).mapM (fun i => parseQueue b nstg (ofs 1 + 16 * i)),
          (List.range nrect).mapM (fun i => parseRect b stages fh fw (ofs 2 + 16 * i)),
          (List.range nred).mapM (fun i => parseRed b (ofs 3 + 32 * i)) with
      | some queues, some rects, some reds =>
        if nonePair rectsMeet rects && setsOk stages roles then
          some { fh := fh, fw := fw, vca := BitVec.ofNat 8 vca, stages := stages, queues := queues, rects := rects, reds := reds }
        else none
      | _, _, _ => none
  else none

/-! ## Boot tree (R297) -/

/-- The step that a mask bit names: north, west, south, east; none out of the area. -/
def maskStep (fh fw : Nat) (r c bit : Nat) : Option (Nat × Nat) :=
  match bit with
  | 0 => if r = 0 then none else some (r - 1, c)
  | 1 => if c = 0 then none else some (r, c - 1)
  | 2 => if r + 1 < fh then some (r + 1, c) else none
  | _ => if c + 1 < fw then some (r, c + 1) else none

/-- The mask of a tile of the area. -/
def Faceplate.mask (f : Faceplate) (r c : Nat) : Nat := f.masks.getD (r * f.fw + c) 0

/-- Directions of a mask in the order in which children are served (R298). -/
def maskDirs (m : Nat) : List Nat := (List.range 4).filter (fun b => m.testBit b)

/-- Tiles of the area, row-major. -/
def Faceplate.cells (f : Faceplate) : List (Nat × Nat) :=
  (List.range f.fh).flatMap (fun r => (List.range f.fw).map (fun c => (r, c)))

/-- The rectangle that holds a tile of the area. -/
def Faceplate.rectAt (f : Faceplate) (r c : Nat) : Option RectEnt :=
  f.rects.find? (fun e => decide (e.row0 ≤ r) && decide (r < e.row0 + e.rows) && decide (e.col0 ≤ c) && decide (c < e.col0 + e.cols))

/-- Tiles reached from a list by forwarding, at most `n` steps deep. -/
def Faceplate.reached (f : Faceplate) : Nat → List (Nat × Nat) → List (Nat × Nat)
  | 0, _ => []
  | _, [] => []
  | n + 1, l =>
    l ++ Faceplate.reached f n (l.flatMap (fun x => (maskDirs (f.mask x.1 x.2)).filterMap (maskStep f.fh f.fw x.1 x.2)))

/-- Do the masks form a tree from the root that reaches every tile of every rectangle? -/
def Faceplate.treeOk (f : Faceplate) : Bool :=
  let outs := f.cells.map (fun x => (maskDirs (f.mask x.1 x.2)).map (maskStep f.fh f.fw x.1 x.2))
  let targets := outs.flatten
  let in_ := targets.filterMap (fun o => o)
  let hit := f.reached (f.fh * f.fw + 1) [(f.rootr, f.rootc)]
  targets.all (·.isSome) && !in_.contains (f.rootr, f.rootc) && nonePair (fun a b => a == b) in_
  && f.cells.all (fun x => hit.contains x || (f.mask x.1 x.2 == 0 && (f.rectAt x.1 x.2).isNone))

/-- A faceplate with its boot tree; none where the tree is ill formed. -/
def Faceplate.withTree (f : Faceplate) (b : List Byte) : Option Faceplate :=
  let w0 := dwOf b 0
  let n := f.fh * f.fw
  let g : Faceplate := { f with
    rootr := field w0 0 8, rootc := field w0 8 8
    masks := (List.range n).map (fun i => ((b.getD (64 + i / 2) 0#8).toNat / (if i % 2 = 0 then 1 else 16)) % 16) }
  if 64 + (n + 1) / 2 ≤ b.length ∧ field w0 32 32 = 0 ∧ leNat (slice b 8 56) = 0 ∧ field w0 24 8 + 1 = f.fw ∧ field w0 16 8 + 1 = f.fh
      ∧ g.rootr < f.fh ∧ g.rootc < f.fw ∧ g.treeOk = true then some g else none

/-! ## The container -/

/-- What a container gives. -/
structure Container where
  keyId : BitVec 256
  imgs  : List (Nat × Nat)
  roles : List Role
  fp    : Faceplate

/-- A container as R294 accepts it for its form; none where it is ill formed. -/
def parseContainer (bs : List Byte) : Option Container :=
  match parseSects bs with
  | none => none
  | some l =>
    let one (t : Nat) : Option Sect := match l.filter (fun x => x.type == t) with | [x] => some x | _ => none
    match numbered l 1, numbered l 2, one 3, one 4 with
    | some ims, some ros, some f, some t =>
      if ims.all (fun x => decide (x.len ≤ 0x10000) && x.len % 64 == 0) && decide (ros.length ≤ 256) then
        match ros.mapM (parseRole bs (ims.map (·.len))) with
        | none => none
        | some roles =>
          match (parseFaceplate (slice bs f.ofs f.len) roles).bind (fun x => x.withTree (slice bs t.ofs t.len)) with
          | some fp => some { keyId := digestOf (slice bs 32 32), imgs := ims.map (fun x => (x.ofs, x.len)), roles := roles, fp := fp }
          | none => none
      else none
    | _, _, _, _ => none

/-- The digest D (R294). -/
def containerDigest (bs : List Byte) : BitVec 256 := Config.sha3 (bs.take (sigOfs bs))

/-- Are the bytes behind the signature zero? -/
def tailZero (bs : List Byte) : Bool := leNat (bs.drop (sigOfs bs + 2420)) == 0

/-- Does the signature verify under the key that KEYID names (R294)? -/
def sigOk (bs : List Byte) (c : Container) : Bool := Config.mldsaVerify c.keyId (containerDigest bs) (slice bs (sigOfs bs) 2420)

/-! ## The load stream (R298) -/

/-- The next present tile from `(r, c)` on in a direction within the area, with the masks of the absent tiles passed (log 25);
`n` bounds the search. -/
def passAbsent (absent : Nat → Nat → Bool) (f : Faceplate) (bit : Nat) : Nat → Nat → Nat → List Nat → Option ((Nat × Nat) × List Nat)
  | 0, _, _, _ => none
  | n + 1, r, c, ms =>
    if !absent r c then some ((r, c), ms)
    else match maskStep f.fh f.fw r c bit with
      | some x => passAbsent absent f bit n x.1 x.2 (ms ++ [f.mask r c])
      | none => none

/-- What the load stream has done so far: each tile that it reaches with its parent, and the masks under which a tile has forwarded. -/
structure Feed where
  done  : List ((Nat × Nat) × (Nat × Nat))
  under : List ((Nat × Nat) × Nat)

/-- One edge of a tile under a mask: the next present tile beyond is reached, where it is not yet, and forwards under its own mask and
under those of the absent tiles passed, which it does also where another parent has reached it first (R298). -/
def Feed.edge (absent : Nat → Nat → Bool) (f : Faceplate) (x : Nat × Nat) (a : Feed × List ((Nat × Nat) × Nat)) (bit : Nat) :
    Feed × List ((Nat × Nat) × Nat) :=
  match (maskStep f.fh f.fw x.1 x.2 bit).bind (fun y => passAbsent absent f bit 256 y.1 y.2 []) with
  | none => a
  | some (y, ms) =>
    let first := !a.1.done.any (fun d => d.1 == y)
    let new := ((if first then [f.mask y.1 y.2] else []) ++ ms).eraseDups.filter (fun m => !a.1.under.contains (y, m))
    ({ done := if first then a.1.done ++ [(y, x)] else a.1.done, under := a.1.under ++ new.map (fun m => (y, m)) },
      a.2 ++ new.map (fun m => (y, m)))

/-- The stream from a frontier of tiles with the masks they forward under; `n` bounds the steps. -/
def feedsFrom (absent : Nat → Nat → Bool) (f : Faceplate) : Nat → List ((Nat × Nat) × Nat) → Feed → Feed
  | 0, _, a => a
  | _, [], a => a
  | n + 1, (x, m) :: rest, a =>
    let r := (maskDirs m).foldl (Feed.edge absent f x) (a, [])
    feedsFrom absent f n (rest ++ r.2) r.1

/-- The feeds of a faceplate: nothing where the root is absent. A tile forwards under at most 16 masks. -/
def Faceplate.feeds (f : Faceplate) (absent : Nat → Nat → Bool) : List ((Nat × Nat) × (Nat × Nat)) :=
  let root := (f.rootr, f.rootc)
  if absent root.1 root.2 then []
  else
    let m := f.mask root.1 root.2
    (feedsFrom absent f (16 * f.fh * f.fw + 1) [(root, m)] { done := [(root, root)], under := [(root, m)] }).done

end Machine
end Sys2Proof
end

