-- ==== Sys2Proof/Machine/Space.lean ====
section
/-! DEFINITION. What island harts and the management port read of the device's registers: the configuration space (13 R313 to R315,
R306, R323 to R325, R333), the inventory block (17 R398), the meter block (18 R408), the key unit (R410), the power controller
(20 R420) and the black boxes (18 R403, R404). -/

namespace Sys2Proof
namespace Machine

/-- A doubleword from bit fields, each by its place and value. -/
def packFields (l : List (Nat × Nat)) : Word := BitVec.ofNat 64 ((l.map (fun x => x.2 * 2 ^ x.1)).sum)

/-! ## Partition and device entries (R306, R315, R323 to R325, R333) -/

/-- ST as it reads. -/
def PSt.code : PSt → Nat
  | .free => 0 | .assigned => 1 | .releasing => 2 | .refused => 3

/-- Doubleword `h` of a partition entry. -/
def Part.word (q : Part) (h : Nat) : Word :=
  match h with
  | 0 => packFields [(63, b2n q.en), (61, q.st.code), (38, q.tree.val), (36, q.lvl.val), (32, q.idx.val), (0, q.slice.toNat)]
  | 1 => q.stk.zeroExtend 64
  | 2 => q.mbw.zeroExtend 64
  | 3 => q.fpbase
  | 4 => packFields [(32, q.fptail.toNat), (0, q.fphead.toNat)]
  | 5 => packFields [(32, q.fplog), (0, q.fplow)]
  | 6 => q.tqbase
  | _ => packFields [(12, q.timp.toNat), (0, q.teiid.toNat)]

/-- STATE as it reads. -/
def VState.code : VState → Nat
  | .running => 0 | .descheduled => 1 | .paused => 2

/-- Doubleword `h` of a virtual-device entry; RST reads 0. -/
def Vdev.word (d : Vdev) (h : Nat) : Word :=
  match h with
  | 0 => packFields [(60, if d.sv57 then 10 else 0), (44, d.asid.toNat), (0, d.ppn.toNat)]
  | 1 => d.rpa
  | 2 => d.cipa
  | 3 => packFields [(12, d.imp.toNat)]
  | 4 => packFields [(48, d.gen.toNat), (32, d.rlog), (16, d.part.val), (14, d.st.code), (13, b2n d.ip), (0, d.eiid.toNat)]
  | 5 => packFields [(32, d.pi.toNat)]
  | _ => 0#64

/-- Doubleword `h` of a launch entry (R306). -/
def Vdev.share (d : Vdev) (h : Nat) : Word :=
  if h = 0 then packFields [(19, b2n d.en), (18, b2n d.dla), (16, d.pcmax.val), (0, d.wgt)]
  else (BitVec.ofInt 48 d.deficit).zeroExtend 64

/-- Doubleword `h` of an RMA region entry. -/
def Rma.word (e : Rma) (h : Nat) : Word :=
  match h with
  | 0 => packFields [(32, e.key.toNat), (31, b2n e.en), (30, b2n e.rd), (29, b2n e.wr), (0, e.vdev.val)]
  | 1 => e.base
  | 2 => e.len
  | _ => e.rcb

/-- Doubleword `h` of a shootdown mailbox. -/
def Mailbox.word (b : Mailbox) (h : Nat) : Word :=
  match h with
  | 0 => b.va
  | 1 => packFields [(63, b2n b.go), (18, b2n b.allAsid), (17, b2n b.allVa), (0, b.asid.toNat)]
  | 2 => b.size
  | _ => 0#64

/-- A doubleword of the configuration space at offset `o`; a reserved range reads zero (R313), and so does the response word. -/
def State.readConfig (s : State) (o : Nat) : Word :=
  let h := o / 8
  if o < 0x600 then (s.parts[Fin.ofNat 24 (o / 64)]).word (h % 8)
  else if 0x800 ≤ o ∧ o < 0xF00 then ((s.etus[Fin.ofNat 56 ((o - 0x800) / 32)]).box).word (h % 4)
  else if 0x1000 ≤ o ∧ o < 0x1400 then (s.vdevs[Fin.ofNat 64 ((o - 0x1000) / 16)]).share (h % 2)
  else if 0x2000 ≤ o ∧ o < 0x3000 then (s.vdevs[Fin.ofNat 64 ((o - 0x2000) / 64)]).word (h % 8)
  else if 0x4000 ≤ o ∧ o < 0x6000 then
    (((s.vdevs[Fin.ofNat 64 ((o - 0x4000) / 128)]).keys[Fin.ofNat 4 ((o - 0x4000) / 32)]) >>> (64 * (h % 4))).truncate 64
  else if 0x8000 ≤ o ∧ o < 0x10000 then (tget {} s.rma ((o - 0x8000) / 32)).word (h % 4)
  else 0#64

/-! ## The inventory block (17 R398) -/

/-- Present logical tiles. -/
def Boot.ntile (x : Boot) : Nat := 46080 - x.absent.length - 960 * x.retired.length

/-- A number from its bits, bit 0 first. -/
def bitsNat (n : Nat) (f : Nat → Bool) : Nat := ((List.range n).map (fun i => if f i then 2 ^ i else 0)).sum

/-- Is every tile of a bay present? -/
def Boot.bayFull (x : Boot) (b : Nat) : Bool :=
  !x.absent.any (fun t => rowOf t / 60 == b / 8 && colOf t / 32 == b % 8)
  && !x.retired.any (fun g => g / 8 / 2 == b / 8 && g % 8 == b % 8)

/-- The inventory block. -/
def Boot.inventory (x : Boot) : List Byte :=
  let dw (n : Nat) : List Byte := leBytes 8 n
  let region (g : Nat) : Byte :=
    let (used, bad, row) := tget (false, false, 0) x.spare g
    BitVec.ofNat 8 (b2n used * 128 + b2n (x.retired.contains g) * 64 + b2n bad * 32 + (if used then row else 0))
  let entry (n : Nat) : Nat := match x.absent[n]? with
    | some t => b2n (x.dead.contains t) * 2 ^ 16 + rowOf t * 2 ^ 8 + colOf t
    | none => 0
  dw (x.chip.toNat * 2 ^ 48 + x.ntile * 2 ^ 32 + x.absent.length * 2 ^ 16 + 1)
    ++ dw (bitsNat 24 (fun k => !x.noStack.contains k) * 2 ^ 32 + bitsNat 32 (fun j => !x.noNep.contains j))
    ++ dw (bitsNat 48 (fun i => !x.noIsland.contains i)) ++ dw (bitsNat 24 x.bayFull) ++ List.replicate 32 0#8
    ++ (List.range 48).map region ++ List.replicate 16 0#8 ++ (List.range 496).flatMap (fun n => dw (entry n))

/-- A doubleword of it: zero until phase 7 writes it. -/
def State.readInventory (s : State) (o : Nat) : Word := if s.boot.phase = 7 then dwOf s.boot.inventory (o / 8) else 0#64

/-! ## Black boxes (18 R403, R404) -/

/-- Doubleword `h` of a record. -/
def BBRec.word (r : BBRec) (h : Nat) : Word :=
  match h with
  | 0 => BitVec.ofNat 64 r.time
  | 1 => packFields [(56, r.kind), (40, r.part), (32, r.vdev), (16, r.row), (8, r.col)]
  | 2 => r.d0
  | _ => r.d1

/-- A doubleword of a black box: the header, then the records; a place that holds no record reads zero (log 59). -/
def BlackBox.word (b : BlackBox) (o : Nat) : Word :=
  if o < 64 then
    match o / 8 with
    | 0 => packFields [(48, b.wrst.toNat), (0, b.wptr.toNat)]
    | 1 => b.cesram
    | 2 => b.cehbm
    | 3 => b.celink
    | 4 => b.bootid
    | _ => 0#64
  else match tfind b.recs ((o - 64) / 32) with
    | some r => r.word (o / 8 % 4)
    | none => 0#64

/-! ## Meters, keys, power (18 R408, R410, 20 R420) -/

/-- A doubleword of the meter block. Counters read as they were last added; 12 to 15 read zero. -/
def Meters.word (m : Meters) (o : Nat) : Word :=
  let ctr (t : Tbl Word) (i : Nat) : Word := if i % 16 < 12 then tget 0#64 t i else 0#64
  if o < 32 then (m.nonce >>> (64 * (o / 8))).truncate 64
  else if o = 32 then packFields [(63, b2n m.busy.isSome), (0, m.kind.val)]
  else if o = 40 then m.seq
  else if o = 48 then m.bootid
  else if 64 ≤ o ∧ o < 128 then
    BitVec.ofNat 64 (leNat ((List.range 8).map (fun i => (m.ten[Fin.ofNat 64 (o - 64 + i)]).zeroExtend 8)))
  else if 0x1000 ≤ o ∧ o < 0x3000 then ctr m.dev ((o - 0x1000) / 8)
  else if 0x3000 ≤ o ∧ o < 0x5000 then ctr m.tenant ((o - 0x3000) / 8)
  else if 0x8000 ≤ o ∧ o < 0xD000 then dwOf m.report ((o - 0x8000) / 8)
  else 0#64

/-- PRES and BUSY of a key. -/
def KeySlot.word (k : KeySlot) : Word := packFields [(63, b2n k.key.isSome), (62, b2n k.pend.isSome)]

/-- The power-controller word. -/
def Power.word (w : Power) : Word := packFields [(32, w.pwr.toNat), (16, w.pcap), (8, w.h), (0, w.tmax.toNat)]

/-- A naturally aligned doubleword of the device's registers, at an offset from `configBase`; where nothing lies it reads zero. -/
def State.readAt (s : State) (o : Nat) : Word :=
  if o < 0x10000 then s.readConfig o
  else if o < 0x11000 then s.readInventory (o - 0x10000)
  else if 0x30000 ≤ o ∧ o < 0x3E000 then s.meters.word (o - 0x30000)
  else if 0x3E000 ≤ o ∧ o < 0x3E520 then dwOf s.boot.dpk ((o - 0x3E000) / 8)
  else if 0x40000 ≤ o ∧ o < 0x40200 then (s.keys[Fin.ofNat 64 ((o - 0x40000) / 8)]).word
  else if o = 0x50000 then s.power.word
  else if 0x100000 ≤ o ∧ o < 0x400000 then (s.boxes[Fin.ofNat 48 ((o - 0x100000) / 0x10000)]).word (o % 0x10000)
  else 0#64

/-- An aligned doubleword as a hart loads it, or the exception that the load takes: code and address. -/
def State.hartDw (s : State) (h : Hart) (va : Word) : (Nat × Word) ⊕ Word :=
  if va.toNat % 8 ≠ 0 then .inl (4, va)
  else match s.hartAcc h va .load 8 with
    | .ok pa => .inr (s.hdw pa)
    | .dev o => .inr (s.readAt o)
    | .page => .inl (13, va)
    | .access => .inl (5, va)

end Machine
end Sys2Proof
end

