-- ==== Sys2Proof/Machine/Submit.lean ====
section
/-! DEFINITION. Launch headers (12 R301 to R303), LAUNCH (R304), LNCH (R305), the fair share and the choice of launches (R306 to
R308, 15 R376). -/

namespace Sys2Proof
namespace Machine

/-! ## Headers (R301) -/

/-- WIDTHj of a WIDW word (01 R25). -/
def widthAt (w : Word) (j : Nat) : Nat := field w (7 * j) 7

/-- A launch header from its 16 doublewords; none where step 1 of R303 fails. -/
def parseHeader (w : Nat → Word) : Option LHdr :=
  let h : LHdr := {
    peer := (w 0).getLsbD 15, pri := Fin.ofNat 4 (field (w 0) 6 2), vdev := Fin.ofNat 64 (field (w 0) 0 6), imgva := w 1, arg := w 2
    wbase := w 3, wcnt := (w 4).toNat, widw := w 5, dsw := BitVec.ofNat 14 (field (w 6) 32 14), ydl := field (w 6) 0 32
    hang := field (w 7) 0 40, cbase := w 8, wtab := w 9, eq := field (w 10) 8 8, nwin := field (w 10) 0 8, utag := w 11 }
  let rsv := field (w 0) 16 48 + field (w 0) 8 7 + field (w 5) 42 22 + field (w 6) 46 18 + field (w 7) 40 24 + field (w 10) 16 48
    + (w 12).toNat + (w 13).toNat + (w 14).toNat + (w 15).toNat
  let widths := (List.range 6).map (widthAt h.widw)
  if rsv = 0 ∧ h.imgva.toNat % 4096 = 0 ∧ h.cbase.toNat % 256 = 0 ∧ widths.all (fun x => decide (x ≤ 64)) = true ∧ widths.sum ≤ 64
      ∧ h.wbase.toNat + h.wcnt ≤ 2 ^ 64 ∧ field (w 6) 35 5 = 0 ∧ field (w 6) 32 3 ≤ 5 ∧ h.nwin ≤ 64 ∧ ¬ (0 < h.wcnt ∧ h.eq = 0xFF)
  then some h else none

/-- The partition that a virtual device is assigned to, if that partition is assigned (R323). -/
def State.devPart (s : State) (v : Fin 64) : Option (Fin 24) :=
  let p := (s.vdevs[v]).part.val
  if h : p < 24 then (if (s.parts[(⟨p, h⟩ : Fin 24)]).st = .assigned then some ⟨p, h⟩ else none) else none

/-- Step 2 of R303. -/
def State.devReady (s : State) (v : Fin 64) : Bool := (s.vdevs[v]).en && (s.devPart v).isSome

/-- Is the class queue full (R303 step 4)? -/
def State.queueFull (s : State) (h : LHdr) : Bool := decide (16 ≤ ((s.vdevs[h.vdev]).queues[h.pri]).length)

/-- The next submission number of a device. -/
def Vdev.nextSeq (v : Vdev) : Nat := if v.seq = 0xFFFFFFFF then 1 else v.seq + 1

/-- The ID of the next launch of a device (R303). -/
def State.nextId (s : State) (v : Fin 64) : Nat := v.val * 2 ^ 32 + (s.vdevs[v]).nextSeq

/-- An accepted header enters its queue (R303). -/
def State.enqueue (s : State) (h : LHdr) : State :=
  let d := s.vdevs[h.vdev]
  let l : Launch := { id := s.nextId h.vdev, vdev := h.vdev, seq := d.nextSeq, gen := d.gen, hdr := h }
  let s1 := s.modVdev h.vdev (fun d => { d with seq := d.nextSeq, queues := d.queues.set h.pri (d.queues[h.pri] ++ [l.id]) })
  { s1 with launches := s1.launches ++ [l] }

/-! ## LAUNCH and LNCH -/

/-- The header in DATA that a register names. -/
def State.headerAt (s : State) (a : Reg) : Option LHdr := parseHeader (dwOf (s.recBytes (s.reg a).toNat 128 s.me.ctx))

/-- Steps 1 to 3 of R303 for LAUNCH. -/
def State.launchOk (s : State) (h : Option LHdr) : Bool :=
  match h with
  | some h =>
    let d := s.vdevs[h.vdev]
    s.devReady h.vdev && s.devPart h.vdev == s.partOf s.ct && d.dla && decide (h.pri ≤ d.pcmax)
  | none => false

/-- LAUNCH (R304). -/
def execLaunch (d a : Reg) (s : State) : Out State :=
  let h := s.headerAt a
  simple s (firstOf [fun _ => s.recChk (s.reg a) 128 64, fun _ => need (s.launchOk h) .recordRefused (s.reg a)])
    (fun s => match h with
      | none => s
      | some h =>
        if s.queueFull h then s.setReg d 0#64
        else (s.enqueue h).setReg d (BitVec.ofNat 64 (s.nextId h.vdev)))

/-- The word of an LNCH. -/
def lnchWord (a d : Fin 32) : Word := BitVec.ofNat 64 (0x0B + 128 * d.val + 32768 * a.val)

/-- The 16 doublewords of a header as the hart's own loads read them, or the exception that a load takes: code and address. -/
def State.hartHeader (s : State) (h : Hart) (a : Word) : Nat → List Word → (Nat × Word) ⊕ List Word
  | 0, l => .inr l
  | n + 1, l =>
    let va := a + BitVec.ofNat 64 (8 * l.length)
    match s.hartDw h va with
    | .inr w => State.hartHeader s h a n (l ++ [w])
    | .inl e => .inl e

/-- LNCH (R305). -/
def execLnch (a d : Fin 32) (s : State) : Out State :=
  let h := s.hart
  let done (s : State) (v : Word) : Out State := .next (s.modHart (fun h => { h.setReg d v with pc := h.pc + 4#64 }))
  match h.mode with
  | .u => .next (s.modHart (fun h => h.take 2 (lnchWord a d)))
  | .vs | .vu => .next (s.modHart (fun h => h.take 22 (lnchWord a d)))
  | .m | .s =>
    if (h.reg a).toNat % 64 ≠ 0 then done s (-2)
    else match s.hartHeader h (h.reg a) 16 [] with
      | .inl (c, va) => .next (s.modHart (fun h => h.take c va))
      | .inr l => match parseHeader (fun i => l.getD i 0#64) with
        | none => done s (-2)
        | some x =>
          if !s.devReady x.vdev then done s (-3)
          else if s.queueFull x then done s (-1)
          else done (s.enqueue x) (BitVec.ofNat 64 (s.nextId x.vdev))

/-! ## The fair share (R307) -/

/-- Is the device backlogged: a launch queued, suspended or holding the partition? -/
def State.backlogged (s : State) (v : Fin 64) : Bool := s.launches.any (fun l => l.vdev == v)

/-- A deficit within its 48 bits. -/
def clampDef (d : Int) : Int := max (-(2 ^ 47)) (min (2 ^ 47 - 1) d)

/-- Devices of a partition. -/
def State.devsOf (s : State) (p : Fin 24) : List (Fin 64) := (List.finRange 64).filter (fun v => (s.vdevs[v]).part.val == p.val)

/-- DEFICIT_UPDATE (R307), once in 14,000 clks. -/
def execDeficitUpdate (p : Fin 24) (s : State) : Out State :=
  let q := s.parts[p]
  if q.st ≠ .assigned ∨ s.now < q.deficitAt + period14k then .next s
  else
    let vs := s.devsOf p
    let b := vs.filter (fun v => s.backlogged v && (s.vdevs[v]).wgt != 0)
    let sum := (b.map (fun v => (s.vdevs[v]).wgt)).sum
    let a := if sum = 0 then 0 else s.presentCount p * period14k / sum
    let upd (s : State) (v : Fin 64) : State :=
      let d0 := (s.vdevs[v]).deficit + (if b.contains v then (((s.vdevs[v]).wgt * a : Nat) : Int) else 0) - ((tget (0 : Nat) q.charge v.val : Nat) : Int)
      s.modVdev v (fun d => { d with deficit := clampDef (if b.contains v then d0 else min d0 0) })
    .next ((vs.foldl upd s).modPart p (fun q => { q with deficitAt := q.deficitAt + period14k, charge := [] }))

/-! ## The choice (R308, R335, R336, R376) -/

/-- Does the area of a suspended launch lie in the partition, with the tiles present that were present at its start (R376)? -/
def State.fits (s : State) (p : Fin 24) (l : Launch) : Bool :=
  let q := s.parts[p]
  decide (l.fp.fh ≤ q.height) && decide (l.fp.fw ≤ q.width)
  && (l.fp.cells.filter (fun x => !s.absent (tileAt (q.row0 + x.1) (q.col0 + x.2)))) == l.present

/-- May launches of a device be chosen now? -/
def Vdev.open_ (d : Vdev) : Bool := d.wgt != 0 && d.st != .paused && decide (d.events.length < 64)

/-- The launch that a device offers in a class: the launch that runs, where it is of that device and class; else the head of the
queue, where it may be chosen. -/
def State.offer (s : State) (p : Fin 24) (run : Option Launch) (pri : Fin 4) (v : Fin 64) : Option Launch :=
  if !(s.vdevs[v]).open_ then none
  else match run with
    | some l => if l.vdev = v ∧ l.hdr.pri = pri then some l else head
    | none => head
where
  /-- The head of the queue. -/
  head : Option Launch :=
    match ((s.vdevs[v]).queues[pri]).head?.bind s.launch with
    | some l => if l.st = .suspended ∧ s.fits p l = false then none else some l
    | none => none

/-- The launch of a class with the largest deficit, the lower device number on a tie. -/
def State.bestOf (s : State) (p : Fin 24) (run : Option Launch) (pri : Fin 4) : Option Launch :=
  ((s.devsOf p).filterMap (s.offer p run pri)).foldl (fun b l => match b with
    | some x => if (s.vdevs[x.vdev]).deficit < (s.vdevs[l.vdev]).deficit then some l else b
    | none => some l) none

/-- The launch that is chosen now. -/
def State.best (s : State) (p : Fin 24) (run : Option Launch) : Option Launch :=
  [(3 : Fin 4), 2, 1, 0].findSome? (s.bestOf p run)

/-- LAUNCH_CHOICE (R308): a free partition takes the launch that is chosen; a queued one starts, a suspended one is restored. -/
def execLaunchChoice (p : Fin 24) (s : State) : Out State :=
  let q := s.parts[p]
  if q.st ≠ .assigned ∨ q.cur.isSome = true then .next s
  else match s.best p none with
    | none => .next s
    | some l =>
      let s1 := s.modVdev l.vdev (fun d => { d with queues := d.queues.set l.hdr.pri (d.queues[l.hdr.pri].erase l.id) })
      let s2 := s1.modLaunch l.id (fun l => { l with
        st := if l.st = .queued then .starting else l.st, wait := none, noFrame := false, denied := false })
      .next (s2.modPart p (fun q => { q with cur := some l.id, sliceAt := s.now, deferred := false, dog := 0 }))

/-- The slice of a running launch ends: it goes on where it is chosen again, else it is stopped (R308, R362). -/
def State.sliceDecide (s : State) (p : Fin 24) (l : Launch) : State :=
  match s.best p (some l) with
  | some b => if b.id = l.id then s.modPart p (fun q => { q with sliceAt := s.now }) else stop
  | none => stop
where
  /-- The launch enters STOPPING. -/
  stop : State := (s.modLaunch l.id (fun l => { l with st := .stopping })).modPart p (fun q => { q with
    gangStop := false, draining := false })

/-- Has a slice come to its end: by its length, or by a launch of a higher class (R306, R308)? -/
def State.sliceOver (s : State) (p : Fin 24) (l : Launch) : Bool :=
  let q := s.parts[p]
  (q.slice != 0#32 && decide (q.sliceAt + q.slice.toNat ≤ s.now))
  || [(3 : Fin 4), 2, 1, 0].any (fun c => decide (l.hdr.pri < c) && (s.bestOf p none c).isSome)

/-- SLICE_EXPIRY (R308): while a launch is loaded or restored, the slice end is deferred. -/
def execSliceExpiry (p : Fin 24) (s : State) : Out State :=
  match s.curLaunch p with
  | none => .next s
  | some l =>
    if !s.sliceOver p l then .next s
    else match l.st with
      | .running => .next (s.sliceDecide p l)
      | .starting | .suspended => .next (s.modPart p (fun q => { q with deferred := true }))
      | _ => .next s

end Machine
end Sys2Proof
end

