-- ==== Sys2Proof/Machine/Stop.lean ====
section
/-! DEFINITION. The end of a launch (12 R309, R311, 14 R353, R355, 15 R375), complete or failed; the black box (18 R403 to R405); a
partition stop (R402) and the hang watchdog (15 R378). -/

namespace Sys2Proof
namespace Machine

/-! ## Accesses in flight at a stop (R402 step 2) -/

/-- Bytes that are written or not, each by a free choice (log 8). -/
def torn (n : Nat) : List Byte → List Byte → List Byte
  | o :: os, b :: bs => (if Config.lands n then b else o) :: torn (n + 1) os bs
  | _, _ => []

/-- The next `n` free choices are used up. -/
def State.spend (s : State) (n : Nat) : State := { s with free := s.free + n }

/-- Bytes of HBM that hold their old or their new values; a write of which a byte lands is metered (R407). -/
def State.tornHbm (s : State) (v : Fin 64) (pa : Nat) (bs : List Byte) : State :=
  let s1 := (s.hwrite pa (torn s.free (s.hread pa bs.length) bs)).spend bs.length
  if (List.range bs.length).any (fun i => Config.lands (s.free + i)) then s1.charge v 7 (64 * granules pa bs.length) else s1

/-- Bytes of a tile that hold their old or their new values; a write that would need a bead is discarded. -/
def State.tornTile (s : State) (t : TileId) (sp : Spc) (o : Nat) (tag : Half) (bs : List Byte) : State :=
  if (s.needsBead t sp o tag).isSome || sp == .ctl then s
  else (s.modTile t (fun x => x.putBytes sp (s.place t sp o tag) (torn s.free (s.lread t sp o bs.length tag) bs))).spend bs.length

/-- Has a request still to be performed? -/
def Req.pending (r : Req) : Bool :=
  match r.phase with
  | .done .. | .refused .. => false
  | _ => true

/-- A request that a partition has posted: one of another wafer is none of its own (R212). -/
def Part.posts (q : Part) (r : Req) : Bool := r.from_.isNone && q.covers r.tile

/-- What a request would write, at a tile or at its home: discarded or performed. -/
def State.tornReq (s : State) (r : Req) : State :=
  if !r.pending then s
  else if r.virt then
    match s.virtAcc r with
    | none => s
    | some a => match s.locate a with
      | .pa pa s1 => match r.op.act (s1.hread pa a.size) with
        | .done (some bs) _ _ => if s1.hbmPoison pa a.size false then s else
            (if r.op.needsR then (s1.stackRead a.ask.v pa a.size).2 else s1).tornHbm a.ask.v pa bs
        | _ => s
      | _ => s
  else match s.atTile r with
    | .done .. =>
      let sp := (spcOf (gSpc r.addr)).getD .data
      match r.op.act (s.lread (gTile r.addr) sp (gOfs r.addr) r.op.size r.tag) with
      | .done (some bs) _ _ => if s.ownChip (gChip r.addr) then s.tornTile (gTile r.addr) sp (gOfs r.addr) r.tag bs else s
      | _ => s
    | _ => s

/-- Element `i` of a copy at a stop. -/
def State.tornElem (s : State) (t : TileId) (c : Cmd) (r : CopyRec) (i : Nat) : State :=
  match s.copyRead t c r i false with
  | .ok _ v =>
    let a := sideAt r.daddr r.ext r.dstr i
    let bs := leBytes r.esize v
    match r.dk with
    | 0 => s.tornTile t ((spcOf r.dspc).getD .act) a.toNat c.ctx bs
    | 1 => s.tornReq (engReq t c (.store bs) false a .vc0 false)
    | _ => match s.engLocate t c (.store bs) a none false with
      | .inr (s1, a, pa) => s1.tornHbm a.ask.v pa bs
      | .inl _ => s
  | _ => s

/-- What a pass of an EGEMV would write. -/
def State.passResult (s : State) (t : TileId) (c : Cmd) (r : EdgeRec) : State :=
  let o := (List.range r.n).foldl (fun (o : PassOut) n => o.row t c r false n) { acc := { s := s } }
  o.out.foldl (fun s e => s.putElem t c.ctx (c.cpOpds.getD 1 default) e.1 e.2) s

/-- The operations that engines of a tile have started, at a stop. -/
def State.tornOps (s : State) (t : TileId) : State :=
  let x := s.tile t
  let s1 := match x.vec with
    | some c => s.tornTo t (s.runVec t c).1
    | none => s
  let s2 := (x.mat.run.filter (fun r => !r.done)).foldl (fun s r => s.tornTo t (s.matRun t r).1) s1
  x.copies.foldl (fun s q => match q.cmd.rc with
    | .copy r => (List.range (r.n - q.pos)).foldl (fun s i => s.tornElem t q.cmd r (q.pos + i)) s
    | .edge r => match q.phase with
      | .accepted _ => s.tornTo t (s.passResult t q.cmd r)
      | _ => s
    | _ => s) s2

/-- R402 step 2 for a partition: what its tiles have under way is discarded or performed. -/
def State.tornPart (s : State) (p : Fin 24) : State :=
  let s1 := (s.plane.filter (s.parts[p]).posts).foldl (fun s r => s.tornReq r) s
  (s.placed p).foldl (fun s t => s.tornOps t) s1

/-! ## What a launch holds outside its tiles -/

/-- Frames of a device's launch zero-filled and added to the reserve of a partition (15 R375); the writes are metered (18 R407). -/
def State.freeFrames (s : State) (p : Option (Fin 24)) (v : Fin 64) (fs : List Nat) : State :=
  let s1 := (fs.foldl (fun s f => s.hwrite f (List.replicate 4096 0#8)) s).charge v 7 (4096 * fs.length)
  match p with
  | some p => s1.modPart p (fun q => { q with reserve := q.reserve ++ fs })
  | none => s1

/-- A byte of a device's address space as its tables give it now, without an effect. -/
def State.peek (s : State) (v : Fin 64) (va : Word) : Byte :=
  match (ptWalk s va 5 (s.vdevs[v]).ppn.toNat).1 with
  | .leaf l _ pte => (s.hread (leafPa l pte va) 1).headD 0#8
  | _ => 0#8

/-- Word 0 of entry `i` of the window table of a launch in a queue. -/
def State.peekWin (s : State) (l : Launch) (i : Nat) : Word :=
  BitVec.ofNat 64 (leNat ((List.range 8).map (fun j => s.peek l.vdev (l.hdr.wtab + BitVec.ofNat 64 (64 * i + j)))))

/-- Does a launch declare a directory's key? One whose window table has not been read declares what the table says (log 31). -/
def State.declares (s : State) (l : Launch) (k : Nat) : Bool :=
  if l.wins.isEmpty then
    (List.range l.hdr.nwin).any (fun i =>
      let w := s.peekWin l i
      field w 56 8 == 3 && field w 48 5 * 2 ^ 32 + field w 0 32 == k)
  else l.wins.any (fun e => e.type == 3 && e.key == k)

/-- Directories that no launch declares any more are removed (14 R353). -/
def State.sweepDirs (s : State) : State :=
  { s with dirs := s.dirs.filter (fun d => s.launches.any (fun l => s.declares l d.key)) }

/-- The standing references of a launch dropped (R355); `cur` is its current version of each window. -/
def State.dropRefs (s : State) (p : Fin 24) (l : Launch) (cur : Nat → WinEnt → Half) : State :=
  ((List.range l.wins.length).zip l.wins).foldl (fun s x =>
    if x.2.type != 3 || x.2.wr then s
    else s.modDir x.2.key (fun d => match d.slotFor (cur x.1 x.2) with
      | some i => d.modSlot i (fun y => y.dropRef p)
      | none => d)) s

/-- The current version of a window of the launch that holds a partition: its participants', else that of its placed tiles. -/
def State.curVersion (s : State) (l : Launch) (w : Nat) (e : WinEnt) : Half :=
  match (s.participants l e ++ l.placed).head? with
  | some t => tget 0#16 (s.tile t).tcv w
  | none => 0#16

/-- The same of a suspended launch. -/
def Saved.version (x : Saved) (w : Nat) (e : WinEnt) : Half :=
  let in_ := x.tiles.filter (fun y => decide (e.row0 ≤ y.row) && decide (y.row ≤ e.row1) && decide (e.col0 ≤ y.col) && decide (y.col ≤ e.col1))
  match (in_ ++ x.tiles).head? with
  | some y => tget 0#16 y.tile.tcv w
  | none => 0#16

/-- A reference on an old slot dropped (R357 step 5). -/
def State.dropOld (s : State) (p : Fin 24) (d : Nat × Fin 4 × Half) : State := s.modDir d.1 (fun x => x.modSlot d.2.1 (fun y => y.dropRef p))

/-- The references of a launch that is suspended (15 R370). -/
def State.dropSaved (s : State) (l : Launch) (x : Saved) : State :=
  x.drops.foldl (fun (s : State) d => s.dropOld x.part d) (s.dropRefs x.part l x.version)

/-- Every reference of the launch that holds a partition: standing, on old slots, and of accepted passes (R355, R357, R268). Those
of a launch that is still to be restored are as its record has them. -/
def State.releaseRefs (s : State) (p : Fin 24) (l : Launch) : State :=
  let s1 : State := match l.saved, l.st == .suspended && !(s.parts[p]).restoring with
    | some x, true => s.dropSaved l x
    | _, _ => s.dropRefs p l (s.curVersion l)
  let s2 := ((s1.parts[p]).drops).foldl (fun (s : State) d => s.dropOld p d) s1
  l.placed.foldl (fun s t => (s.tile t).copies.foldl (fun s q => match q.cmd.rc, q.phase with
    | .edge r, .accepted _ | .edge r, .event _ _ (some _) | .edge r, .frame (some _) => s.endStamp t q.cmd r
    | _, _ => s) s) s2

/-- The type 1 beads of a launch are free granules again. -/
def State.dropBeads (s : State) (id : Nat) : State :=
  let gone := s.beads1.filter (fun b => b.launch == id)
  if gone.isEmpty then s else s.freeBead1 gone

/-- A tile that a launch leaves: its spaces, CTL and words stay as they are; nothing is resident or under way (R311). -/
def Tile.leave (x : Tile) : Tile :=
  { x with
    strands := Vector.replicate 4 {}, locks := Vector.replicate 16 none, posted := [], frozen := [], inbox := Vector.replicate 16 false
    ready := [], credits := 16, cmdq := Vector.replicate 4 [], tokq := Vector.replicate 4 [], resv := Vector.replicate 4 0
    hold := Vector.replicate 4 none, mat := { x.mat with run := [] }, vec := none, copies := [], contribs := []
    tree := Vector.replicate 32 {}, beads := [], sliceEnd := none, settled := false, halted := false, stopBuf := []
    chold := none, lastH := 3 }

/-- Is the packet a peer's read or write of a region (13 R325)? -/
def isRma : PktBody → Bool
  | .put .. | .getReq .. => true
  | _ => false

/-- A request of another wafer that a tile of the partition holds. -/
def Part.holdsPeer (q : Part) (r : Req) : Bool :=
  r.from_.isSome && q.covers (gTile r.addr) && (match r.phase with | .locked | .gate _ => true | _ => false)

/-- Messages, requests and network operations of a partition, discarded; RMA accesses of peers go on (13 R325). What a tile holds of another
wafer's requests is refused: the next launch, or tenant, opens windows of its own (08 R212, 13 R319). -/
def State.dropTraffic (s : State) (p : Fin 24) : State :=
  let q := s.parts[p]
  let mine (m : TMsg) : Bool := q.covers m.dst || (match m.src with | .tile t | .wake t => q.covers t | .unit u _ => u == p)
  ({ s with
    msgs := s.msgs.filter (fun m => !mine m)
    plane := (s.plane.filter (fun r => !q.posts r)).map (fun r =>
      if q.holdsPeer r then { r with phase := .refused .remoteRefused r.addr } else r)
    etuWaits := s.etuWaits.filter (fun w => w.part != p || w.rma) }).modPart p (fun q => { q with
      netBusy := [], recvq := Vector.replicate 16 [], inMsgs := q.inMsgs.filter (fun m => m.buf.isNone)
      heldPkts := q.heldPkts.filter (fun h => h.ready || isRma h.pkt.body) })

/-- A partition that no launch holds. -/
def Part.idle (q : Part) : Part :=
  { q with
    cur := none, deferred := false, dog := 0, stopDue := none, draining := false, gangStop := false, saving := false
    restoring := false, retire := [], drops := [] }

/-- The launch that holds a partition ends with a status: its event, and everything it held (R309, R311). -/
def State.endLaunch (s : State) (p : Fin 24) (l : Launch) (status : Nat) : State :=
  let s1 := (s.releaseRefs p l).dropTraffic p
  let s2 := { s1 with tiles := s1.tiles.map (fun (tx : Nat × Tile) => (tx.1, if (s1.parts[p]).covers tx.1 then tx.2.leave else tx.2)) }
  let s3 := (s2.dropBeads l.id).freeFrames (some p) l.vdev l.frames
  let ev : EvRec := { gen := l.gen, status := status, seq := l.seq, utag := l.hdr.utag, clks := BitVec.ofNat 64 l.charged }
  let s4 := (s3.modVdev l.vdev (fun d => { d with events := d.events ++ [ev] })).modPart p Part.idle
  ({ s4 with launches := s4.launches.filter (fun x => x.id != l.id) }).sweepDirs

/-- The launch that holds a partition, if any, ends FAILED (R309). -/
def State.failLaunch (s : State) (p : Fin 24) (status : Nat) : State :=
  match s.curLaunch p with
  | none => s.modPart p (fun q => { q with stopDue := none })
  | some l => (s.tornPart p).endLaunch p l status

/-- A queued or suspended launch is discarded without an event (R336). -/
def State.discardLaunch (s : State) (l : Launch) : State :=
  let s1 := match l.saved with
    | some x => (s.dropSaved l x).dropBeads l.id
    | none => s
  let s2 := (s1.freeFrames (s1.devPart l.vdev) l.vdev l.frames).modVdev l.vdev (fun d => { d with
    queues := d.queues.map (fun q => q.erase l.id) })
  ({ s2 with launches := s2.launches.filter (fun x => x.id != l.id) }).sweepDirs

/-! ## Black boxes (R402 to R405) -/

/-- A record put into a black box as number `wptr - k`; the `k` records from there on move up by one. -/
def BlackBox.insert (b : BlackBox) (r : BBRec) : Nat → BlackBox
  | 0 => { b with wptr := b.wptr + 1#32, recs := tset b.recs (b.wptr.toNat % 2046) r }
  | k + 1 =>
    let last := b.wptr - 1#32
    let c := ({ b with wptr := last }).insert r k
    { c with wptr := b.wptr + 1#32, recs := match tfind b.recs (last.toNat % 2046) with
      | some y => tset c.recs (b.wptr.toNat % 2046) y
      | none => c.recs }

/-- A hardware record: it takes a lower number than the firmware records of its clk (R406). -/
def State.record (s : State) (i : Fin 48) (r : BBRec) : State :=
  let b := s.boxes[i]
  { s with boxes := s.boxes.set i (b.insert r (if b.fwAt.1 = s.now then b.fwAt.2 else 0)) }

/-- A record of the device. -/
def State.bbRec (s : State) (p : Option (Fin 24)) (kind row col : Nat) (d0 d1 : Word) : BBRec :=
  { time := s.now, kind := kind
    part := match p with | some p => p.val | none => 0x1F
    vdev := match p.bind s.holder with | some v => v.val | none => 0xFF
    row := row, col := col, d0 := d0, d1 := d1 }

/-- The island of a tile's region. -/
def islandOf (row col : Nat) : Fin 48 := Fin.ofNat 48 (8 * (row / 30) + col / 32)

/-- The islands whose region holds a tile of the partition. -/
def State.islandsOf (s : State) (p : Fin 24) : List (Fin 48) :=
  let q := s.parts[p]
  (List.finRange 48).filter (fun i => decide (q.row0 ≤ 30 * (i.val / 8)) && decide (30 * (i.val / 8) < q.row0 + q.height)
    && decide (q.col0 ≤ 32 * (i.val % 8)) && decide (32 * (i.val % 8) < q.col0 + q.width))

/-- A machine check about a partition: a record in the black box of each of its islands, and the interrupt of each (R402). -/
def State.machineCheck (s : State) (p : Fin 24) (kind : Nat) (d0 d1 : Word) : State :=
  let r := s.bbRec (some p) kind 0xFF 0xFF d0 d1
  (s.islandsOf p).foldl (fun s i => (s.record i r).tell (.check i (some p) kind)) s

/-- The island that records a cause: that of the place, of the stack for an HBM error, else the partition's first. -/
def State.causeIsland (s : State) (p : Fin 24) (c : StopCause) : Fin 48 :=
  if c.row < 180 ∧ c.col < 256 then islandOf c.row c.col
  else if c.kind.val = 0x11 then Fin.ofNat 48 (paStack c.d0.toNat % 24)
  else (s.islandsOf p).headD 0

/-- What an uncorrectable error has struck is poisoned (R400). -/
def State.strike (s : State) (c : StopCause) : State :=
  if c.kind.val = 0x10 then
    match spcOf (field c.d0 61 3) with
    | some sp =>
      let w := field c.d0 0 61 / 8
      if c.row < 180 ∧ c.col < 256 ∧ sp ≠ .code ∧ 8 * w < spcSize sp then
        s.modTile (tileAt c.row c.col) (fun x => if x.poison.contains (sp, w) then x else { x with poison := (sp, w) :: x.poison })
      else s
    | none => s
  else if c.kind.val = 0x11 then
    let g := c.d0.toNat / 64
    if s.hbmBad.contains g ∨ s.paOk c.d0.toNat = false then s else { s with hbmBad := g :: s.hbmBad }
  else s

/-- The KINDs of an uncorrectable error (R400, R405). -/
def stopKind (k : Nat) : Bool := decide (0x10 ≤ k) && decide (k ≤ 0x14)

/-- PARTITION_STOP (R402): the error's record, the stop's records and interrupts, and the end of the launch. An error of a place that
no partition owns is recorded and signalled, and stops none. -/
def execPartitionStop (p : Fin 24) (c : StopCause) (s : State) : Out State :=
  let q := s.parts[p]
  if !stopKind c.kind.val then .next (s.modPart p (fun q => { q with stopDue := none }))
  else if !q.owns then
    let s1 := (s.strike c).modPart p (fun q => { q with stopDue := none })
    let i := s1.causeIsland p c
    .next ((s1.record i (s1.bbRec none c.kind.val c.row c.col c.d0 c.d1)).tell (.check i none c.kind.val))
  else
    let s1 := s.strike c
    let s2 := s1.record (s1.causeIsland p c) (s1.bbRec (some p) c.kind.val c.row c.col c.d0 c.d1)
    let id := BitVec.ofNat 64 (q.cur.getD 0)
    .next ((s2.machineCheck p 0x40 id (BitVec.ofNat 64 c.kind.val)).failLaunch p 4)

/-! ## The watchdog (15 R378) -/

/-- WATCHDOG_EXPIRY (R378): the count has reached 2^33. -/
def execWatchdogExpiry (p : Fin 24) (s : State) : Out State :=
  match s.curLaunch p with
  | none => .next s
  | some l =>
    if (s.parts[p]).dog < watchdogBound then .next s
    else .next ((s.machineCheck p 0x21 (BitVec.ofNat 64 l.id) 0#64).failLaunch p 4)

end Machine
end Sys2Proof
end

