-- ==== Sys2Proof/Machine/Start.lean ====
section
/-! DEFINITION. The start of a launch (12 R309, 14 R338, R353, R355), its load stream (R298), its first tasks, the stream of WIDs
(R310), quiescence (R311) and completion events (13 R334, R335). -/

namespace Sys2Proof
namespace Machine

/-! ## Reads of the launch unit (13 R326); a refused one fails the launch with status 1 (log 25) -/

/-- What a read of the launch unit comes to: its bytes, a refusal, or a state in which it waits or the partition is to be
stopped. -/
inductive URead
  | ok (s : State) (bs : List Byte)
  | refused (s : State)
  | off (s : State)

/-- `n` bytes of the launch's address space, through the memory edge port of the partition's lowest-numbered bay. -/
def State.unitRead (s : State) (p : Fin 24) (l : Launch) (va : Word) (n : Nat) : URead :=
  let q := s.parts[p]
  if n = 0 then .ok s []
  else if !(s.vdevs[l.vdev]).sv57 || !vaCanon va || !vaCanon (va + BitVec.ofNat 64 (n - 1)) then .refused s
  else
    let ask : VAsk := { p := p, v := l.vdev, etu := s.mepOf (tileAt q.row0 q.col0), va := va, read := true, write := false
                        quiet := l.noFrame }
    match s.netRead ask (fun _ => none) va n false with
    | .ok s1 bs => .ok s1 bs
    | .refuse s1 => .refused s1
    | .hold => .off s
    | .later s1 => .off s1
    | .event id s1 => .off (s1.modLaunch l.id (fun l => { l with wait := some id }))
    | .frame s1 => .off (s1.modLaunch l.id (fun l => { l with noFrame := true }))
    | .stop s1 => .off s1

/-! ## The window table (14 R337, R338) -/

/-- A window-table entry; none where a reserved bit is set or a field lies outside its range. -/
def parseWin (q : Part) (bs : List Byte) : Option WinEnt :=
  let w (i : Nat) : Word := dwOf bs i
  let e : WinEnt := {
    type := field (w 0) 56 8, home := field (w 0) 48 5, spc := field (w 0) 32 3, wkey := BitVec.ofNat 32 (field (w 0) 0 32)
    base := w 1, len := (w 2).toNat, psb := w 3, wr := (w 4).getLsbD 16, plv := BitVec.ofNat 16 (field (w 4) 0 16)
    row0 := field (w 5) 56 8, row1 := field (w 5) 48 8, col0 := field (w 5) 40 8, col1 := field (w 5) 32 8 }
  let rsv := field (w 0) 53 3 + field (w 0) 35 13 + field (w 4) 32 32 + field (w 4) 17 15 + field (w 5) 0 32 + (w 6).toNat + (w 7).toNat
  let plv := e.plv.toNat
  let placed := e.type == 0 || (e.base.toNat % 64 == 0 && e.psb.toNat % 64 == 0 && e.len % 64 == 0 && decide (64 ≤ e.len))
  let rect := decide (e.row0 ≤ e.row1) && decide (e.row1 < q.height) && decide (e.col0 ≤ e.col1) && decide (e.col1 < q.width)
  let kind := match e.type with
    | 0 => true
    | 1 => decide (e.home < 24) && w 5 == 0#64 && decide (e.base.toNat + e.len ≤ 2 ^ 64)
    | 2 => (e.spc == 1 || e.spc == 3) && decide (1 ≤ plv) && decide (plv ≤ 8192) && rect
      && decide (e.base.toNat + e.len ≤ spcSize ((spcOf e.spc).getD .data))
      && decide (e.psb.toNat + 64 * plv ≤ spcSize ((spcOf e.spc).getD .data))
      && !rangesMeet (e.base.toNat, e.len) (e.psb.toNat, 64 * plv)
    | 3 => decide (e.home < 24) && rect && decide (e.base.toNat + e.len ≤ 2 ^ 64) && decide (e.psb.toNat + 4 * e.len ≤ 2 ^ 64)
    | _ => false
  if rsv == 0 && placed && kind then some e else none

/-- The virtual ranges of a window. -/
def WinEnt.virt (e : WinEnt) : List (Nat × Nat) :=
  match e.type with
  | 1 => [(e.base.toNat, e.len)]
  | 3 => [(e.base.toNat, e.len), (e.psb.toNat, 4 * e.len)]
  | _ => []

/-- A window table that passes R338. -/
def parseWins (q : Part) (n : Nat) (bs : List Byte) : Option (List WinEnt) :=
  match (List.range n).mapM (fun i => parseWin q (slice bs (64 * i) 64)) with
  | none => none
  | some l =>
    if nonePair rangesMeet (l.flatMap WinEnt.virt)
        && nonePair (fun (a b : WinEnt) => a.type == 3 && b.type == 3 && a.wkey == b.wkey) l then some l else none

/-! ## The faceplate against the partition (R309 step 2) -/

/-- The global tile of a tile of the area. -/
def Part.at_ (q : Part) (x : Nat × Nat) : TileId := tileAt (q.row0 + x.1) (q.col0 + x.2)

/-- Tiles of a rectangle. -/
def RectEnt.cells (e : RectEnt) : List (Nat × Nat) :=
  (List.range e.rows).flatMap (fun i => (List.range e.cols).map (fun j => (e.row0 + i, e.col0 + j)))

/-- Present tiles of a stage. -/
def State.stageCount (s : State) (q : Part) (f : Faceplate) (g : Nat) : Nat :=
  ((f.rects.filter (fun e => e.stg == g)).map (fun e => (e.cells.filter (fun x => !s.absent (q.at_ x))).length)).sum

/-- Does a reduction slot meet R271? -/
def State.redOk (s : State) (p : Fin 24) (e : RedEnt) : Bool :=
  let ps := s.treeParts p e
  let seg := if e.mode = 2 then e.len / max 1 ps.length else e.len
  e.len == 0 || (e.mode != 3 && decide (e.len ≤ 4096) && e.dofs % 64 == 0 && ps.contains (s.rootOf p e)
    && decide (e.rootr < (s.parts[p]).height) && decide (e.rootc < (s.parts[p]).width)
    && (e.mode != 2 || e.len % ps.length == 0) && decide (e.dofs + 4 * seg ≤ spcSize .acc))

/-- Step 2 of R309, the window table apart. -/
def State.faceplateOk (s : State) (p : Fin 24) (h : LHdr) (f : Faceplate) : Bool :=
  let q := s.parts[p]
  decide (f.fh ≤ q.height) && decide (f.fw ≤ q.width) && (h.wcnt == 0 || decide (h.eq < f.queues.length))
  && (List.range f.stages.length).all (fun g => match f.stages[g]? with
    | some e => decide (e.min ≤ s.stageCount q f g) && decide (s.stageCount q f g ≤ e.max)
    | none => false)
  && f.reds.all (s.redOk p)

/-! ## Directories at launch start (14 R353, R355) -/

/-- A directory created with IVER published. -/
def VerDir.new (e : WinEnt) : VerDir :=
  let z : VerSlot := { st := 0, ver := 0#16, seq := 0, ref := [] }
  { wkey := e.wkey, home := e.home, next := 1
    slots := ((Vector.replicate 4 z).set 0 { z with st := 2, ver := e.plv }).set 1 { z with st := 1 } }

/-- A type 3 window of a launch that starts: its directory, TCV of the placed tiles, and the partition's reference. -/
def State.openVersion (s : State) (p : Fin 24) (ts : List TileId) (w : Nat) (e : WinEnt) : State :=
  let s1 := if (s.dir e.key).isSome then s else { s with dirs := s.dirs ++ [VerDir.new e] }
  match (s1.dir e.key).bind (fun d => d.latest.map (fun i => (i, (d.slots[i]).ver))) with
  | none => s1
  | some (i, v) =>
    let s2 := ts.foldl (fun s t => s.modTile t (fun x => { x with tcv := tset x.tcv w v })) s1
    if e.wr then s2 else s2.modDir e.key (fun d => d.modSlot i (fun y => y.addRef p))

/-! ## LAUNCH_START (R309 steps 1 and 2) -/

/-- A launch whose container and window table have been accepted: what they give is held, and the area is ready for the stream. -/
def State.beginLoad (s : State) (p : Fin 24) (l : Launch) (bs : List Byte) (c : Container) (ws : List WinEnt) : State :=
  let q := s.parts[p]
  let here (x : Nat × Nat) : Bool := !s.absent (q.at_ x)
  let ts := ((c.fp.rects.flatMap (·.cells)).filter here).map q.at_
  let ts := ts.mergeSort (fun a b => decide (a ≤ b))
  let feeds := (c.fp.feeds (fun r c => s.absent (q.at_ (r, c)))).map (fun x => (q.at_ x.1, q.at_ x.2))
  let s1 := s.modLaunch l.id (fun l => { l with
    container := bs, imgAt := c.imgs, images := c.imgs.map (fun x => slice bs x.1 x.2), roles := c.roles, fp := c.fp, wins := ws
    present := c.fp.cells.filter here, placed := ts, feeds := feeds, queues := c.fp.queues.map (fun _ => [])
    pos := c.fp.stages.map (fun _ => none), noFrame := false })
  let s2 := { s1 with tiles := s1.tiles.map (fun (tx : Nat × Tile) =>
    if !q.covers tx.1 then tx
    else if ts.contains tx.1 then (tx.1, { tx.2 with beats := 0, tcv := [] })
    else (tx.1, { tx.2 with beats := 0, trigs := Vector.replicate 16 {}, role := none })) }
  ((List.range ws.length).zip ws).foldl (fun s x => if x.2.type = 3 then s.openVersion p ts x.1 x.2 else s) s2

/-- The container is accepted (R294), with the pair that its partition has verified. -/
def State.verify (s : State) (p : Fin 24) (l : Launch) (bs : List Byte) (c : Container) : Option State :=
  let d := containerDigest bs
  let known := (s.parts[p]).verified.contains (d, c.keyId)
  if !(s.vdevs[l.vdev]).keys.toList.any (fun k => k == c.keyId && k != 0#256) || !tailZero bs then none
  else if known then some s
  else if sigOk bs c then some (s.modPart p (fun q => { q with verified := (d, c.keyId) :: q.verified }))
  else none

/-- Steps 1 and 2 of R309 on a container that has been read. -/
def State.checkImage (s : State) (p : Fin 24) (l : Launch) (bs : List Byte) : State :=
  match parseContainer bs with
  | none => s.endLaunch p l 1
  | some c => match s.verify p l bs c with
    | none => s.endLaunch p l 1
    | some s1 =>
      if !s1.faceplateOk p l.hdr c.fp then s1.endLaunch p l 2
      else match s1.unitRead p l l.hdr.wtab (64 * l.hdr.nwin) with
        | .off s2 => s2
        | .refused s2 => s2.endLaunch p l 1
        | .ok s2 wb => match parseWins (s2.parts[p]) l.hdr.nwin wb with
          | none => s2.endLaunch p l 2
          | some ws => s2.beginLoad p l bs c ws

/-- LAUNCH_START (R309): the container is read, verified and checked, and the load stream begins. -/
def execLaunchStart (p : Fin 24) (s : State) : Out State :=
  match s.curLaunch p with
  | none => .next s
  | some l =>
    if l.st ≠ .starting ∨ l.container ≠ [] ∨ l.wait.isSome = true then .next s
    else if l.denied then .next (s.endLaunch p l 1)
    else match s.unitRead p l l.hdr.imgva 64 with
      | .off s1 => .next s1
      | .refused s1 => .next (s1.endLaunch p l 1)
      | .ok s1 h => match containerLen h with
        | none => .next (s1.endLaunch p l 1)
        | some n => match s1.unitRead p l (l.hdr.imgva + 64#64) (n - 64) with
          | .off s2 => .next s2
          | .refused s2 => .next (s2.endLaunch p l 1)
          | .ok s2 b => .next (s2.checkImage p l (h ++ b))

/-! ## LOAD_BEAT (R298, R309 step 3) -/

/-- A placed tile at the first beat: its spaces zero, its words as R309 step 3 sets them, the rest as at reset (01 R25). -/
def freshTile (x : Tile) (h : LHdr) (r : Role) (no stg : Nat) (e : StageEnt) (now : Nat) : Tile :=
  { tcv := x.tcv, role := some no, img := r.img, trigs := e.table, stage := BitVec.ofNat 16 (e.set * 256 + stg), busyAt := now
    cw := { tvec := r.tvec, widw := h.widw, ydl := BitVec.ofNat 64 (if h.ydl = 0 then 14000 else h.ydl)
            hang := BitVec.ofNat 64 (if h.hang = 0 then 2 ^ 30 else h.hang) } }

/-- The bytes of a beat that belong to `[src, src + len)` of the container, written from `dst` on. -/
def Tile.takeBeat (x : Tile) (n : Nat) (bs : List Byte) (sp : Spc) (dst src len : Nat) : Tile :=
  let lo := max (64 * n) src
  let hi := min (64 * n + 64) (src + len)
  if lo < hi then x.putBytes sp (dst + (lo - src)) (slice bs (lo - 64 * n) (hi - lo)) else x

/-- A byte of the CTL image of a role: zero where no segment gives it. -/
def ctlByte (r : Role) (c : List Byte) (o : Nat) : Byte :=
  match r.segs.find? (fun g => g.spc == .ctl && decide (g.dst ≤ o) && decide (o < g.dst + g.len)) with
  | some g => c.getD (g.src + (o - g.dst)) 0#8
  | none => 0#8

/-- A doubleword of it. -/
def ctlDw (r : Role) (c : List Byte) (o : Nat) : Word := BitVec.ofNat 64 (leNat ((List.range 8).map (fun i => ctlByte r c (o + i))))

/-- A blank entry as its two doublewords give it (08 R227). -/
def blankOf (w0 w1 : Word) : Blank :=
  { spc := field w0 56 3, base := field w0 32 19, len := field w0 0 20, tok := BitVec.ofNat 16 (field w1 48 16), rdr := field w1 40 8
    hold := field w1 37 3, fw := w1.getLsbD 36, err := w1.getLsbD 35, dfn := w1.getLsbD 34
    st := match field w1 32 2 with | 0 => .empty | 1 => .filling | 2 => .ready | _ => .draining }

/-- The blank table and the window registers of a role. -/
def Tile.loadCtl (x : Tile) (r : Role) (c : List Byte) : Tile :=
  { x with
    blanks := Vector.ofFn (fun i => blankOf (ctlDw r c (16 * i.val)) (ctlDw r c (16 * i.val + 8)))
    windows := Vector.ofFn (fun i =>
      let o := 0x400 + 32 * i.val
      ⟨ctlDw r c o &&& BitVec.ofNat 64 (winMask 0), ctlDw r c (o + 8) &&& BitVec.ofNat 64 (winMask 1),
        ctlDw r c (o + 16) &&& BitVec.ofNat 64 (winMask 2)⟩) }

/-- Beat `n` of `total` at a placed tile: what belongs to its own role is kept. -/
def Tile.keepBeat (x : Tile) (l : Launch) (rl : Role) (n total : Nat) : Tile :=
  let bs := slice l.container (64 * n) 64
  let im := l.imgAt.getD rl.img (0, 0)
  let x1 := x.takeBeat n bs .code 0 im.1 im.2
  let x2 := rl.segs.foldl (fun (x : Tile) g => if g.spc = .ctl then x else x.takeBeat n bs g.spc g.dst g.src g.len) x1
  if n + 1 = total then x2.loadCtl rl l.container else x2

/-- LOAD_BEAT (R298): the next beat reaches a tile from the tile that forwards it; a placed tile keeps what its role names, any
other tile forwards it only. -/
def execLoadBeat (t : TileId) (s : State) : Out State :=
  match s.partOf t, s.launchAt t with
  | some p, some l =>
    let q := s.parts[p]
    let x := s.tile t
    let n := x.beats
    let total := l.container.length / 64
    let sent := match l.feeds.find? (fun f => f.1 == t) with
      | some f => f.2 == t || decide (n < (s.tile f.2).beats)
      | none => false
    if l.st ≠ .starting ∨ sent = false ∨ total ≤ n then .next s
    else
      let rect := l.fp.rectAt (rowOf t - q.row0) (colOf t - q.col0)
      let x1 := match rect.bind (fun r => (l.fp.stages[r.stg]?).bind (fun e => (l.roles[e.role]?).map (fun rl => (r, e, rl)))) with
        | some (r, e, rl) => (if n = 0 then freshTile x l.hdr rl e.role r.stg e s.now else x).keepBeat l rl n total
        | none => x
      .next (s.setTile t { x1 with beats := n + 1 })
  | _, _ => .next s

/-! ## First tasks (R309 step 4) -/

/-- The first arrivals of a placed tile. -/
def Tile.fire (x : Tile) (h : LHdr) (mask : Half) (now : Nat) : Tile :=
  (List.finRange 16).foldl (fun (x : Tile) (n : Fin 16) =>
    if mask.getLsbD n.val then
      (x.arrive { slot := n, arg := h.arg, pay := [], s2 := 0xFFFF#64, ctx := 0#16, wid := h.wbase } now).getD x
    else x) x

/-- FIRST_TASKS_FIRE (R309): every tile that the stream reaches is loaded; a placed tile that it does not reach fails the launch. -/
def execFirstTasksFire (p : Fin 24) (s : State) : Out State :=
  match s.curLaunch p with
  | none => .next s
  | some l =>
    let q := s.parts[p]
    let total := l.container.length / 64
    if l.st ≠ .starting ∨ l.container = [] ∨ l.feeds.any (fun f => decide ((s.tile f.1).beats < total)) = true then .next s
    else if l.placed.any (fun t => !l.feeds.any (fun f => f.1 == t)) then .next (s.endLaunch p l 3)
    else
      let s1 := l.placed.foldl (fun s t => s.modTile t (fun x =>
        x.fire l.hdr (((l.fp.rectAt (rowOf t - q.row0) (colOf t - q.col0)).map (·.fire)).getD 0#16) s.now)) s
      let l2 := { l with st := .running, container := [], imgAt := [], feeds := [] }
      let s2 := (s1.modLaunch l.id (fun _ => l2)).modPart p (fun q => { q with elasticAt := s.now, dog := 0, deferred := false })
      .next (if q.deferred then s2.sliceDecide p l2 else s2)

/-! ## The stream (R310) -/

/-- STREAM_DISPATCH (R310): the next WID is offered to the entry queue, one per clk. -/
def execStreamDispatch (p : Fin 24) (s : State) : Out State :=
  match s.curLaunch p with
  | none => .next s
  | some l =>
    if l.st = .running ∧ l.streamAt ≠ some s.now ∧ l.cursor < l.hdr.wcnt ∧ (l.queued l.hdr.eq).length < l.depth l.hdr.eq then
      let m : TMsg := {
        id := s.fresh, src := .unit p (Fin.ofNat 16 l.hdr.eq), dst := tileAt (s.parts[p]).row0 (s.parts[p]).col0, kind := .send, slot := 0
        stq := some (Fin.ofNat 16 l.hdr.eq), srow := 0xFF, scol := 0xFF, ctx := 0#16, arg := l.hdr.arg
        wid := l.hdr.wbase + BitVec.ofNat 64 l.cursor, img := 0, stl := false, pc := 0#64, pay := [], mig := none, post := none
        resv := none, back := none, dreg := 0, nacks := 0, sent := true, phase := .out }
      .next (s.bump.modLaunch l.id (fun l => { l.enqueue l.hdr.eq m with cursor := l.cursor + 1, streamAt := some s.now }))
    else .next s

/-! ## Quiescence (R311) -/

/-- Does a placed tile meet R311? -/
def State.quietTile (s : State) (t : TileId) : Bool :=
  let x := s.tile t
  (List.finRange 4).all (fun k => !(x.strand k).live) && x.ready.isEmpty && x.stopBuf.isEmpty && x.posted.isEmpty
  && x.cmds.isEmpty && (s.netCmds t).isEmpty && !s.netPosted t (fun _ => true)
  && x.tree.toList.all (fun z => z.own.isEmpty && z.kids.all (fun k => k.2.isEmpty) && z.deliv.isEmpty && !z.tokPending)

/-- Is the launch that holds a partition quiescent? A steal request and an empty reply await no acknowledgement. -/
def State.quiescent (s : State) (p : Fin 24) (l : Launch) : Bool :=
  l.cursor == l.hdr.wcnt && l.queues.all (·.isEmpty) && l.placed.all s.quietTile
  && !s.msgs.any (fun m => (s.parts[p]).covers m.dst && m.kind != .stealReq && m.kind != .emptyReply)

/-- QUIESCENCE_DETECTED (R309, R311, R312): a launch that is RUNNING, or STOPPING and not yet halted, completes. -/
def execQuiescenceDetected (p : Fin 24) (s : State) : Out State :=
  match s.curLaunch p with
  | none => .next s
  | some l =>
    let q := s.parts[p]
    if (l.st = .running ∨ (l.st = .stopping ∧ q.gangStop = false ∧ q.draining = false)) ∧ s.quiescent p l = true then
      .next (s.endLaunch p l 0)
    else .next s

/-! ## Completion events (13 R334, R335) -/

/-- The partition of a device is to be stopped, for poison at a physical address (18 R401). -/
def State.stopDev (s : State) (v : Fin 64) (pa : Nat) : State :=
  match s.devPart v with
  | some p => s.stopPart p (hbmStop s pa)
  | none => s

/-- notify() of R335: the notify word from ARMED to 0, and the interrupt. -/
def State.notify (s : State) (v : Fin 64) : State :=
  let d := s.vdevs[v]
  let at_ := d.cipa.toNat + 8
  if s.hbmPoison at_ 8 false then s.stopDev v at_ else
  let s1 := s.charge v 6 64
  if s.hdw at_ = 1#64 then ((s1.hwriteDw at_ 0#64).charge v 7 64).tell (.msi (d.imp.zeroExtend 64 <<< 12) d.eiid.toNat) else s1

/-- The four doublewords of an end event (R334). -/
def Vdev.endRecord (d : Vdev) (e : EvRec) : Word × Word × Word × Word :=
  (BitVec.ofNat 64 (e.gen.toNat * 2 ^ 48 + 1 * 2 ^ 40 + e.status * 2 ^ 32 + e.seq), e.utag, e.clks,
    BitVec.ofNat 64 ((d.pi.toNat / 2 ^ d.rlog + 1) % 2))

/-- EVENT_DELIVERY (R335): the oldest waiting event of a device is discarded when its generation has passed, else written once the
ring has space. -/
def execEventDelivery (v : Fin 64) (s : State) : Out State :=
  let d := s.vdevs[v]
  match d.events with
  | [] => .next s
  | e :: r =>
    if e.gen ≠ d.gen then .next (s.modVdev v (fun d => { d with events := r }))
    else
      let ci : BitVec 32 := (s.hdw d.cipa.toNat).truncate 32
      let at_ := d.rpa.toNat + 32 * (d.pi.toNat % 2 ^ d.rlog)
      if s.hbmPoison d.cipa.toNat 16 false then .next (s.stopDev v d.cipa.toNat)
      else if 2 ^ d.rlog ≤ (d.pi - ci).toNat then .next s
      else if s.hbmPoison at_ 32 true then .next (s.stopDev v at_)
      else
        let (w0, w1, w2, w3) := d.endRecord e
        let s1 := ((s.charge v 6 64).hwriteRec at_ w0 w1 w2 w3).charge v 7 64
        let s2 := s1.modVdev v (fun d => { d with events := r, pi := d.pi + 1#32, ip := d.ip || d.st != .running })
        .next (if d.st = .running then s2.notify v else s2)

end Machine
end Sys2Proof
end

