-- ==== Sys2Proof/Machine/Save.lean ====
section
/-! DEFINITION. Saving a launch and restoring it (15 R366 to R377): the end of the drain, the sealed image and its frames, the
restore on the same or another partition, and the release. -/

namespace Sys2Proof
namespace Machine

/-! ## The end of the drain (R367, R368) -/

/-- Has the traffic of a partition come to its end, and with it every step that a drain still makes? A delivery is over but for its token,
which waits for room in q7 (R274). -/
def State.drainOver (s : State) (p : Fin 24) (l : Launch) : Bool :=
  let q := s.parts[p]
  s.plane.all (fun r => !q.posts r || (match r.phase with | .gate _ => true | _ => false))
  && s.msgs.all (fun m => !q.covers m.dst && (match m.src with | .tile t | .wake t => !q.covers t | .unit u _ => u != p))
  && q.netBusy.isEmpty && q.retire.isEmpty && !q.inMsgs.any (fun m => m.buf.isSome && (m.st == .going || m.st == .ending))
  && l.placed.all (fun t =>
    let x := s.tile t
    x.copies.all (fun c => match c.phase with
      | .accepted _ => false
      | .event _ _ a => a.isNone
      | .frame a => a.isNone
      | _ => true)
    && x.posted.all (fun w => x.cmds.any (fun c => c.posted.contains w.id))
    && (List.finRange 32).all (fun k =>
      let z := x.tree[k]
      (s.roundStep t k).isNone && (s.deliveryStep t k).isNone && (z.tokPending || z.deliv.isEmpty)))

/-- The waits that a drain has kept end: an ENDT whose drains have completed retires, any other issues again (R366, log 26); a place
in the order of a queue is saved (R369). -/
def State.endWait (s : State) (t : TileId) (k : Fin 4) : State :=
  let z := s.strand t k
  match z.wait with
  | none => s
  | some w =>
    let s1 := s.modStrand t k (fun z => { z with wait := if w.kind.queued then z.wait else none })
    if w.kind = .drains ∧ s.drainsOpen t z.uid = false then (s1.retireAt t k).modTile t (fun x => x.freeStrand k) else s1

/-- The waits of all placed tiles. -/
def State.endWaits (s : State) (l : Launch) : State :=
  l.placed.foldl (fun s t => (List.finRange 4).foldl (fun s k => s.endWait t k) s) s

/-- The sum of MSENT over the placed tiles and the launch unit, modulo 2^64 (R368, 13 R317). -/
def State.sentSum (s : State) (l : Launch) : Nat := ((l.placed.map (fun t => (s.tile t).msent)).sum + l.msent) % 2 ^ 64
/-- The sum of MRECV. -/
def State.recvSum (s : State) (l : Launch) : Nat := ((l.placed.map (fun t => (s.tile t).mrecv)).sum + l.mrecv) % 2 ^ 64

/-! ## What is saved (R369 to R371) -/

/-- Is the inbox entry allocated to a ready task or to a resident strand (R371)? -/
def Tile.inboxUsed (x : Tile) (e : Fin 16) : Bool :=
  x.ready.any (fun r => r.inbox == some e) || x.strands.toList.any (fun z => z.live && z.inbox == some e)

/-- The ranges that are saved of a tile; none where all of DATA, WGT, ACT and ACC are (R371). -/
def State.savedRanges (s : State) (t : TileId) : Option (List Rng) :=
  let x := s.tile t
  if x.settled && x.decl then
    some ((x.phint.toList.filterMap (fun h => (spcOf h.spc).bind (fun sp => if h.len = 0 then none else some ⟨sp, h.base, h.len⟩)))
      ++ ((List.finRange 16).filter x.inboxUsed).map (fun e => ⟨.data, inboxOfs e, 256⟩)
      ++ ((s.wins2 t).filterMap (fun w => (spcOf w.2.spc).map (fun sp =>
          [(⟨sp, w.2.base.toNat, w.2.len⟩ : Rng), ⟨sp, w.2.psb.toNat, 64 * w.2.plv.toNat⟩]))).flatten
      ++ x.blanks.toList.filterMap (fun b => if b.st = .empty then none else (spcOf b.spc).map (fun sp => ⟨sp, b.base, b.len⟩)))
  else none

/-- Is a byte of a space among the ranges? -/
def inRanges (rs : List Rng) (sp : Spc) (o : Nat) : Bool := rs.any (fun r => r.spc == sp && decide (r.lo ≤ o) && decide (o < r.lo + r.len))

/-- Is a byte of a tile saved? -/
def savedByte (only : Option (List Rng)) (sp : Spc) (o : Nat) : Bool :=
  match only with
  | none => true
  | some rs => inRanges rs sp o

/-- A poisoned word that a save would read (R401): CTL is saved whole (R369). -/
def Tile.savedPoison (x : Tile) (only : Option (List Rng)) : Option (Spc × Nat) :=
  x.poison.find? (fun w => w.1 == .ctl || (List.range 8).any (fun i => savedByte only w.1 (8 * w.2 + i)))

/-- A strand as it is saved: held at its boundary; a wait in the order of R21 keeps its place with a fresh count (R366). The clks of
R42 and R93 are timing, and are not saved. -/
def Strand.save (z : Strand) (hang : Nat) : Strand :=
  { z with
    line := none, stall := 0, regAt := []
    wait := match z.wait with
      | some w => (match w.kind with
        | .qput _ _ => some { w with count := 0, bound := w.bound.map (fun _ => hang) }
        | _ => none)
      | none => none }

/-- A copy operation as it is saved: frozen after the accesses already issued. -/
def CRun.save (c : CRun) : CRun :=
  { c with phase := match c.phase with
      | .event _ _ _ => .running
      | .frame _ => .running
      | ph => ph }

/-- The posted accesses of a tile that frozen operations have still to perform: they keep the order of R217, and leave the counters. -/
def Tile.stillPosted (x : Tile) : List Posted := x.ordered.filter (fun w => x.cmds.any (fun c => c.posted.contains w.id))

/-- A tile as it is saved; the counters of posted accesses read zero on restore (R253, R377). -/
def Tile.save (x : Tile) : Tile :=
  let y : Tile := { x with
    posted := [], frozen := x.stillPosted, strands := x.strands.map (fun z => z.save x.hangBound), copies := x.copies.map CRun.save, sliceEnd := none, divAt := 0
    stolenAt := none }
  { y with blanks := y.blanks.map (fun b => { b with fw := false }) }

/-- The record of a placed tile. -/
def State.saveTile (s : State) (q : Part) (t : TileId) : SavedTile :=
  { row := rowOf t - q.row0, col := colOf t - q.col0, tile := (s.tile t).save, only := s.savedRanges t }

/-! ## The sealed image (R373, R374) -/

/-- Exactly `n` bytes. -/
def fixLen (n : Nat) (bs : List Byte) : List Byte := bs.take n ++ List.replicate (n - bs.length) 0#8

/-- Zero bytes up to a multiple of 64. -/
def pad64 (bs : List Byte) : List Byte := bs ++ List.replicate ((64 - bs.length % 64) % 64) 0#8

/-- A 160-byte strand record (R373). -/
def Strand.record (z : Strand) : List Byte :=
  (z.regs.toList ++ [z.pc, z.sw, z.wid]).flatMap (fun w => leBytes 8 w.toNat)
    ++ leBytes 8 (b2n z.held.isSome * 2 ^ 36 + b2n z.pend.isSome * 2 ^ 35 + b2n z.parked.isSome * 2 ^ 34 + b2n z.live * 2 ^ 33
      + z.vpin.toNat * 2 ^ 16 + z.ctx.toNat)

/-- A bit of every slot, slot 0 lowest. -/
def Tile.slotBits (x : Tile) (f : Strand → Bool) : Nat := ((List.finRange 4).map (fun k => b2n (f (x.strand k)) * 2 ^ k.val)).sum

/-- The 64-byte tile header of a record of `n` bytes (R373). -/
def SavedTile.header (y : SavedTile) (n : Nat) : List Byte :=
  let x := y.tile
  leBytes 8 (y.row * 2 ^ 40 + y.col * 2 ^ 32 + x.slotBits (·.parked.isSome) * 2 ^ 12 + x.slotBits (·.live) * 2 ^ 8 + b2n x.settled)
    ++ leBytes 8 x.cw.cyc ++ leBytes 8 x.cw.retired ++ leBytes 8 x.msent ++ leBytes 8 x.mrecv ++ leBytes 8 n ++ leBytes 16 0

/-- The bytes that are saved of the local spaces, space by space (R371). -/
def SavedTile.ranges (y : SavedTile) : List Byte :=
  [(Spc.data, y.tile.data), (.wgt, y.tile.wgt), (.act, y.tile.act), (.acc, y.tile.acc)].flatMap (fun m =>
    ((List.range (spcSize m.1)).filter (fun o => savedByte y.only m.1 o)).map (fun o => mget m.2 o))

/-- The 192 bytes of the tile words (R369): twelve doublewords, the PHINT table, DECL, and 24 reserved bytes. -/
def Tile.words (x : Tile) : List Byte :=
  let w := x.cw
  [w.tvec, w.tcause, w.tepc, w.tval, w.tscratch, w.tpxl, w.hang, w.keyl, w.keyh, w.ctrl, w.ctrh, w.ydl].flatMap (fun v => leBytes 8 v.toNat)
    ++ x.phint.toList.flatMap (fun h => leBytes 8 (h.spc * 2 ^ 61 + h.base * 2 ^ 32 + h.len))
    ++ leBytes 8 (b2n x.decl) ++ List.replicate 24 0#8

/-- A tile record: its header, the strand records, the tile words, and the parts whose bytes R369 leaves to the device, of its lengths. -/
def SavedTile.record (y : SavedTile) : List Byte :=
  let x := y.tile
  let rest := (List.finRange 4).flatMap (fun k => (x.strand k).record)
    ++ x.words
    ++ fixLen 640 (Config.imagePart (x.cmdq, x.tokq, x.resv, x.hold, x.strands.map (fun z => z.wait)))
    ++ fixLen 4096 (Config.imagePart ((List.range 512).map x.ctlWord))
    ++ Config.imagePart (x.ready, x.stopBuf) ++ Config.imagePart (x.mat, x.vec, x.copies, x.contribs) ++ Config.imagePart x.tree
    ++ fixLen y.ranges.length (Config.imagePart y.ranges)
    ++ (if x.written.isEmpty then [] else fixLen 65536 (Config.imagePart x.code))
  y.header (64 + rest.length) ++ rest

/-- The launch record (R370). -/
def State.launchRecord (s : State) (l : Launch) (q : Part) : List Byte :=
  Config.imagePart (l.cursor, l.queues, l.pos, l.placed.map (fun t => (s.tile t).stage), l.tags, q.drops,
    l.placed.map (fun t => (s.tile t).tree.map (fun z => z.count)))

/-- The body of an image before it is sealed (R373). -/
def State.imagePlain (s : State) (l : Launch) (q : Part) (ts : List SavedTile) : List Byte :=
  pad64 (s.launchRecord l q ++ ts.flatMap SavedTile.record)

/-- Header bytes 0 to 47, the additional authenticated data. -/
def imageAad (l : Launch) (nctr blen tiles : Nat) (coop : Bool) : List Byte :=
  leBytes 8 nctr ++ leBytes 8 (2 ^ 48 + l.vdev.val * 2 ^ 32 + l.seq) ++ leBytes 8 blen
    ++ leBytes 8 (b2n coop * 2 ^ 16 + (l.fp.fw - 1) * 2 ^ 8 + (l.fp.fh - 1)) ++ leBytes 8 tiles ++ leBytes 8 0

/-- The IV: VDEV and NCTR as big-endian numbers. -/
def imageIv (l : Launch) (nctr : Nat) : BitVec 96 := BitVec.ofNat 96 (l.vdev.val * 2 ^ 64 + nctr)

/-- BLEN of an image. -/
def Saved.blen (x : Saved) : Nat := x.plain.length

/-- The additional authenticated data of an image. -/
def Saved.aad (x : Saved) (l : Launch) : List Byte := imageAad l x.nctr x.blen x.tiles.length x.coop

/-- The sealed body, of BLEN bytes. -/
def Saved.body (x : Saved) (l : Launch) : List Byte := fixLen x.blen (Config.gcmBody x.key (imageIv l x.nctr) (x.aad l) x.plain)

/-- The header with its tag. -/
def Saved.header (x : Saved) (l : Launch) : List Byte :=
  x.aad l ++ leBytes 16 (Config.gcmTag x.key (imageIv l x.nctr) (x.aad l) x.plain).toNat

/-! ## DRAIN_END -/

/-- The launch record and the tile records of a launch that has drained. -/
def State.makeSaved (s : State) (p : Fin 24) (l : Launch) (key : BitVec 256) (nctr : Nat) : Saved :=
  let q := s.parts[p]
  let unit := tileAt q.row0 q.col0
  let ts := l.placed.map (s.saveTile q)
  { part := p, tiles := ts, recvq := q.recvq, inMsgs := q.inMsgs.filter (fun m => m.buf.isSome)
    unitBuf := if l.placed.contains unit then [] else (s.tile unit).stopBuf
    key := key, nctr := nctr, plain := s.imagePlain l q ts, frame := 0, drops := q.drops
    coop := l.placed.all (fun t => (s.tile t).settled), row0 := q.row0, col0 := q.col0 }

/-- A save that cannot be made, or a drain that does not add up: a record, and the launch fails with status 4. -/
def State.saveFails (s : State) (p : Fin 24) (kind : Nat) (d0 d1 : Nat) : State :=
  (s.machineCheck p kind (BitVec.ofNat 64 d0) (BitVec.ofNat 64 d1)).failLaunch p 4

/-- The poisoned word of a launch that a save would read. -/
def State.savePoison (s : State) (l : Launch) : Option (TileId × Spc × Nat) :=
  l.placed.findSome? (fun t => ((s.tile t).savedPoison (s.savedRanges t)).map (fun w => (t, w.1, w.2)))

/-- The check of the counts, the test of quiescence, and the sealing (R368, R374). -/
def State.seal (s : State) (p : Fin 24) (l : Launch) : State :=
  if s.sentSum l ≠ s.recvSum l then s.saveFails p 0x20 (s.sentSum l) (s.recvSum l)
  else if s.quiescent p l then s.endLaunch p l 0
  else
    let ks := s.keys[l.vdev]
    match ks.key with
    | none => s.saveFails p 0x23 l.id ks.ctr
    | some key =>
      if ks.ctr = 2 ^ 64 - 1 then s.saveFails p 0x23 l.id ks.ctr
      else match s.savePoison l with
        | some (t, sp, w) => s.stopAt t (s.poisonStop t sp (8 * w))
        | none =>
          let s1 := { s with keys := s.keys.set l.vdev { ks with ctr := ks.ctr + 1 } }
          (s1.modLaunch l.id (fun l => { l with saved := some (s.makeSaved p l key ks.ctr), noFrame := false })).modPart p
            (fun q => { q with saving := true })

/-- DRAIN_END (R367, R368). -/
def execDrainEnd (p : Fin 24) (s : State) : Out State :=
  match s.curLaunch p with
  | none => .next s
  | some l =>
    let q := s.parts[p]
    if !q.draining || q.saving || q.restoring || l.st != .stopping || !s.drainOver p l then .next s
    else .next ((s.endWaits l).seal p l)

/-! ## The frames of an image (R375) -/

/-- Frames at each level of the tree: body, level 1, level 2. -/
def frameCounts (blen : Nat) : Nat × Nat × Nat :=
  let b := (blen + 4095) / 4096
  let l1 := (b + 511) / 512
  (b, l1, (l1 + 511) / 512)

/-- Frames that an image takes, the header's included. -/
def framesFor (blen : Nat) : Nat := let c := frameCounts blen; 1 + c.2.2 + c.2.1 + c.1

/-- Index frames: the addresses of `fs`, 512 to a frame. -/
def State.writeIndex (s : State) : List Nat → List Nat → State
  | [], _ => s
  | ix :: r, fs => (s.hwrite ix (((fs.take 512).map (leBytes 8)).flatten)).writeIndex r (fs.drop 512)

/-- Body frames. -/
def State.writeBody (s : State) : List Nat → List Byte → State
  | [], _ => s
  | f :: r, bs => (s.hwrite f (bs.take 4096)).writeBody r (bs.drop 4096)

/-- The tree of an image in its frames: header, level 2, level 1, body. -/
def State.writeImage (s : State) (fs : List Nat) (l : Launch) (x : Saved) : State :=
  let (_, n1, n2) := frameCounts x.blen
  let hd := fs.headD 0
  let f2 := (fs.drop 1).take n2
  let f1 := (fs.drop (1 + n2)).take n1
  let fb := fs.drop (1 + n2 + n1)
  (((s.hwrite hd (x.header l ++ (f2.map (leBytes 8)).flatten)).writeIndex f2 f1).writeIndex f1 fb).writeBody fb (x.body l)

/-- The frames reached from index frames. -/
def State.readIndex (s : State) (ixs : List Nat) (n : Nat) : List Nat :=
  ((ixs.flatMap (fun ix => (List.range 512).map (fun i => (s.hdw (ix + 8 * i)).toNat))).take n)

/-- The index and body frames of an image, from its header frame: level 2, level 1, body. -/
def State.imageTree (s : State) (frame blen : Nat) : List Nat × List Nat × List Nat :=
  let (nb, n1, n2) := frameCounts blen
  let f2 := (List.range n2).map (fun i => (s.hdw (frame + 64 + 8 * i)).toNat)
  let f1 := s.readIndex f2 n1
  (f2, f1, s.readIndex f1 nb)

/-- The body of an image as its frames hold it. -/
def State.readImage (s : State) (frame blen : Nat) : List Byte :=
  ((s.imageTree frame blen).2.2.flatMap (fun f => s.hread f 4096)).take blen

/-- Frames with the bytes that they hold of `n`, `k` to a frame. -/
def frameBytes (k : Nat) : List Nat → Nat → List (Nat × Nat)
  | [], _ => []
  | f :: r, n => (f, min k n) :: frameBytes k r (n - k)

/-- The frames of an image with the bytes that it holds in each: the header and its index, level 2, level 1, body. -/
def imagePieces (frame blen : Nat) (f2 f1 fb : List Nat) : List (Nat × Nat) :=
  (frame, 64 + 8 * f2.length) :: (frameBytes 4096 f2 (8 * f1.length) ++ frameBytes 4096 f1 (8 * fb.length) ++ frameBytes 4096 fb blen)

/-- The first place of an image where a read of it meets poison (R401): the bytes that a restore reads. -/
def State.imagePoison (s : State) (frame blen : Nat) : Option Nat :=
  let (f2, f1, fb) := s.imageTree frame blen
  ((imagePieces frame blen f2 f1 fb).find? (fun x => s.hbmPoison x.1 x.2 false)).map (·.1)

/-- The first place where a save into the frames `fs` would write a poisoned granule in part (R401). -/
def State.savePoisonAt (s : State) (fs : List Nat) (blen : Nat) : Option Nat :=
  let (_, n1, n2) := frameCounts blen
  ((imagePieces (fs.headD 0) blen ((fs.drop 1).take n2) ((fs.drop (1 + n2)).take n1) (fs.drop (1 + n2 + n1))).find?
    (fun x => s.hbmPoison x.1 x.2 true)).map (·.1)

/-- The frames of a saved image. -/
def State.imageFrames (s : State) (x : Saved) : List Nat :=
  let (f2, f1, fb) := s.imageTree x.frame x.blen
  x.frame :: (f2 ++ f1 ++ fb)

/-- Bytes of HBM that an image takes with its header and its indices, in whole granules (R407). -/
def sealedBytes (blen : Nat) : Nat :=
  let (nb, n1, n2) := frameCounts blen
  64 * (granules 0 (64 + 8 * n2) + granules 0 (8 * n1) + granules 0 (8 * nb) + granules 0 blen)

/-- Frames for a save: all of them, or those that there were where the ring has become empty, or a poisoned entry of it. -/
inductive Frames
  | got (fs : List Nat) (s : State)
  | dry (fs : List Nat) (s : State)
  | poison (at_ : Nat) (s : State)

/-- `n` more frames for a save: from the reserve, then from the ring, which the launch unit reaches as port `e`. -/
def State.moreFrames (s : State) (p : Fin 24) (v : Fin 64) (e : Nat) : Nat → List Nat → Frames
  | 0, fs => .got fs s
  | n + 1, fs =>
    match (s.parts[p]).reserve with
    | f :: r => (s.modPart p (fun q => { q with reserve := r })).moreFrames p v e n (fs ++ [f])
    | [] => match s.takeFrame p v e 2 0#64 with
      | .got f s1 => s1.moreFrames p v e n (fs ++ [f])
      | .dry => .dry fs s
      | .poison at_ => .poison at_ s

/-- The launch leaves the partition with its image written. -/
def State.suspend (s : State) (p : Fin 24) (l : Launch) (x : Saved) (fs : List Nat) : State :=
  let q := s.parts[p]
  let x1 := { x with frame := fs.headD 0 }
  let s1 := (s.writeImage fs l x1).charge l.vdev 7 (sealedBytes x.blen)
  let s2 := s1.modLaunch l.id (fun l => { l with st := .suspended, saved := some x1, placed := [], frames := fs, noFrame := false })
  let s3 := s2.modVdev l.vdev (fun d => { d with queues := d.queues.set l.hdr.pri (l.id :: d.queues[l.hdr.pri]) })
  let s4 := { s3 with tiles := s3.tiles.map (fun (tx : Nat × Tile) => (tx.1, if q.covers tx.1 then tx.2.leave else tx.2)) }
  (s4.dropTraffic p).modPart p Part.idle

/-- LAUNCH_SUSPENDED (R375): the image is written to its frames, behind the hold of a hot stack (20 R422); where the ring has no more, the
launch keeps those that it has taken, and the save waits. -/
def execLaunchSuspended (p : Fin 24) (s : State) : Out State :=
  match s.curLaunch p with
  | none => .next s
  | some l =>
    match l.saved with
    | none => .next s
    | some x =>
      if !(s.parts[p]).saving then .next s
      else
        let asid := (s.vdevs[l.vdev]).asid
        let e := (s.mepOf (tileAt (s.parts[p]).row0 (s.parts[p]).col0)).val
        match s.moreFrames p l.vdev e (framesFor x.blen - l.frames.length) l.frames with
        | .got fs s1 =>
          if fs.any s.heldPa then .next s
          else match s1.savePoisonAt fs x.blen with
            | some a => .next (s.stopPart p (hbmStop s a))
            | none => .next (s1.suspend p l x fs)
        | .poison at_ _ => .next (s.stopPart p (hbmStop s at_))
        | .dry fs s1 =>
          let s2 := s1.modLaunch l.id (fun l => { l with frames := fs, noFrame := true })
          .next (if l.noFrame then s2 else s2.islandEvent p asid e 2 2 0#64 0#32)

/-! ## Restore (R377) -/

/-- A byte of a window register's word 1, a coordinate, moved. -/
def moveByte (w : Word) (lo : Nat) (d : Int) : Word :=
  setField w lo 8 (BitVec.ofInt 64 (((field w lo 8 : Nat) : Int) + d))

/-- A window register whose origin has moved. -/
def WinReg.move (w : WinReg) (dr dc : Int) : WinReg :=
  { w with w1 := moveByte (moveByte (moveByte (moveByte w.w1 56 dr) 48 dr) 40 dc) 32 dc }

/-- A tile number moved. -/
def moveTile (dr dc : Int) (t : TileId) : TileId :=
  tileAt (((rowOf t : Nat) : Int) + dr).toNat (((colOf t : Nat) : Int) + dc).toNat

/-- Coordinates in s2 moved; 0xFFFF names no tile (12 R309). -/
def moveS2 (dr dc : Int) (v : Word) : Word := if v = 0xFFFF#64 then v else moveByte (moveByte v 8 dr) 0 dc

/-- Sender and destination of a message moved, and the partition of a message of the launch unit. -/
def TMsg.move (m : TMsg) (p : Fin 24) (dr dc : Int) : TMsg :=
  { m with
    dst := moveTile dr dc m.dst
    src := match m.src with
      | .tile t => .tile (moveTile dr dc t)
      | .wake t => .wake (moveTile dr dc t)
      | .unit _ q => .unit p q
    from_ := moveTile dr dc m.from_
    srow := if m.srow = 0xFF ∧ m.scol = 0xFF then m.srow else (((m.srow : Nat) : Int) + dr).toNat
    scol := if m.srow = 0xFF ∧ m.scol = 0xFF then m.scol else (((m.scol : Nat) : Int) + dc).toNat }

/-- A global address of this wafer that the device holds, moved. -/
def moveGlobal (dr dc : Int) (g : Word) : Word :=
  if gChip g = 0xFFF then
    gaddr (((rowOf (gTile g) : Nat) : Int) + dr).toNat (((colOf (gTile g) : Nat) : Int) + dc).toNat (gSpc g) (gOfs g)
  else g

/-- A binding entry moved: GATE and RBASE with CHIP = 0xFFF and V = 0. -/
def Binding.move (b : Binding) (dr dc : Int) : Binding :=
  { b with gate := if b.gv then b.gate else moveGlobal dr dc b.gate, rbase := if b.rv then b.rbase else moveGlobal dr dc b.rbase }

/-- A frozen posted access whose remote drain goes to a tile that has moved. -/
def Posted.move (q : Posted) (dr dc : Int) : Posted :=
  { q with
    gran := q.gran.map (fun g => if g.1 then g else (false, (moveGlobal dr dc (BitVec.ofNat 64 (64 * g.2))).toNat / 64))
    lane := q.lane.map (fun l => (moveTile dr dc l.1, l.2)) }

/-- A command whose remote drain goes to a tile that has moved (06 R176, log 26). -/
def Cmd.move (c : Cmd) (dr dc : Int) : Cmd := { c with dest := moveTile dr dc c.dest }

/-- A saved tile whose origin has moved (R377 step 3). -/
def Tile.move (x : Tile) (p : Fin 24) (dr dc : Int) : Tile :=
  { x with
    windows := x.windows.map (fun w => w.move dr dc)
    binds := x.binds.map (fun b => b.move dr dc)
    cmdq := x.cmdq.map (fun q => q.map (fun e => match e with | .cmd c => .cmd (c.move dr dc) | .raw v => .raw v))
    mat := { x.mat with run := x.mat.run.map (fun r => { r with cmd := r.cmd.move dr dc }) }
    frozen := x.frozen.map (fun w => if x.cmds.any (fun c => c.isDrain && c.posted.contains w.id) then w.move dr dc else w)
    ready := x.ready.map (fun r => { r with s2 := moveS2 dr dc r.s2 })
    stopBuf := x.stopBuf.map (fun m => m.move p dr dc)
    tree := x.tree.map (fun z => { z with kids := z.kids.foldl (fun (l : Tbl (List Round)) k => tset l (moveTile dr dc k.1) k.2) [] }) }

/-- The bytes of a tile as a restore leaves them: what was not saved is zero (R377 step 2), and CODE comes from its image where the
copy engine has not written it. -/
def SavedTile.load (y : SavedTile) (l : Launch) : Tile :=
  let keep (sp : Spc) (m : Mem) : Mem := m.filter (fun c => savedByte y.only sp c.1)
  let x := y.tile
  let im : List Byte := (l.images[x.img]?).getD []
  { x with
    code := if x.written.isEmpty then mwrite [] 0 im else x.code
    data := keep .data x.data, wgt := keep .wgt x.wgt, act := keep .act x.act, acc := keep .acc x.acc
    poison := x.poison.filter (fun w => w.1 == .code), halted := true }

/-- The references of a launch, those still to be dropped among them, pass from the partition it was saved on to the one it is restored
on (14 R355, R370). -/
def State.moveRefs (s : State) (p p1 : Fin 24) (l : Launch) (x : Saved) : State :=
  if p = p1 then s
  else x.drops.foldl (fun s d => s.modDir d.1 (fun y => y.modSlot d.2.1 (fun y => (y.dropRef p).addRef p1))) <| ((List.range l.wins.length).zip l.wins).foldl (fun s w =>
    if w.2.type != 3 || w.2.wr then s
    else s.modDir w.2.key (fun d => match d.slotFor (x.version w.1 w.2) with
      | some i => d.modSlot i (fun y => (y.dropRef p).addRef p1)
      | none => d)) s

/-- A message that its tile turns away goes back to its sender's interface (R377 step 4). -/
def State.sendBack (s : State) (m : TMsg) : State := { s with msgs := s.msgs ++ [{ m with phase := .nack }] }

/-- A message accepted: what a SPAWN or MIGR has reserved at its sender is released by the acknowledgement. -/
def State.accepted (s : State) (m : TMsg) : State :=
  match m.kind with
  | .spawn | .migr => { s with msgs := s.msgs ++ [{ m with phase := .ack }] }
  | _ => s

/-- One message of a stop buffer applied at its tile, or at the launch unit (R377 step 4). -/
def State.applyMsg (s : State) (t : TileId) (m : TMsg) : State :=
  let x := s.tile t
  match m.kind with
  | .send | .wake | .stage =>
    (match m.stq with
      | some q => (match s.launchAt t with
        | some l =>
          if (l.queued q.val).length < l.depth q.val then s.modLaunch l.id (fun l => l.enqueue q.val m) else s.sendBack m
        | none => s)
      | none => match x.arrive m.arrival s.now with
        | some y => s.setTile t y
        | none => s.sendBack m)
  | .spawn => (match x.acceptSpawn m s.now with
    | some y => (s.setTile t y).accepted m
    | none => { s with msgs := s.msgs ++ [{ m with kind := .bounce, dst := (m.src.tile?).getD t, phase := .out }] })
  | .migr => (match x.acceptMigr m s.now with
    | some y => (s.setTile t y).accepted m
    | none => { s with msgs := s.msgs ++ [{ m with kind := .bounce, dst := (m.src.tile?).getD t, phase := .out }] })
  | .bounce => s.setTile t (x.takeBounce m t s.now)
  | .stolen => s.setTile t (x.takeStolen m s.now)
  | .stealReq | .emptyReply => s

/-- The stop buffer of a tile applied in its order. -/
def State.applyBuf (s : State) (t : TileId) (l : List TMsg) : State :=
  l.foldl (fun s m => s.applyMsg t m) (s.modTile t (fun x => { x with stopBuf := [] }))

/-- Does the image in its frames stand as it was sealed, under the key that the key unit holds (R377 step 1)? -/
def State.imageOk (s : State) (l : Launch) (x : Saved) : Bool :=
  (s.keys[l.vdev]).key == some x.key && s.hread x.frame 64 == x.header l && s.readImage x.frame x.blen == x.body l

/-- The receive queues of the network after a move. -/
def RBuf.move (b : RBuf) (dr dc : Int) : RBuf := { b with tile := moveTile dr dc b.tile }

/-- Steps 1 to 4 of R377. -/
def State.restoreOn (s : State) (p : Fin 24) (l : Launch) (x : Saved) : State :=
  let q := s.parts[p]
  let dr : Int := ((q.row0 : Nat) : Int) - x.row0
  let dc : Int := ((q.col0 : Nat) : Int) - x.col0
  let at_ (y : SavedTile) : TileId := tileAt (q.row0 + y.row) (q.col0 + y.col)
  -- a tile that is not placed runs no role and no slot of it is armed (12 R296)
  let s0 := { s with tiles := s.tiles.map (fun (tx : Nat × Tile) =>
    if q.covers tx.1 then (tx.1, { tx.2 with trigs := Vector.replicate 16 {}, role := none }) else tx) }
  let s1 := x.tiles.foldl (fun s y => s.setTile (at_ y) ((y.load l).move p dr dc)) (s0.moveRefs x.part p l x)
  let s2 := s1.modLaunch l.id (fun l => { l with
    placed := x.tiles.map at_
    queues := l.queues.map (fun z => z.map (fun m => m.move p dr dc)) })
  let s3 := s2.modPart p (fun q => { q with
    restoring := true, drops := x.drops, recvq := x.recvq.map (fun z => z.map (fun b => b.move dr dc))
    inMsgs := q.inMsgs ++ x.inMsgs.map (fun m => { m with buf := m.buf.map (fun b => b.move dr dc) }) })
  let s4 := x.tiles.foldl (fun s y => s.applyBuf (at_ y) (s.tile (at_ y)).stopBuf) s3
  (x.unitBuf.map (fun m => m.move p dr dc)).foldl (fun s m => s.applyMsg (tileAt q.row0 q.col0) m) s4

/-- RESTORE (R377 steps 1 to 4): a suspended launch that has been chosen; its reads wait behind the hold of a hot stack (20 R422). -/
def execRestore (p : Fin 24) (s : State) : Out State :=
  match s.curLaunch p with
  | none => .next s
  | some l =>
    match l.saved with
    | none => .next s
    | some x =>
      if l.st != .suspended || (s.parts[p]).restoring || (s.imageFrames x).any s.heldPa then .next s
      else match s.imagePoison x.frame x.blen with
        | some f => .next (s.stopPart p (hbmStop s f))
        | none =>
          if s.imageOk l x then .next ((s.charge l.vdev 6 (sealedBytes x.blen)).restoreOn p l x)
          else .next ((s.charge l.vdev 6 (sealedBytes x.blen)).saveFails p 0x22 l.id x.nctr)

/-- A strand as the release leaves it: a parked one resumes with its result, 3 where the origin has moved (R365, R377 step 5). -/
def Strand.release (z : Strand) (moved : Bool) : Strand :=
  match z.parked with
  | some d => { z with parked := none, regs := z.regs.set d (if moved then 3#64 else 1#64) }
  | none => z

/-- A tile as the release leaves it. -/
def Tile.release (x : Tile) (moved : Bool) (now : Nat) : Tile :=
  let y : Tile := { x with
    halted := false, sliceEnd := none, settled := false, strands := x.strands.map (fun z => z.release moved), busyAt := now }
  y.nextPending x.lastH

/-- RESTORE_RELEASE (R377 step 5): all tiles go on, and the launch is RUNNING. -/
def execRestoreRelease (p : Fin 24) (s : State) : Out State :=
  match s.curLaunch p with
  | none => .next s
  | some l =>
    let q := s.parts[p]
    if l.st != .suspended || !q.restoring then .next s
    else
      let moved := match l.saved with
        | some x => x.row0 != q.row0 || x.col0 != q.col0
        | none => false
      let s1 := l.placed.foldl (fun s t => s.modTile t (fun x => x.release moved s.now)) s
      let l2 := { l with st := .running, saved := none }
      let s2 := (s1.modLaunch l.id (fun l => { l with st := .running, saved := none })).modPart p (fun q => { q with
        restoring := false, elasticAt := s.now, dog := 0, deferred := false })
      .next (if q.deferred then s2.sliceDecide p l2 else s2)

end Machine
end Sys2Proof
end

