-- ==== Sys2Proof/Machine/Tenancy.lean ====
section
/-! DEFINITION. Partitions and virtual devices as the island governs them (13 R314 to R318, R323, R336). -/

namespace Sys2Proof
namespace Machine

/-! ## Partitions (R314, R316, R318) -/

/-- Is the node that TREE, LVL and IDX name well formed (R314, R315)? -/
def Part.nodeOk (q : Part) : Bool :=
  if q.tree = 3 then q.lvl == 0 && q.idx == 0 else decide (q.idx.val < 2 ^ (3 - q.lvl.val))

/-- The bays of a node (R314). -/
def Part.bays (q : Part) : List Nat :=
  if q.tree = 3 then List.range 24 else (List.range (2 ^ q.lvl.val)).map (fun i => 8 * q.tree.val + 2 ^ q.lvl.val * q.idx.val + i)

/-- Belongs a bay of the node to another partition that is assigned or releasing? -/
def State.bayTaken (s : State) (p : Fin 24) : Bool :=
  (List.finRange 24).any (fun r => r != p && (s.parts[r]).owns && (s.parts[r]).bays.any (s.parts[p]).bays.contains)

/-- Tiles of a partition as a release leaves them: a tile that is not listed is scrubbed (R318). -/
def State.scrubTiles (s : State) (p : Fin 24) : State :=
  { s with tiles := s.tiles.filter (fun (tx : Nat × Tile) => !(s.parts[p]).covers tx.1) }

/-- A partition without anything of an earlier assignment. -/
def Part.clean (q : Part) (now : Nat) : Part :=
  { q.idle with
    verified := [], reserve := [], charge := [], deficitAt := now, netBusy := [], recvq := Vector.replicate 16 [], inMsgs := []
    netNext := [], netDone := [], outMsg := [], outOrd := [], heldPkts := [], answers := [], kept := [] }

/-- EN = 1 written to an entry that is free or refused, its node fields as they stand (R316). -/
def State.enable (s : State) (p : Fin 24) : State :=
  let q := s.parts[p]
  if q.owns then s.modPart p (fun q => { q with en := true })
  else if q.nodeOk && !s.bayTaken p then
    (s.modPart p (fun q => { q.clean s.now with st := .assigned, en := true })).scrubTiles p
  else s.modPart p (fun q => { q with st := .refused, en := false })

/-- EN = 0 written: an assigned partition begins its release, and the launch that holds it fails (R316, R318 step 1). -/
def State.disable (s : State) (p : Fin 24) : State :=
  if (s.parts[p]).st = .assigned then (s.failLaunch p 4).modPart p (fun q => { q with st := .releasing, en := false })
  else s.modPart p (fun q => { q with en := false })

/-- The island's network set-up of a partition (10 R277). -/
def Part.setNet (q : Part) (n : NetSetup) : Part :=
  { q with ports := n.ports, mtu := 1024 * 2 ^ n.mtu.val, rto := n.rto, rlim := n.rlim, noPeer := n.noPeer }

/-- PARTITION_ENABLE (R316), with the network set-up that the island makes with it (10 R277, log 16). -/
def execPartitionEnable (p : PartSetup) (s : State) : Out State :=
  .next ((s.modPart p.part (fun q => q.setNet p.net)).enable p.part)

/-- PARTITION_RELEASE (R318). -/
def execPartitionRelease (p : Fin 24) (s : State) : Out State := .next (s.disable p)

/-- SCRUB_COMPLETE (R318): the tiles are zero, what the partition filled in the read buffers is gone, its reserve of frames (15 R375) and
its frames with beads (14 R344) are discarded, and the entry is free. -/
def execScrubComplete (p : Fin 24) (s : State) : Out State :=
  if (s.parts[p]).st ≠ .releasing then .next s
  else
    let s1 := (s.dropTraffic p).scrubTiles p
    let s2 := { s1 with
      etus := s1.etus.map (fun (u : Etu) => { u with buf := u.buf.filter (fun g => g.part != p) })
      beads1 := s1.beads1.filter (fun b => b.part != p)
      pools1 := s1.pools1.filter (fun b => b.part != p)
      etuWaits := s1.etuWaits.filter (fun w => w.part != p) }
    .next (s2.modPart p (fun q => { q.clean s.now with st := .free }))

/-! ## Virtual devices (R336) -/

/-- STATE written: a device that begins to run again has its held interrupt delivered once. -/
def State.setVState (s : State) (v : Fin 64) (st : VState) : State :=
  let d := s.vdevs[v]
  let s1 := s.modVdev v (fun d => { d with st := st })
  if st = .running ∧ d.ip = true then (s1.modVdev v (fun d => { d with ip := false })).notify v else s1

/-- STATE_DESCHEDULED (R336). -/
def execStateDescheduled (v : Fin 64) (s : State) : Out State := .next (s.setVState v .descheduled)
/-- STATE_PAUSED (R336). -/
def execStatePaused (v : Fin 64) (s : State) : Out State := .next (s.setVState v .paused)
/-- STATE_RUNNING (R336). -/
def execStateRunning (v : Fin 64) (s : State) : Out State := .next (s.setVState v .running)

/-- The partition that a launch holds. -/
def State.heldBy (s : State) (id : Nat) : Option (Fin 24) := (List.finRange 24).find? (fun p => (s.parts[p]).cur == some id)

/-- A launch of a device that is reset: one that holds a partition fails, any other is discarded without an event. -/
def State.resetLaunch (s : State) (l : Launch) : State :=
  match s.heldBy l.id with
  | some p => s.failLaunch p 4
  | none => s.discardLaunch l

/-- RST := 1 (R336). -/
def State.resetVdev (s : State) (v : Fin 64) : State :=
  let s1 := (s.launches.filter (fun l => l.vdev == v)).foldl State.resetLaunch s
  s1.modVdev v (fun d => { d with gen := d.gen + 1#16, deficit := 0, ip := false, pi := 0#32 })

/-- VDEV_RESET (R336). -/
def execVdevReset (v : Fin 64) (s : State) : Out State := .next (s.resetVdev v)

end Machine
end Sys2Proof
end

