-- ==== Sys2Proof/Machine/Boot.lean ====
section
/-! DEFINITION. Boot, repair and degraded operation (17 R385 to R398), warm reset (R391) and loss of power (00 R3). -/

namespace Sys2Proof
namespace Machine

/-! ## The spare map and the absent list (R393, R394) -/

/-- Region of a physical site. -/
def siteRegion (x : Nat) : Nat := 8 * (x / 256 / 32) + x % 256 / 32
/-- Local row of a physical site. -/
def siteRow (x : Nat) : Nat := x / 256 % 32

/-- Defective sites that BIST reports. -/
def Bist.defects (b : Bist) : List Nat := (b.core ++ b.router).eraseDups

/-- Has a router of an island strip failed (R392)? -/
def Bist.stripFails (b : Bist) : Bool := b.stripRouter || b.router.any (fun x => siteRow x == 31)

/-- Islands that fail, themselves or with their strip (R392). -/
def Bist.badIslands (b : Bist) : List Nat := b.islands ++ (b.core.filter (fun x => siteRow x == 31)).map siteRegion

/-- Defective sites of a local row of a region. -/
def Bist.inRow (b : Bist) (g r : Nat) : Nat := (b.defects.filter (fun x => siteRegion x == g && siteRow x == r)).length

/-- The compute row of a region that holds the most defective sites, the lowest on a tie; none without a defect. -/
def Bist.worstRow (b : Bist) (g : Nat) : Option Nat :=
  (List.range 30).foldl (fun w r =>
    if b.inRow g r = 0 then w
    else match w with
      | some i => if b.inRow g i < b.inRow g r then some r else w
      | none => some r) none

/-- Of a region: is its spare row used, is it defective, and the retired local row (R393). -/
def Bist.spareOf (b : Bist) (g : Nat) : Bool × Bool × Nat :=
  let bad := b.inRow g 30 != 0
  match b.worstRow g with
  | some r => if bad then (false, true, 0) else (true, false, r)
  | none => (false, bad, 0)

/-- The logical tile at a physical site of a used row (R393); none for a retired row, an unused spare row or an island strip. -/
def Bist.logical (b : Bist) (x : Nat) : Option TileId :=
  let (used, _, r) := b.spareOf (siteRegion x)
  let l := siteRow x
  let at_ (l : Nat) : TileId := tileAt (30 * (x / 256 / 32) + l) (x % 256)
  if 30 < l then none
  else if used then (if l = r then none else some (at_ (if r < l then l - 1 else l)))
  else if l = 30 then none else some (at_ l)

/-- Region of a logical tile. -/
def tileRegion (t : TileId) : Nat := 8 * (rowOf t / 30) + colOf t / 32

/-- Listed tiles of a region. -/
def listedIn (l : List TileId) (g : Nat) : Nat := (l.filter (fun t => tileRegion t == g)).length

/-- Regions retired until the list of single absent tiles has at most 496 entries: the one with the most listed tiles first, the
lower number on a tie. -/
def retireMore : Nat → List Nat → List TileId → List Nat
  | 0, gone, _ => gone
  | n + 1, gone, l =>
    if l.length ≤ 496 then gone
    else
      let g := (List.range 48).foldl (fun b g => if listedIn l b < listedIn l g then g else b) 0
      retireMore n (gone ++ [g]) (l.filter (fun t => tileRegion t != g))

/-- Row-major order without repeats. -/
def tilesSorted (l : List TileId) : List TileId := (l.eraseDups).mergeSort (fun a b => decide (a ≤ b))

/-- What phase 3 builds from BIST, with the islands given as absent: spare map, absent list, dead routers, retired regions and the route
tables. -/
def Boot.mapped (x : Boot) (b : Bist) (noIsland : List Nat) : Boot :=
  let all := tilesSorted (b.defects.filterMap b.logical)
  let isl := (List.range 48).filter noIsland.contains
  let outside (gone : List Nat) : List TileId := all.filter (fun t => !gone.contains (tileRegion t))
  let gone := retireMore 48 isl (outside isl)
  let dead := tilesSorted (b.router.filterMap b.logical)
  { x with
    spare := (List.range 48).map (fun g => (g, b.spareOf g)), absent := outside gone
    dead := dead, routes := routeTables dead, retired := gone.mergeSort (fun a b => decide (a ≤ b)), noIsland := isl
    noStack := (List.range 24).filter b.badStacks.contains, noNep := (List.range 32).filter b.neps.contains }

/-! ## BIST that stops boot (R317, R392, R396) -/

/-- A dead router in the first or last logical row or column of its bay. -/
def onBayEdge (t : TileId) : Bool := rowOf t % 60 == 0 || rowOf t % 60 == 59 || colOf t % 32 == 0 || colOf t % 32 == 31

/-- Two dead routers within two rows and two columns of each other. -/
def tooClose (a b : TileId) : Bool := decide (natDist (rowOf a) (rowOf b) ≤ 2) && decide (natDist (colOf a) (colOf b) ≤ 2)

/-- Does BIST fail for the module? -/
def Boot.bistFails (x : Boot) (b : Bist) : Bool :=
  b.repeaters || b.stripFails || x.dead.any onBayEdge || !nonePair tooClose x.dead

/-! ## Present units -/

/-- Is the pair's island present, and its port? -/
def Boot.pairOk (x : Boot) (pr : Nat × Nat) : Bool := !x.noIsland.contains pr.1 && !x.noNep.contains pr.2

/-- The pair in use. -/
def State.bootPair (s : State) : Nat × Nat := if s.boot.pairB then s.fuses.backup else s.fuses.primary

/-- Boot stops: the report at the management port, and a record in the boot island's black box (R387, R405). The code of the cause
is a free value (log 27). -/
def State.bootStop (s : State) (phase : Nat) : State :=
  let cause := Config.syndrome s.free
  let s1 := s.record (Fin.ofNat 48 s.bootPair.1) (s.bbRec none 0x30 0xFF 0xFF (BitVec.ofNat 64 phase) cause)
  ({ s1 with boot := { s1.boot with stopped := true, retryAt := none }, free := s1.free + 1 }).tell (.boot phase cause.toNat)

/-! ## Phases 1 to 4 -/

/-- Bytes of a digest. -/
def digestBytes (d : BitVec 256) : List Byte := leBytes 32 d.toNat

/-- What remains of the machine where everything of R2 is lost: the model's own fields, the fuses, what BIST will find, the black
boxes and the records of what has left the machine; memory is zero (log 4, log 5). -/
def State.bare (s : State) : State :=
  { agenda := s.agenda, steps := s.steps, now := s.now, fresh := s.fresh, free := s.free, fuses := s.fuses, bist := s.bist
    bistNext := s.bistNext
    boxes := s.boxes.map (fun (b : BlackBox) => { b with fw := Vector.replicate 3 0#64, fwAt := (0, 0) }), notices := s.notices
    power := { hotStacks := s.power.hotStacks, refclk := s.power.refclk, periodAt := s.now } }

/-- BIST runs (R385 phase 2): it finds what it found before, or what is now to be found. -/
def State.runBist (s : State) : State :=
  match s.bistNext with
  | b :: r => { s with bist := b, bistNext := r }
  | [] => s

/-- Phases 1 to 3, and the choice of the boot pair; phase 4 then waits for the image. -/
def State.bootPhases (s0 : State) : State :=
  let s := s0.runBist
  let x : Boot := { phase := 4, dpk := fixLen 1312 (Config.mldsaPublic s.fuses.seed) }
  let x := x.mapped s.bist s.bist.badIslands
  let s1 : State := { s with boot := { x with pairB := !x.pairOk s.fuses.primary } }
  let s2 := s1.record (Fin.ofNat 48 s1.bootPair.1)
    (s1.bbRec none 0x31 0xFF 0xFF (BitVec.ofNat 64 x.ntile) (BitVec.ofNat 64 x.absent.length))
  if x.bistFails s.bist then s2.bootStop 2
  else if !x.pairOk s2.bootPair then s2.bootStop 4
  else s2

/-- May a cold boot begin: the wafer has no power yet, or nothing has run since it was released from reset? -/
def State.coldReady (s : State) : Bool := !s.power.on || (s.boot.phase == 0 && !s.power.hold && !s.power.holdV)

/-- COLD_BOOT (R385): the clk count starts, the meters read zero, a new BOOTID is drawn (R3, 18 R408), and phases 1 to 3 run. -/
def execColdBoot (s : State) : Out State :=
  if !s.coldReady then .next s
  else
    let id := Config.randomWord s.free
    let s1 : State := { s.bare with now := 0, free := s.free + 1, meters := { bootid := id } }
    .next ({ s1 with
      boxes := s1.boxes.map (fun (b : BlackBox) => { b with bootid := id })
      power := { s1.power with periodAt := 0 } }).bootPhases

/-! ## WARM_RESET (R391) -/

/-- A warm reset: the black boxes, the meter counters, SEQ and BOOTID are kept, all else is lost, and the phases run again. A module that
holds in reset goes on holding; the cold boot that follows the hold runs its phases (20 R422, R424, log 65). -/
def State.warmReset (s : State) : State :=
  let m := s.meters.flush.mark
  let s1 : State := { s.bare with
    meters := { seq := m.seq, bootid := m.bootid, dev := m.dev, tenant := m.tenant, dev0 := m.dev0, ten0 := m.ten0, addedAt := s.now } }
  let s2 : State := { s1 with
    boxes := s1.boxes.map (fun (b : BlackBox) => { b with wrst := if b.wrst = 0xFFFF#16 then b.wrst else b.wrst + 1#16 })
    power := { s1.power with hold := s.power.hold, holdV := s.power.holdV } }
  if s.power.hold || s.power.holdV then s2 else s2.bootPhases

/-- WARM_RESET (R391). -/
def execWarmReset (s : State) : Out State := .next s.warmReset

/-- MANAGEMENT_RESET (20 R423): the reset command of the management port starts a warm reset. -/
def execManagementReset (s : State) : Out State := .next s.warmReset

/-- POWER_LOSS (00 R3): no state survives. -/
def execPowerLoss (s : State) : Out State :=
  .next { s.bare with boxes := Vector.replicate 48 {}, power := { on := false, refclk := s.power.refclk } }

/-! ## The boot image (R387, R388) -/

/-- The header of a boot image: SVN, SIGOFS, KEYID and ENTRY; none where a field is wrong. -/
def parseBootHeader (bs : List Byte) : Option (BitVec 32 × Nat × BitVec 256 × Word) :=
  let len := (dwOf bs 2).toNat
  let sig := field (dwOf bs 3) 0 32
  if 128 ≤ bs.length ∧ dwOf bs 0 = 0x00544F4F42574C54#64 ∧ field (dwOf bs 1) 0 16 = 1 ∧ field (dwOf bs 1) 16 16 = 0
      ∧ len % 64 = 0 ∧ len ≤ 2 ^ 28 ∧ len = bs.length ∧ field (dwOf bs 3) 32 32 = 0 ∧ sig % 64 = 0 ∧ 128 ≤ sig ∧ len = sig + 2432
      ∧ leNat (slice bs 72 56) = 0
  then some (BitVec.ofNat 32 (field (dwOf bs 1) 32 32), sig, digestOf (slice bs 32 32), dwOf bs 8) else none

/-- Is an image accepted (R388)? -/
def State.imageAccepted (s : State) (bs : List Byte) : Option (BitVec 32 × Nat × BitVec 256 × Word) :=
  match parseBootHeader bs with
  | none => none
  | some (svn, sig, key, entry) =>
    let known := (List.finRange 4).any (fun i => s.fuses.digests[i] == key && !s.fuses.revoked[i])
    let d := Config.sha3 (bs.take sig)
    if known ∧ s.fuses.svf.toNat ≤ svn.toNat ∧ Config.mldsaVerify key d (slice bs sig 2420) = true ∧ leNat (bs.drop (sig + 2420)) = 0
    then some (svn, sig, key, entry) else none

/-- Clks of a second (20 R419). -/
def clksPerSecond : Nat := 1400000000

/-- A fetch or a verification fails: a retry after 1 s, or boot stops after the third with the backup pair. -/
def State.fetchFails (s : State) : State :=
  let s1 : State := { s with boot := { s.boot with fails := s.boot.fails + 1, retryAt := some (s.now + clksPerSecond) } }
  if s.boot.pairB ∧ 3 ≤ s1.boot.fails then s1.bootStop 4 else s1

/-! ## Phases 6 and 7 (R390, R389, R398) -/

/-- The order in which the image is sent on: each island after the one that sends it (R390). -/
def spreadOrder (b : Nat) : List Nat :=
  let row := b / 8
  let line := (List.range 8).filter (fun c => decide (b % 8 < c)) ++ ((List.range 8).filter (fun c => decide (c < b % 8))).reverse
  line.map (fun c => 8 * row + c) ++ (b % 8 :: line).flatMap (fun c =>
    (((List.range 6).filter (fun r => decide (row < r))) ++ ((List.range 6).filter (fun r => decide (r < row))).reverse).map
      (fun r => 8 * r + c))

/-- The copy that reaches an island, and the copies that are still to come. -/
def takeCopy (i : Nat) (image : List Byte) (l : List (Nat × List Byte)) : List Byte × List (Nat × List Byte) :=
  match l.find? (fun x => x.1 == i) with
  | some x => (x.2, l.erase x)
  | none => (image, l)

/-- The islands that do not accept the image: each compares its own digest of the signed bytes with D, and asks its sender once more after
a mismatch (R390). -/
def spreadFails (image : List Byte) (sig : Nat) : List Nat → List (Nat × List Byte) → List Nat
  | [], _ => []
  | i :: r, l =>
    let ok (c : List Byte) : Bool := Config.sha3 (c.take sig) == Config.sha3 (image.take sig)
    let (c1, l1) := takeCopy i image l
    if ok c1 then spreadFails image sig r l1
    else
      let (c2, l2) := takeCopy i image l1
      if ok c2 then spreadFails image sig r l2 else i :: spreadFails image sig r l2

/-- A hart of a present island as it starts. -/
def startHart (entry : Word) : Hart := { pc := entry }

/-- Phases 5 to 7 with an accepted image: measured, spread, the inventory block written, every partition entry free and every virtual device
reset (R385), and the harts of the present islands started at ENTRY, where the firmware lies. -/
def State.bootImage (s : State) (chip : BitVec 12) (bs : List Byte) (svn : BitVec 32) (sig : Nat) (key : BitVec 256) (entry : Word) : State :=
  let mr5 := Config.sha3 (digestBytes s.boot.mr ++ digestBytes (Config.sha3 (bs.take sig)))
  let others := spreadFails bs sig ((spreadOrder s.bootPair.1).filter (fun i => !s.boot.noIsland.contains i)) s.bist.spread
  let x := s.boot.mapped s.bist (s.boot.noIsland ++ others)
  let x := { x with phase := 7, chip := chip, svn := svn, keyId := key, entry := entry, retryAt := none }
  let inv := Config.sha3 x.inventory
  let s1 : State := { s with
    boot := { x with invDigest := inv, mr := Config.sha3 (digestBytes mr5 ++ digestBytes inv) }
    parts := ({} : State).parts
    vdevs := ({} : State).vdevs
    hartsOn := true
    harts := Vector.ofFn (fun h => if x.noIsland.contains (h.val / 8) then {} else startHart entry) }
  if s1.paOk entry.toNat then s1.hwrite entry.toNat (slice bs 128 (sig - 128)) else s1

/-- BOOT_IMAGE_FETCHED (R387): the reply and the file have come, or have not; an accepted image ends the boot. -/
def execBootImageFetched (chip : Option (BitVec 16)) (image : List Byte) (s : State) : Out State :=
  if s.boot.phase ≠ 4 ∨ s.boot.stopped = true ∨ s.boot.retryAt.isSome = true then .next s
  else match chip with
    | none => .next s.fetchFails
    | some c =>
      if 0xFFF ≤ c.toNat then .next s.fetchFails
      else match s.imageAccepted image with
        | none => .next s.fetchFails
        | some (svn, sig, key, entry) => .next (s.bootImage (c.truncate 12) image svn sig key entry)

/-- BOOT_FETCH_RETRY (R387): after 1 s; after the third failure with the primary pair, with the backup pair. -/
def execBootFetchRetry (s : State) : Out State :=
  match s.boot.retryAt with
  | none => .next s
  | some t =>
    if s.now < t ∨ s.boot.stopped = true then .next s
    else if s.boot.fails < 3 then .next { s with boot := { s.boot with retryAt := none } }
    else
      let s1 : State := { s with boot := { s.boot with pairB := true, fails := 0, retryAt := none } }
      .next (if s1.boot.pairOk s1.fuses.backup then s1 else s1.bootStop 4)

/-- SECURITY_VERSION_FLOOR_RAISE (R388): SVF never decreases, and never passes the SVN of the running image. -/
def execSecurityVersionFloorRaise (v : BitVec 32) (s : State) : Out State :=
  if s.boot.phase ≠ 7 then .next s
  else
    let n := min v.toNat s.boot.svn.toNat
    .next { s with fuses := { s.fuses with svf := if s.fuses.svf.toNat < n then BitVec.ofNat 32 n else s.fuses.svf } }

end Machine
end Sys2Proof
end

