-- ==== Sys2Proof/Machine/Service.lean ====
section
/-! DEFINITION. Meter reports (18 R408, R409), tenant keys (R410) and the service of guests and of the management server (R411,
R412). -/

namespace Sys2Proof
namespace Machine

/-! ## Meters and reports (R408, R409) -/

/-- METER_SHADOW_ADD (R408), once in 14,000 clks. -/
def execMeterShadowAdd (s : State) : Out State :=
  if s.now < s.meters.addedAt + period14k then .next s
  else .next { s with meters := { s.meters.flush with addedAt := s.meters.addedAt + period14k } }

/-- A report begins: the shadows are added, and S, TEN and the counters as they stood before the clk S are held. -/
def State.startReport (s : State) (kind : Fin 4) (rc : Option (Nat × Word)) : State :=
  let m := s.meters.flush
  { s with meters := { m with
      kind := kind, busy := some { kind := kind, at_ := s.now, dev := m.dev0, ten := m.ten0, tens := m.ten, rec_ := rc } } }

/-- GO written with a KIND: discarded while GO reads 1 and with KIND 0 or 3. -/
def State.reportGo (s : State) (kind : Fin 4) : State :=
  if s.meters.busy.isSome || kind == 0 || kind == 3 then s else s.startReport kind none

/-- ATTESTATION_REPORT (R409). -/
def execAttestationReport (s : State) : Out State := .next (s.reportGo 1)
/-- METER_SNAPSHOT (R409). -/
def execMeterSnapshot (s : State) : Out State := .next (s.reportGo 2)

/-- 16 counters of each of 64 numbers. -/
def counterBytes (t : Tbl Word) : List Byte := (List.range 1024).flatMap (fun i => leBytes 8 (tget 0#64 t i).toNat)

/-- The record of a report (R409). -/
def State.reportRecord (s : State) (r : ReportReq) : List Byte :=
  let m := s.meters
  let len := if r.kind = 1 then 200 else 16576
  let head := leBytes 8 (2 ^ 48 + r.kind.val * 2 ^ 40 + len) ++ leBytes 8 m.bootid.toNat ++ leBytes 8 s.boot.chip.toNat
    ++ leBytes 8 m.seq.toNat ++ leBytes 8 r.at_ ++ List.replicate 24 0#8 ++ digestBytes m.nonce ++ digestBytes s.boot.mr
  if r.kind = 1 then
    head ++ leBytes 8 (s.boot.svn.toNat * 2 ^ 32 + s.fuses.svf.toNat) ++ digestBytes s.boot.keyId ++ digestBytes s.boot.invDigest
  else
    head ++ r.tens.toList.map (fun t => t.zeroExtend 8) ++ counterBytes r.dev ++ counterBytes r.ten

/-- The record with its signature of 2,420 bytes. -/
def State.signedReport (s : State) (r : ReportReq) : List Byte :=
  let b := s.reportRecord r
  b ++ fixLen 2420 (Config.mldsaSign s.fuses.seed (Config.sha3 b))

/-! ## Keys (R410) -/

/-- Is a launch of the device being saved or restored? -/
def State.saveRestore (s : State) (v : Fin 64) : Bool :=
  (List.finRange 24).any (fun p => match s.curLaunch p with
    | some l => l.vdev == v && ((s.parts[p]).saving || l.st == .suspended)
    | none => false)

/-- A key is generated: fresh, the nonce counter 1, the ID latched. -/
def State.makeKey (s : State) (v : Fin 64) (id_ : Word) : State :=
  { s with
    keys := s.keys.set v { key := some (Config.randomKey s.free), ctr := 1, last := id_, pend := none }
    free := s.free + 1 }

/-- An M-mode store of a request ID to the key unit: no effect with ID 0 and with the ID latched last; deferred during a save or
restore. -/
def State.keyStore (s : State) (v : Fin 64) (id_ : Word) : State :=
  let k := s.keys[v]
  if id_ = 0#64 ∨ id_ = k.last ∨ k.pend = some id_ then s
  else if s.saveRestore v then { s with keys := s.keys.set v { k with pend := some id_ } }
  else s.makeKey v id_

/-- KEY_GENERATION (R410): only a store from M-mode generates. -/
def execKeyGeneration (v : Fin 64) (mmode : Bool) (id_ : Word) (s : State) : Out State :=
  .next (if mmode then s.keyStore v id_ else s)

/-- DEFERRED_KEY_GENERATION (R410): once the save or restore has ended. -/
def execDeferredKeyGeneration (v : Fin 64) (s : State) : Out State :=
  match (s.keys[v]).pend with
  | some i => .next (if s.saveRestore v then s else s.makeKey v i)
  | none => .next s

/-! ## Service calls (R411, R412) -/

/-- The SBI error of a status. -/
def svcError (status : Nat) : Word :=
  match status with
  | 0 => 0 | 1 => -3 | 2 => -4 | 3 => -5 | 4 => -7 | _ => -1

/-- The physical address of an address that a caller gives: the management server's own are physical, a guest's are translated as the
operating system maps that guest's memory (log 46); none where it is unmapped. -/
def State.svcPa (s : State) (caller : Nat) (a : Word) : Option Nat :=
  let pa := if caller = 0x40 then some a.toNat else (Config.guestPage caller s.steps (a.toNat / 4096)).map (fun f => 4096 * f + a.toNat % 4096)
  pa.filter s.paOk

/-- Bytes written by the service from the first byte of a granule on; a poisoned granule that they cover in part is not written (R401). -/
def State.hput (s : State) (pa : Nat) (bs : List Byte) : State :=
  s.hwrite pa (if s.hbmPoison pa bs.length true then bs.take (bs.length / 64 * 64) else bs)

/-- Bytes written at an address of a caller, page by page; a page that is not mapped is left out. -/
def State.svcWrite (s : State) (caller : Nat) (a : Word) (bs : List Byte) : State :=
  (List.range ((bs.length + 4095) / 4096)).foldl (fun z i => match s.svcPa caller (a + BitVec.ofNat 64 (4096 * i)) with
    | some pa => z.hput pa ((bs.drop (4096 * i)).take 4096)
    | none => z) s

/-- a0 and a1 of the hart that made the call, as it returns. -/
def State.svcRegs (s : State) (hart : Option (Fin 384)) (status : Nat) : State :=
  match hart with
  | some k => { s with harts := s.harts.set k (((s.harts[k]).setReg 10 (svcError status)).setReg 11 (BitVec.ofNat 64 status)) }
  | none => s

/-- A call that returns without a usable reply buffer: a0 and a1. -/
def State.svcRefuse (s : State) (caller : Nat) (rid : Word) (hart : Option (Fin 384)) (status : Nat) : State :=
  (s.svcRegs hart status).tell (.reply caller rid (svcError status) (BitVec.ofNat 64 status))

/-- A call returns: the reply buffer, then a0 and a1. -/
def State.svcReply (s : State) (caller : Nat) (rid rep : Word) (hart : Option (Fin 384)) (status : Nat) (seq : Word) : State :=
  (s.svcWrite caller rep (leBytes 8 rid.toNat ++ leBytes 8 status ++ leBytes 8 seq.toNat ++ List.replicate 40 0#8)).svcRefuse
    caller rid hart status

/-- Is an address of a caller a multiple of `n` and mapped? -/
def State.svcAddr (s : State) (caller : Nat) (a : Word) (n : Nat) : Bool := a.toNat % n == 0 && (s.svcPa caller a).isSome

/-- Is a buffer of 20 KiB for a report at an address that the service accepts? -/
def State.svcOut (s : State) (caller : Nat) (a : Word) : Bool :=
  a.toNat % 4096 == 0 && (List.range 5).all (fun i => (s.svcPa caller (a + BitVec.ofNat 64 (4096 * i))).isSome)

/-- The 64 bytes of a request record; none where its granule is poisoned, which the service's load meets as an access fault (R401). -/
def State.svcRecord (s : State) (r : SvcReq) : Option (List Byte) :=
  (s.svcPa r.caller r.reqPa).bind (fun pa => if s.hbmPoison pa 64 false then none else some (s.hread pa 64))

/-- The record that a request asks for; a status where it is refused. -/
def State.svcParse (s : State) (r : SvcReq) (bs : List Byte) : Nat ⊕ SvcRec :=
  let w (i : Nat) : Word := dwOf bs i
  let op := field (w 0) 56 8
  let report := op == 1 || op == 2
  let nonce := digestOf (slice bs 16 32)
  let bad := field (w 0) 0 56 ≠ 0 ∨ op = 0 ∨ 3 < op ∨ w 7 ≠ 0#64 ∨ (report = false ∧ (nonce ≠ 0#256 ∨ w 6 ≠ 0#64))
    ∨ (if op = 3 ∧ r.caller = 0x40 then 64 ≤ (w 1).toNat else w 1 ≠ 0#64)
  if bad then .inl 1
  else if 0x40 < r.caller ∨ (op = 2 ∧ r.caller ≠ 0x40) then .inl 2
  else if report && !s.svcOut r.caller (w 6) then .inl 3
  else .inr {
    caller := r.caller, rid := r.rid, digest := (Config.sha3 bs).truncate 128, done := false, status := 0, seq := 0#64, op := op
    dev := if r.caller = 0x40 then (w 1).toNat else r.caller, nonce := nonce, out := w 6, rep := r.repPa, at_ := 0, lost := false
    hart := r.hart }

/-- Clks for which a completed record is kept: 600 s. -/
def svcKeep : Nat := 600 * clksPerSecond

/-- Is it the record of a caller and an RID? -/
def SvcRec.is (r : SvcRec) (caller : Nat) (rid : Word) : Bool := r.caller == caller && r.rid == rid

/-- The oldest completed record that has been kept long enough. -/
def State.svcOld (s : State) : Option SvcRec :=
  (s.svc.filter (fun r => r.done && decide (r.at_ + svcKeep ≤ s.now))).foldl (fun (b : Option SvcRec) r => match b with
    | some x => if r.at_ < x.at_ then some r else b
    | none => some r) none

/-- The records with one more, in a free place or in that of the oldest; none where there is no room. -/
def State.svcAdd (s : State) (y : SvcRec) : Option (List SvcRec) :=
  if s.svc.length < 65536 then some (s.svc ++ [y])
  else s.svcOld.map (fun x => s.svc.map (fun r => if r.is x.caller x.rid then y else r))

/-- The 64 bytes of a record; their layout is the firmware's (log 46). -/
def SvcRec.bytes (r : SvcRec) : List Byte :=
  fixLen 64 (Config.imagePart (r.caller, r.rid, r.digest, r.done, r.status, r.seq, r.at_))

/-- A record as it now is, written to its place in the reserved range. -/
def State.svcStore (s : State) (caller : Nat) (rid : Word) : State :=
  match s.svcBase, (s.svc.zipIdx.find? (fun x => x.1.is caller rid)) with
  | some b, some (r, i) => s.hput (b + 64 * i) r.bytes
  | _, _ => s

/-- A record of the service changed, as the service has it. -/
def State.noteSvc (s : State) (caller : Nat) (rid : Word) (f : SvcRec → SvcRec) : State :=
  { s with svc := s.svc.map (fun r => if r.caller = caller ∧ r.rid = rid then f r else r) }

/-- A record of the service changed, and written. -/
def State.modSvc (s : State) (caller : Nat) (rid : Word) (f : SvcRec → SvcRec) : State := (s.noteSvc caller rid f).svcStore caller rid

/-- The place for one more report among the 64 that are held: a free one, or that of the oldest. -/
def reportPlace (l : List (Word × List Byte)) : Nat :=
  if l.length < 64 then l.length
  else (l.zipIdx.foldl (fun (b : Nat × Nat) x => if x.1.1.toNat < b.1 then (x.1.1.toNat, x.2) else b) (2 ^ 64, 0)).2

/-- A report held for later calls, behind the records of the reserved range. -/
def State.holdReport (s : State) (seq : Word) (bs : List Byte) : State :=
  let i := reportPlace s.reports
  let s1 : State := { s with reports := s.reports.take i ++ [(seq, bs)] ++ s.reports.drop (i + 1) }
  match s.svcBase with
  | some b => s1.hput (b + 0x400000 + 20480 * i) bs
  | none => s1

/-- The next thing that the service does for a record of OP 3: it stores the request ID to the key unit; then it writes done, and the
call returns. -/
def State.svcKey (s : State) (r : SvcRec) : State :=
  if !r.keyed then (s.keyStore (Fin.ofNat 64 r.dev) r.rid).noteSvc r.caller r.rid (fun x => { x with keyed := true })
  else
    let s1 := s.modSvc r.caller r.rid (fun x => { x with done := true, at_ := s.now })
    if r.lost then s1 else s1.svcReply r.caller r.rid r.rep r.hart 0 0#64

/-- The service goes on with a record of OP 3 that is in progress, or not yet, by a free choice (R412). -/
def State.svcGo (s : State) : State :=
  match s.svc.find? (fun r => !r.done && r.op == 3) with
  | some r =>
    let (go, s1) := s.choose
    if go then s1.svcKey r else s1
  | none => s

/-- OP of a record performed: a report once the block is free; a key by `svcGo`. -/
def State.svcPerform (s : State) (r : SvcRec) : State :=
  if r.op = 3 then s
  else if s.meters.busy.isSome then s
  else
    ({ s with meters := { s.meters with nonce := r.nonce } }).startReport (if r.op = 1 then 1 else 2) (some (r.caller, r.rid))

/-- A call whose record exists. -/
def State.svcAgain (s : State) (r : SvcReq) (x y : SvcRec) : State :=
  let done (s : State) (status : Nat) (seq : Word) : State := s.svcReply r.caller r.rid r.repPa r.hart status seq
  if x.digest ≠ y.digest then done s 1 0#64
  else if !x.done then done s 4 0#64
  else if x.op = 3 then done s x.status x.seq
  else match s.reports.find? (fun z => z.1 == x.seq) with
    | some z => done (s.svcWrite r.caller y.out z.2) x.status x.seq
    | none => done s 5 0#64

/-- Extension ID of the service's ecall. -/
def svcEid : Word := 0x09004E56#64

/-- The call that a guest's hart makes: RID and the two addresses lie in its registers a0 to a2; none where a7 and a6 do not name the
service, or where the hart has not trapped to the firmware. -/
def State.svcCall (s : State) (r : SvcReq) : Option SvcReq :=
  match r.hart with
  | none => some r
  | some k =>
    let h := s.harts[k]
    if h.mode = .m ∧ h.reg 17 = svcEid ∧ h.reg 16 = 0#64 then some { r with rid := h.reg 10, reqPa := h.reg 11, repPa := h.reg 12 } else none

/-- A call with its three values (R411, R412). -/
def State.svcServe (s : State) (r : SvcReq) : State :=
  let done (s : State) (status : Nat) : State := s.svcReply r.caller r.rid r.repPa r.hart status 0#64
  if !s.svcAddr r.caller r.repPa 64 then s.svcRefuse r.caller r.rid r.hart 3
  else if r.rid = 0#64 then done s 1
  else if !s.svcAddr r.caller r.reqPa 64 then done s 3
  else match s.svcRecord r with
    | none => done s 3
    | some bs => match s.svcParse r bs with
      | .inl e => done s e
      | .inr y => match s.svc.find? (fun x => x.is r.caller r.rid) with
        | some x => s.svcAgain r x y
        | none => match s.svcAdd y with
          | none => done s 5
          | some l => (({ s with svc := l }).svcStore y.caller y.rid).svcPerform y

/-- SERVICE_CALL (R411, R412). -/
def execServiceCall (r : SvcReq) (s : State) : Out State :=
  if s.boot.phase ≠ 7 then .next s
  else match s.svcCall r with
    | none => .next s
    | some q => .next (s.svcServe q)

/-- The next record that waits for a report. -/
def State.svcNext (s : State) : State :=
  match s.svc.find? (fun r => !r.done && r.op != 3) with
  | some r => s.svcPerform r
  | none => s

/-- SERVICE_RESTART (R412): every record in progress is finished by running its OP again, OP 3 from the store of its request ID (`svcGo`);
a report under way is no more of use to the service. -/
def execServiceRestart (s : State) : Out State :=
  let s1 : State := { s with
    svc := s.svc.map (fun r => if r.done then r else { r with lost := true, keyed := false })
    meters := { s.meters with busy := s.meters.busy.map (fun b => { b with rec_ := none }) } }
  .next (if s1.meters.busy.isSome then s1 else s1.svcNext)

/-- The service's part at the end of a report: the record done, the report held, and where the call still waits, copied. -/
def State.svcReported (s : State) (rc : Option (Nat × Word)) (seq : Word) (bs : List Byte) : State :=
  match rc.bind (fun k => s.svc.find? (fun r => r.caller == k.1 && r.rid == k.2)) with
  | none => s
  | some r =>
    let s1 := (s.holdReport seq bs).modSvc r.caller r.rid (fun x => { x with done := true, seq := seq, at_ := s.now })
    if r.lost then s1 else (s1.svcWrite r.caller r.out bs).svcReply r.caller r.rid r.rep r.hart 0 seq

/-- REPORT_COMPLETE (R409): the record is written and signed, SEQ advances, GO clears; a waiting call's report begins. -/
def execReportComplete (s : State) : Out State :=
  match s.meters.busy with
  | none => .next s
  | some r =>
    let bs := s.signedReport r
    let s1 : State := { s with meters := { s.meters with report := bs, seq := s.meters.seq + 1#64, busy := none } }
    .next (s1.svcReported r.rec_ s.meters.seq bs).svcNext

end Machine
end Sys2Proof
end

