-- ==== Sys2Proof/Machine/Module.lean ====
section
/-! DEFINITION. The module around the wafer: power and heat (20 R420 to R424), the reference clock (R419), corrected errors and link
failures (18 R400, R405), and the records of the firmware (R406). -/

namespace Sys2Proof
namespace Machine

/-! ## The power controller (R421) -/

/-- Ceiling of a quotient. -/
def ceilDiv (a b : Nat) : Nat := (a + b - 1) / b

/-- The hold level of the next period. -/
def nextHold (pcap h p : Nat) : Nat := if pcap < p then min 63 (h + ceilDiv (64 * (p - pcap)) p) else h - 1

/-! ## Heat and voltage (R422, R424) -/

/-- STACK_THERMAL_HOLD (R422): above 95 °C. -/
def execStackThermalHold (k : Fin 24) (celsius : Nat) (s : State) : Out State :=
  if 95 < celsius ∧ s.power.hotStacks.contains k.val = false then .next { s with power := { s.power with hotStacks := k.val :: s.power.hotStacks } }
  else .next s

/-- STACK_THERMAL_RELEASE (R422): below 90 °C. -/
def execStackThermalRelease (k : Fin 24) (celsius : Nat) (s : State) : Out State :=
  if celsius < 90 then .next { s with power := { s.power with hotStacks := s.power.hotStacks.filter (fun i => i != k.val) } }
  else .next s

/-- Every partition stopped, for a cause of this KIND (R402, R422, R424). -/
def State.stopAll (s : State) (kind : Word) : State :=
  (List.finRange 24).foldl (fun s p =>
    let q := s.parts[p]
    if q.owns then (s.machineCheck p 0x40 (BitVec.ofNat 64 (q.cur.getD 0)) kind).failLaunch p 4 else s) s

/-- The module is too hot: every partition is stopped, and it holds in reset (R422). -/
def State.thermalStop (s : State) (tmax : Byte) : State :=
  let s1 := s.stopAll 0x12#64
  let s2 := (List.finRange 48).foldl (fun s i =>
    (s.record i (s.bbRec none 0x12 0xFF 0xFF 0xFFFF#64 0#64)).tell (.check i none 0x12)) s1
  { s2 with power := { s2.power with hold := true, tmax := tmax } }

/-- THERMAL_TRIP (R422). -/
def execThermalTrip (tmax : Byte) (outlet : Nat) (s : State) : Out State :=
  if tmax.toNat < 110 ∧ outlet < 60 then .next s else .next (s.thermalStop tmax)

/-- POWER_CONTROL_PERIOD (R421), once in 14,000 clks; a TMAX of 110 or more stops the module (R422). -/
def execPowerControlPeriod (watts : Half) (tmax : Byte) (s : State) : Out State :=
  let w := s.power
  if s.now < w.periodAt + period14k then .next s
  else
    let h := nextHold w.pcap w.h watts.toNat
    let s1 := { s with power := { w with
      pwr := watts, tmax := tmax, h := h, held := period14k * h / 64, periodAt := w.periodAt + period14k } }
    .next (if 110 ≤ tmax.toNat then s1.thermalStop tmax else s1)

/-- A reset hold has ended: a cold boot follows when no other cause holds; the period of the power controller starts anew. -/
def State.unhold (s : State) : State :=
  if s.power.hold || s.power.holdV then s
  else { s with
    boot := { s.boot with phase := 0, stopped := false }, power := { s.power with periodAt := s.now }
    agenda := ⟨0, .event .coldBoot⟩ :: s.agenda }

/-- THERMAL_RESET_RELEASE (R422): below 80 °C. -/
def execThermalResetRelease (tmax : Byte) (s : State) : Out State :=
  if s.power.hold = true ∧ tmax.toNat < 80 then .next ({ s with power := { s.power with hold := false, tmax := tmax } }).unhold
  else .next s

/-- UNDERVOLTAGE (R424): below 44 V for more than 1 ms. No KIND is given for the cause: a free value (log 27). -/
def execUndervoltage (millivolts : Nat) (micros : Nat) (s : State) : Out State :=
  if 44000 ≤ millivolts ∨ micros ≤ 1000 then .next s
  else
    let s1 := ({ s with free := s.free + 1 }).stopAll (Config.syndrome s.free)
    .next { s1 with power := { s1.power with holdV := true } }

/-- UNDERVOLTAGE_RECOVERY (R424): above 46 V for 1 s. -/
def execUndervoltageRecovery (millivolts : Nat) (micros : Nat) (s : State) : Out State :=
  if s.power.holdV = true ∧ 46000 < millivolts ∧ 1000000 ≤ micros then .next ({ s with power := { s.power with holdV := false } }).unhold
  else .next s

/-- OVERVOLTAGE (R424): above 52 V the wafer's power is removed, and a cold boot follows. -/
def execOvervoltage (millivolts : Nat) (s : State) : Out State :=
  if millivolts ≤ 52000 then .next s
  else .next { s.bare with
    boxes := Vector.replicate 48 {}, power := { on := false, refclk := s.power.refclk }
    agenda := ⟨0, .event .coldBoot⟩ :: s.agenda }

/-- REFERENCE_INPUT_CHANGE (R419): no clock changes its frequency. -/
def execReferenceInputChange (present : Bool) (s : State) : Out State := .next { s with power := { s.power with refclk := present } }

/-! ## Corrected errors and links (R400, R403, R405) -/

/-- A count of corrected errors has risen to `n`: a record where it has passed a multiple of 2^16. -/
def State.countPassed (s : State) (i : Fin 48) (which : Nat) (n : Word) : State :=
  if n.toNat % 2 ^ 16 = 0 then s.record i (s.bbRec none 0x01 0xFF 0xFF (BitVec.ofNat 64 which) n) else s

/-- PATROL_SCRUB (R400): a corrected error is counted, at the stack's island or at that of the SRAM's region, and no bytes change; a
granule of the stack that cannot be corrected is poisoned, and the error recorded. -/
def execPatrolScrub (stack : Fin 24) (granule : Nat) (found : ScrubFind) (s : State) : Out State :=
  let i : Fin 48 := Fin.ofNat 48 stack.val
  match found with
  | .clean => .next s
  | .corrected =>
    let n := (s.boxes[i]).cehbm + 1#64
    .next (({ s with boxes := s.boxes.set i { s.boxes[i] with cehbm := n } }).countPassed i 2 n)
  | .sram j =>
    let n := (s.boxes[j]).cesram + 1#64
    .next (({ s with boxes := s.boxes.set j { s.boxes[j] with cesram := n } }).countPassed j 1 n)
  | .poisoned =>
    if paStack (64 * granule) ≠ stack.val ∨ s.paOk (64 * granule) = false ∨ s.hbmBad.contains granule = true then .next s
    else
      let s1 : State := { s with hbmBad := granule :: s.hbmBad, free := s.free + 1 }
      .next (s1.record i (s1.bbRec none 0x11 0xFF 0xFF (BitVec.ofNat 64 (64 * granule)) (Config.syndrome s.free)))

/-- Partitions whose traffic crosses a link: those whose tiles the router serves; of any other assigned partition it is a free
choice (log 28). -/
def State.crosses (s : State) (router : TileId) (p : Fin 24) : Bool :=
  (s.parts[p]).owns && ((s.parts[p]).covers router || Config.lands (s.free + p.val))

/-- LINK_BEAT_RESEND (R400): the resend is counted; after three failed resends of the beat the link has failed. -/
def execLinkBeatResend (island : Fin 48) (router : TileId) (port : Fin 8) (plane : Bool) (fails : Nat) (s : State) : Out State :=
  let n := (s.boxes[island]).celink + 1#64
  let s1 := ({ s with boxes := s.boxes.set island { s.boxes[island] with celink := n } }).countPassed island 3 n
  if fails < 3 then .next s1
  else
    let d0 := BitVec.ofNat 64 (port.val * 2 ^ 16 + rowOf router % 256 * 256 + colOf router)
    let d1 := BitVec.ofNat 64 (b2n plane)
    let s2 := (s1.record island (s1.bbRec none 0x13 (rowOf router % 256) (colOf router) d0 d1)).tell (.check island none 0x13)
    let hit := (List.finRange 24).filter (s2.crosses router)
    let s3 := hit.foldl (fun s p =>
      (s.machineCheck p 0x40 (BitVec.ofNat 64 ((s.parts[p]).cur.getD 0)) 0x13#64).failLaunch p 4) { s2 with free := s2.free + 24 }
    .next s3

/-! ## Firmware records (R406) -/

/-- The four doublewords of a firmware record committed; a KIND outside 0x50 to 0x7F discards it. -/
def State.fwCommit (s : State) (i : Fin 48) (d1 d2 d3 : Word) : State :=
  let kind := field d1 56 8
  if 0x50 ≤ kind ∧ kind ≤ 0x7F then
    let b := s.boxes[i]
    let r : BBRec := { time := s.now, kind := kind, part := field d1 40 8, vdev := field d1 32 8, row := field d1 16 8, col := field d1 8 8
                       d0 := d2, d1 := d3 }
    let n := if b.fwAt.1 = s.now then b.fwAt.2 else 0
    { s with boxes := s.boxes.set i { b.insert r 0 with fwAt := (s.now, n + 1) } }
  else s

/-- FIRMWARE_RECORD (R406): a store from a mode other than M-mode discards the record. -/
def execFirmwareRecord (island : Fin 48) (mmode : Bool) (_d0 d1 d2 d3 : Word) (s : State) : Out State :=
  .next (if mmode then s.fwCommit island d1 d2 d3 else s)

end Machine
end Sys2Proof
end

