-- ==== Sys2Proof/Machine/Registers.lean ====
section
/-! DEFINITION. Stores of a hart to the device's registers (13 R313): the configuration space, and the meter block, the key unit, the
power controller and the firmware-record words beside it. A store is made in M-mode or by the management port where a field asks for
that (log 29). -/

namespace Sys2Proof
namespace Machine

/-! ## Partition entries (R315) -/

/-- FPLOG as a write stores it. -/
def storeFplog (v : Nat) : Nat := if 10 ≤ v ∧ v ≤ 20 then v else 10

/-- Doubleword `h` of partition entry `p`. -/
def State.storePart (s : State) (p : Fin 24) (h : Nat) (v : Word) : State :=
  match h with
  | 0 =>
    let s1 := s.modPart p (fun q =>
      let q1 := { q with slice := v.truncate 32 }
      if q.owns then q1
      else { q1 with tree := Fin.ofNat 4 (field v 38 2), lvl := Fin.ofNat 4 (field v 36 2), idx := Fin.ofNat 16 (field v 32 4) })
    if v.getLsbD 63 then s1.enable p else s1.disable p
  | 1 => s.modPart p (fun q => { q with stk := v.truncate 24 })
  | 2 => s.modPart p (fun q => { q with mbw := v.truncate 10 })
  | 3 => s.modPart p (fun q => { q with fpbase := v })
  | 4 => (match execFptailWrite p ((v >>> 32).truncate 32) s with
    | .next s1 => s1
    | _ => s)
  | 5 => s.modPart p (fun q => { q with fplog := storeFplog (field v 32 5), fplow := field v 0 20 })
  | 6 => s.modPart p (fun q => { q with tqbase := v })
  | _ => s.modPart p (fun q => { q with timp := (v >>> 12).truncate 30, teiid := v.truncate 11 })

/-! ## Virtual devices (R306, R323, R324) -/

/-- STATE as a write stores it. -/
def storeVState (n : Nat) : VState := match n with | 1 => .descheduled | 2 => .paused | _ => .running

/-- Doubleword `h` of virtual-device entry `v`. -/
def State.storeVdev (s : State) (v : Fin 64) (h : Nat) (w : Word) : State :=
  match h with
  | 0 => s.modVdev v (fun d => { d with sv57 := field w 60 4 == 10, asid := (w >>> 44).truncate 16, ppn := w.truncate 44 })
  | 1 => s.modVdev v (fun d => { d with rpa := w })
  | 2 => s.modVdev v (fun d => { d with cipa := w })
  | 3 => s.modVdev v (fun d => { d with imp := (w >>> 12).truncate 30 })
  | 4 =>
    let s1 := s.modVdev v (fun d => { d with
      gen := (w >>> 48).truncate 16, rlog := field w 32 5, part := Fin.ofNat 32 (field w 16 5), eiid := w.truncate 11 })
    let s2 := s1.setVState v (storeVState (field w 14 2))
    if w.getLsbD 12 then s2.resetVdev v else s2
  | _ => s

/-- Doubleword `h` of the launch entry of a virtual device. -/
def State.storeShare (s : State) (v : Fin 64) (h : Nat) (w : Word) : State :=
  if h = 0 then s.modVdev v (fun d => { d with
    en := w.getLsbD 19, dla := w.getLsbD 18, pcmax := Fin.ofNat 4 (field w 16 2), wgt := field w 0 16 })
  else s.modVdev v (fun d => { d with deficit := (w.truncate 48).toInt })

/-- Doubleword `j` of slot `k` of a signer key set. -/
def State.storeSigner (s : State) (v : Fin 64) (k : Fin 4) (j : Nat) (w : Word) : State :=
  s.modVdev v (fun d =>
    let old := d.keys[k]
    let m : BitVec 256 := (0xFFFFFFFFFFFFFFFF#64).zeroExtend 256 <<< (64 * j)
    { d with keys := d.keys.set k ((old &&& ~~~m) ||| (w.zeroExtend 256 <<< (64 * j))) })

/-! ## RMA regions and mailboxes (R325, R333) -/

/-- Doubleword `h` of RMA region entry `r`. -/
def State.storeRma (s : State) (r h : Nat) (w : Word) : State :=
  let e := tget {} s.rma r
  let e1 : Rma := match h with
    | 0 => { e with key := (w >>> 32).truncate 32, en := w.getLsbD 31, rd := w.getLsbD 30, wr := w.getLsbD 29
                    vdev := Fin.ofNat 64 (field w 0 6) }
    | 1 => { e with base := w }
    | 2 => { e with len := w }
    | _ => { e with rcb := w }
  { s with rma := tset s.rma r e1 }

/-- Doubleword `h` of mailbox `e`; discarded while GO reads 1. -/
def State.storeBox (s : State) (e : Fin 56) (h : Nat) (w : Word) : State :=
  if ((s.etus[e]).box).go then s
  else match h with
    | 0 => s.modBox e (fun b => { b with va := w })
    | 1 => s.modBox e (fun b => { b with go := w.getLsbD 63, allAsid := w.getLsbD 18, allVa := w.getLsbD 17, asid := w.truncate 16 })
    | 2 => s.modBox e (fun b => { b with size := w })
    | _ => s

/-! ## The blocks beside the configuration space (18 R406, R408, R410, 20 R420) -/

/-- A doubleword of the meter block; `m` says that the store is made in M-mode or by the management port. -/
def State.storeMeter (s : State) (o : Nat) (w : Word) (m : Bool) : State :=
  if o < 32 then
    if s.meters.busy.isSome || !m then s
    else
      let j := o / 8
      let m : BitVec 256 := (0xFFFFFFFFFFFFFFFF#64).zeroExtend 256 <<< (64 * j)
      { s with meters := { s.meters with nonce := (s.meters.nonce &&& ~~~m) ||| (w.zeroExtend 256 <<< (64 * j)) } }
  else if o = 32 then
    let k : Fin 4 := Fin.ofNat 4 (field w 0 2)
    if w.getLsbD 63 then s.reportGo k else { s with meters := { s.meters with kind := k } }
  else if 64 ≤ o ∧ o < 128 ∧ m = true then
    (List.range 8).foldl (fun s i =>
      { s with meters := { s.meters with ten := s.meters.ten.set (Fin.ofNat 64 (o - 64 + i)) (BitVec.ofNat 6 (field w (8 * i) 6)) } }) s
  else s

/-- PCAP as a write stores it. -/
def storePcap (n : Nat) : Nat := if 30000 < n then 30000 else if n < 5000 then 5000 else n

/-- A doubleword of a firmware record; the last one commits it, or, from a mode other than M-mode, discards it (R406). -/
def State.storeFw (s : State) (i : Fin 48) (j : Nat) (w : Word) (m : Bool) : State :=
  let b := s.boxes[i]
  if !m then (if j < 3 then s else { s with boxes := s.boxes.set i { b with fw := Vector.replicate 3 0#64 } })
  else if h : j < 3 then { s with boxes := s.boxes.set i { b with fw := b.fw.set j w } }
  else s.fwCommit i b.fw[1] b.fw[2] w

/-! ## CONFIG_WRITE (R313) -/

/-- A store to the configuration space at offset `o`; a reserved range discards it. -/
def State.storeConfig (s : State) (o : Nat) (w : Word) : State :=
  if o < 0x600 then s.storePart (Fin.ofNat 24 (o / 64)) (o / 8 % 8) w
  else if o = 0x600 then
    let id_ : BitVec 32 := w.truncate 32
    match field w 62 2 with
    | 1 => (match execTranslationResponse id_ true s with | .next s1 => s1 | _ => s)
    | 2 => (match execTranslationResponse id_ false s with | .next s1 => s1 | _ => s)
    | _ => s
  else if 0x800 ≤ o ∧ o < 0xF00 then s.storeBox (Fin.ofNat 56 ((o - 0x800) / 32)) (o / 8 % 4) w
  else if 0x1000 ≤ o ∧ o < 0x1400 then s.storeShare (Fin.ofNat 64 ((o - 0x1000) / 16)) (o / 8 % 2) w
  else if 0x2000 ≤ o ∧ o < 0x3000 then s.storeVdev (Fin.ofNat 64 ((o - 0x2000) / 64)) (o / 8 % 8) w
  else if 0x4000 ≤ o ∧ o < 0x6000 then
    s.storeSigner (Fin.ofNat 64 ((o - 0x4000) / 128)) (Fin.ofNat 4 ((o - 0x4000) / 32)) (o / 8 % 4) w
  else if 0x8000 ≤ o ∧ o < 0x10000 then s.storeRma ((o - 0x8000) / 32) (o / 8 % 4) w
  else s

/-- A naturally aligned doubleword stored at offset `o` from the configuration space's first address, in M-mode or in another. -/
def State.storeAt (s : State) (o : Nat) (w : Word) (m : Bool) : State :=
  if o < 0x10000 then s.storeConfig o w
  else if 0x20000 ≤ o ∧ o < 0x20600 then s.storeFw (Fin.ofNat 48 ((o - 0x20000) / 32)) (o / 8 % 4) w m
  else if 0x30000 ≤ o ∧ o < 0x3E520 then s.storeMeter (o - 0x30000) w m
  else if 0x40200 ≤ o ∧ o < 0x40400 ∧ m = true then s.keyStore (Fin.ofNat 64 ((o - 0x40200) / 8)) w
  else if o = 0x50000 ∧ m = true then { s with power := { s.power with pcap := storePcap (field w 16 16) } }
  else s

/-- CONFIG_WRITE (R313): a naturally aligned 8-byte store; any other is not made. -/
def execConfigWrite (addr : Word) (val : Word) (s : State) : Out State :=
  if addr.toNat % 8 = 0 ∧ configBase ≤ addr.toNat then .next (s.storeAt (addr.toNat - configBase) val true) else .next s

end Machine
end Sys2Proof
end

