-- ==== Sys2Proof/Machine/Dispatch.lean ====
section
/-! DEFINITION. `exec`: one arm per constructor of `Instr`, each a direct call of its meaning. -/

namespace Sys2Proof
namespace Machine

/-- The meaning of one instruction or step. -/
def exec (i : Instr) (s : State) : Host.Outcome State Fault Refusal :=
  match i with
  | .nop => Sys2Proof.Machine.execNop s
  | .pfx p => Sys2Proof.Machine.execPfx p s
  | .trap e => Sys2Proof.Machine.execTrap e s
  | .tret => Sys2Proof.Machine.execTret s
  | .rdw d idx => Sys2Proof.Machine.execRdw d idx s
  | .wrw idx a => Sys2Proof.Machine.execWrw idx a s
  | .rdcyc d c => Sys2Proof.Machine.execRdcyc d c s
  | .brk e => Sys2Proof.Machine.execBrk e s
  | .qget d q try_ => Sys2Proof.Machine.execQget d q try_ s
  | .qput q a => Sys2Proof.Machine.execQput q a s
  | .add o => Sys2Proof.Machine.execAdd o s
  | .sub o => Sys2Proof.Machine.execSub o s
  | .mul o => Sys2Proof.Machine.execMul o s
  | .mulh o => Sys2Proof.Machine.execMulh o s
  | .div o => Sys2Proof.Machine.execDiv o s
  | .rem o => Sys2Proof.Machine.execRem o s
  | .and o => Sys2Proof.Machine.execAnd o s
  | .or o => Sys2Proof.Machine.execOr o s
  | .xor o => Sys2Proof.Machine.execXor o s
  | .andn o => Sys2Proof.Machine.execAndn o s
  | .shl o => Sys2Proof.Machine.execShl o s
  | .shr o => Sys2Proof.Machine.execShr o s
  | .sra o => Sys2Proof.Machine.execSra o s
  | .rot o => Sys2Proof.Machine.execRot o s
  | .min o => Sys2Proof.Machine.execMin o s
  | .max o => Sys2Proof.Machine.execMax o s
  | .slt o => Sys2Proof.Machine.execSlt o s
  | .seq o => Sys2Proof.Machine.execSeq o s
  | .sel o c => Sys2Proof.Machine.execSel o c s
  | .clz o => Sys2Proof.Machine.execClz o s
  | .ctz o => Sys2Proof.Machine.execCtz o s
  | .popc o => Sys2Proof.Machine.execPopc o s
  | .bfx d a b s1 => Sys2Proof.Machine.execBfx d a b s1 s
  | .bfi d a b c => Sys2Proof.Machine.execBfi d a b c s
  | .li d v s1 hi => Sys2Proof.Machine.execLi d v s1 hi s
  | .addx d a b y ci => Sys2Proof.Machine.execAddx d a b y ci s
  | .subx d a b y ci => Sys2Proof.Machine.execSubx d a b y ci s
  | .widx d j => Sys2Proof.Machine.execWidx d j s
  | .gta d a b spc pr => Sys2Proof.Machine.execGta d a b spc pr s
  | .fadd o => Sys2Proof.Machine.execFadd o s
  | .fsub o => Sys2Proof.Machine.execFsub o s
  | .fmul o => Sys2Proof.Machine.execFmul o s
  | .fma o c => Sys2Proof.Machine.execFma o c s
  | .fdiv o => Sys2Proof.Machine.execFdiv o s
  | .fsqrt d a dbl => Sys2Proof.Machine.execFsqrt d a dbl s
  | .fmin o => Sys2Proof.Machine.execFmin o s
  | .fmax o => Sys2Proof.Machine.execFmax o s
  | .fcmp r o => Sys2Proof.Machine.execFcmp r o s
  | .fcvt fn d a dbl => Sys2Proof.Machine.execFcvt fn d a dbl s
  | .fclass d a dbl => Sys2Proof.Machine.execFclass d a dbl s
  | .fsgn fn o => Sys2Proof.Machine.execFsgn fn o s
  | .br c a b t => Sys2Proof.Machine.execBr c a b t s
  | .jmp t => Sys2Proof.Machine.execJmp t s
  | .call t => Sys2Proof.Machine.execCall t s
  | .ret => Sys2Proof.Machine.execRet s
  | .jr a => Sys2Proof.Machine.execJr a s
  | .loop d t => Sys2Proof.Machine.execLoop d t s
  | .ld m sx => Sys2Proof.Machine.execLd m sx s
  | .st m => Sys2Proof.Machine.execSt m s
  | .ldp m => Sys2Proof.Machine.execLdp m s
  | .stp m => Sys2Proof.Machine.execStp m s
  | .amo fn m => Sys2Proof.Machine.execAmo fn m s
  | .cas m => Sys2Proof.Machine.execCas m s
  | .ldg m => Sys2Proof.Machine.execLdg m s
  | .stg m => Sys2Proof.Machine.execStg m s
  | .ldv m => Sys2Proof.Machine.execLdv m s
  | .stv m => Sys2Proof.Machine.execStv m s
  | .amog m => Sys2Proof.Machine.execAmog m s
  | .amov m => Sys2Proof.Machine.execAmov m s
  | .casg m => Sys2Proof.Machine.execCasg m s
  | .casv m => Sys2Proof.Machine.execCasv m s
  | .ldx m => Sys2Proof.Machine.execLdx m s
  | .stx m => Sys2Proof.Machine.execStx m s
  | .fence m wc => Sys2Proof.Machine.execFence m wc s
  | .waitc m wc => Sys2Proof.Machine.execWaitc m wc s
  | .acq m => Sys2Proof.Machine.execAcq m s
  | .rel m => Sys2Proof.Machine.execRel m s
  | .bind m => Sys2Proof.Machine.execBind m s
  | .bdef a b spc n => Sys2Proof.Machine.execBdef a b spc n s
  | .bsetReady b => Sys2Proof.Machine.execBsetReady b s
  | .bsetFill b c => Sys2Proof.Machine.execBsetFill b c s
  | .bwait b emp => Sys2Proof.Machine.execBwait b emp s
  | .brel b => Sys2Proof.Machine.execBrel b s
  | .wait m => Sys2Proof.Machine.execWait m s
  | .yield d => Sys2Proof.Machine.execYield d s
  | .yieldQ d => Sys2Proof.Machine.execYieldQ d s
  | .phintSet a b spc n => Sys2Proof.Machine.execPhintSet a b spc n s
  | .phintClr => Sys2Proof.Machine.execPhintClr s
  | .phintAll => Sys2Proof.Machine.execPhintAll s
  | .send m => Sys2Proof.Machine.execSend m s
  | .spawn m => Sys2Proof.Machine.execSpawn m s
  | .migr d a => Sys2Proof.Machine.execMigr d a s
  | .endt => Sys2Proof.Machine.execEndt s
  | .arm a slot target => Sys2Proof.Machine.execArm a slot target s
  | .trig a slot => Sys2Proof.Machine.execTrig a slot s
  | .steal d a pr => Sys2Proof.Machine.execSteal d a pr s
  | .launch d a => Sys2Proof.Machine.execLaunch d a s
  | .lnch s1 d => Sys2Proof.Machine.execLnch s1 d s
  | .unassignedOpcode w => Sys2Proof.Machine.execUnassignedOpcode w s
  | .partitionStop p c => Sys2Proof.Machine.execPartitionStop p c s
  | .taga d => Sys2Proof.Machine.execTaga d s
  | .tagr d a => Sys2Proof.Machine.execTagr d a s
  | .tags a => Sys2Proof.Machine.execTags a s
  | .tagq d a => Sys2Proof.Machine.execTagq d a s
  | .vpub d a w => Sys2Proof.Machine.execVpub d a w s
  | .vsw a w => Sys2Proof.Machine.execVsw a w s
  | .vswLat w => Sys2Proof.Machine.execVswLat w s
  | .vget d w => Sys2Proof.Machine.execVget d w s
  | .vgetHome d w => Sys2Proof.Machine.execVgetHome d w s
  | .vpin a => Sys2Proof.Machine.execVpin a s
  | .vpinOff => Sys2Proof.Machine.execVpinOff s
  | .vadd v => Sys2Proof.Machine.execVadd v s
  | .vsub v => Sys2Proof.Machine.execVsub v s
  | .vmul v => Sys2Proof.Machine.execVmul v s
  | .vfma v => Sys2Proof.Machine.execVfma v s
  | .vmin v => Sys2Proof.Machine.execVmin v s
  | .vmax v => Sys2Proof.Machine.execVmax v s
  | .vabs v => Sys2Proof.Machine.execVabs v s
  | .vneg v => Sys2Proof.Machine.execVneg v s
  | .vcvt v => Sys2Proof.Machine.execVcvt v s
  | .vcmp r v => Sys2Proof.Machine.execVcmp r v s
  | .vsel v => Sys2Proof.Machine.execVsel v s
  | .vand v => Sys2Proof.Machine.execVand v s
  | .vor v => Sys2Proof.Machine.execVor v s
  | .vxor v => Sys2Proof.Machine.execVxor v s
  | .vshl d a b tk => Sys2Proof.Machine.execVshl d a b tk s
  | .vshr d a b ar tk => Sys2Proof.Machine.execVshr d a b ar tk s
  | .vmov v => Sys2Proof.Machine.execVmov v s
  | .vbcast v q => Sys2Proof.Machine.execVbcast v q s
  | .viota d start wrap tk => Sys2Proof.Machine.execViota d start wrap tk s
  | .vgath v => Sys2Proof.Machine.execVgath v s
  | .vscat v => Sys2Proof.Machine.execVscat v s
  | .vpack v => Sys2Proof.Machine.execVpack v s
  | .vexp v => Sys2Proof.Machine.execVexp v s
  | .vlog v => Sys2Proof.Machine.execVlog v s
  | .vrcp v => Sys2Proof.Machine.execVrcp v s
  | .vrsqrt v => Sys2Proof.Machine.execVrsqrt v s
  | .vtanh v => Sys2Proof.Machine.execVtanh v s
  | .vsigm v => Sys2Proof.Machine.execVsigm v s
  | .vred fn v all => Sys2Proof.Machine.execVred fn v all s
  | .vscan fn v hf excl => Sys2Proof.Machine.execVscan fn v hf excl s
  | .vsamp d a c t tk => Sys2Proof.Machine.execVsamp d a c t tk s
  | .vdraw d raw tk => Sys2Proof.Machine.execVdraw d raw tk s
  | .vtopk d a c k tk => Sys2Proof.Machine.execVtopk d a c k tk s
  | .mcfg rs iacc tk => Sys2Proof.Machine.execMcfg rs iacc tk s
  | .mload a west tk => Sys2Proof.Machine.execMload a west tk s
  | .mzero tk => Sys2Proof.Machine.execMzero tk s
  | .mmul d a acc tk => Sys2Proof.Machine.execMmul d a acc tk s
  | .mmulRs a b tk => Sys2Proof.Machine.execMmulRs a b tk s
  | .mdrain d keep tk => Sys2Proof.Machine.execMdrain d keep tk s
  | .mdrainRem m => Sys2Proof.Machine.execMdrainRem m s
  | .mdrainTree slot keep tk => Sys2Proof.Machine.execMdrainTree slot keep tk s
  | .cpy m => Sys2Proof.Machine.execCpy m s
  | .cpyf m q => Sys2Proof.Machine.execCpyf m q s
  | .cpyg m => Sys2Proof.Machine.execCpyg m s
  | .egemv d a b tk => Sys2Proof.Machine.execEgemv d a b tk s
  | .epref a len tk => Sys2Proof.Machine.execEpref a len tk s
  | .nsend a col tk => Sys2Proof.Machine.execNsend a col tk s
  | .nput a col tk => Sys2Proof.Machine.execNput a col tk s
  | .nget a col tk => Sys2Proof.Machine.execNget a col tk s
  | .nctrRd d ctr => Sys2Proof.Machine.execNctrRd d ctr s
  | .nctrWt d a ctr => Sys2Proof.Machine.execNctrWt d a ctr s
  | .nrecv a tk => Sys2Proof.Machine.execNrecv a tk s
  | .rtre fn a slot tk => Sys2Proof.Machine.execRtre fn a slot tk s
  | .rwait d a slot => Sys2Proof.Machine.execRwait d a slot s
  | .codeLineRepair t => Sys2Proof.Machine.execCodeLineRepair t s
  | .islandStrandAction t k x => Sys2Proof.Machine.execIslandStrandAction t k x s
  | .waitExpired t k => Sys2Proof.Machine.execWaitExpired t k s
  | .postedRefusalTrap t k => Sys2Proof.Machine.execPostedRefusalTrap t k s
  | .taskStart t => Sys2Proof.Machine.execTaskStart t s
  | .triggerArrival m => Sys2Proof.Machine.execTriggerArrival m s
  | .spawnArrival m => Sys2Proof.Machine.execSpawnArrival m s
  | .migrArrival m => Sys2Proof.Machine.execMigrArrival m s
  | .bounceArrival m => Sys2Proof.Machine.execBounceArrival m s
  | .stealRequest m => Sys2Proof.Machine.execStealRequest m s
  | .stolenReply m => Sys2Proof.Machine.execStolenReply m s
  | .taskMessageAck m => Sys2Proof.Machine.execTaskMessageAck m s
  | .taskMessageNack m => Sys2Proof.Machine.execTaskMessageNack m s
  | .taskMessageRetry m => Sys2Proof.Machine.execTaskMessageRetry m s
  | .stageQueueAccept m => Sys2Proof.Machine.execStageQueueAccept m s
  | .stageDispatch p q => Sys2Proof.Machine.execStageDispatch p q s
  | .elasticReassignment p => Sys2Proof.Machine.execElasticReassignment p s
  | .automaticSteal t => Sys2Proof.Machine.execAutomaticSteal t s
  | .remoteRequest m => Sys2Proof.Machine.execRemoteRequest m s
  | .remoteReply m => Sys2Proof.Machine.execRemoteReply m s
  | .remoteAck m => Sys2Proof.Machine.execRemoteAck m s
  | .remoteRefusal m => Sys2Proof.Machine.execRemoteRefusal m s
  | .gateRequestResend m => Sys2Proof.Machine.execGateRequestResend m s
  | .virtualAccess m => Sys2Proof.Machine.execVirtualAccess m s
  | .translationResponse req walk => Sys2Proof.Machine.execTranslationResponse req walk s
  | .fptailWrite p v => Sys2Proof.Machine.execFptailWrite p v s
  | .shootdownGo e => Sys2Proof.Machine.execShootdownGo e s
  | .shootdownComplete e => Sys2Proof.Machine.execShootdownComplete e s
  | .partitionEnable p => Sys2Proof.Machine.execPartitionEnable p s
  | .partitionRelease p => Sys2Proof.Machine.execPartitionRelease p s
  | .scrubComplete p => Sys2Proof.Machine.execScrubComplete p s
  | .stateDescheduled v => Sys2Proof.Machine.execStateDescheduled v s
  | .statePaused v => Sys2Proof.Machine.execStatePaused v s
  | .stateRunning v => Sys2Proof.Machine.execStateRunning v s
  | .vdevReset v => Sys2Proof.Machine.execVdevReset v s
  | .configWrite addr val => Sys2Proof.Machine.execConfigWrite addr val s
  | .launchChoice p => Sys2Proof.Machine.execLaunchChoice p s
  | .deficitUpdate p => Sys2Proof.Machine.execDeficitUpdate p s
  | .sliceExpiry p => Sys2Proof.Machine.execSliceExpiry p s
  | .launchStart p => Sys2Proof.Machine.execLaunchStart p s
  | .loadBeat t => Sys2Proof.Machine.execLoadBeat t s
  | .firstTasksFire p => Sys2Proof.Machine.execFirstTasksFire p s
  | .streamDispatch p => Sys2Proof.Machine.execStreamDispatch p s
  | .quiescenceDetected p => Sys2Proof.Machine.execQuiescenceDetected p s
  | .eventDelivery v => Sys2Proof.Machine.execEventDelivery v s
  | .sliceEndSignal t => Sys2Proof.Machine.execSliceEndSignal t s
  | .yieldDeadline t => Sys2Proof.Machine.execYieldDeadline t s
  | .settledReport t => Sys2Proof.Machine.execSettledReport t s
  | .gangStop p => Sys2Proof.Machine.execGangStop p s
  | .drainEnd p => Sys2Proof.Machine.execDrainEnd p s
  | .launchSuspended p => Sys2Proof.Machine.execLaunchSuspended p s
  | .restore p => Sys2Proof.Machine.execRestore p s
  | .restoreRelease p => Sys2Proof.Machine.execRestoreRelease p s
  | .watchdogExpiry p => Sys2Proof.Machine.execWatchdogExpiry p s
  | .matrixCommandStart t => Sys2Proof.Machine.execMatrixCommandStart t s
  | .matrixCompletion t => Sys2Proof.Machine.execMatrixCompletion t s
  | .remoteDrainCompletion t => Sys2Proof.Machine.execRemoteDrainCompletion t s
  | .vectorOperationStart t => Sys2Proof.Machine.execVectorOperationStart t s
  | .vectorCompletion t => Sys2Proof.Machine.execVectorCompletion t s
  | .copyStart t => Sys2Proof.Machine.execCopyStart t s
  | .copyCompletion t op => Sys2Proof.Machine.execCopyCompletion t op s
  | .copyFailure t op => Sys2Proof.Machine.execCopyFailure t op s
  | .egemvAccept t op => Sys2Proof.Machine.execEgemvAccept t op s
  | .egemvPass stack => Sys2Proof.Machine.execEgemvPass stack s
  | .networkCommandStart t => Sys2Proof.Machine.execNetworkCommandStart t s
  | .roundCombine t slot => Sys2Proof.Machine.execRoundCombine t slot s
  | .treeDelivery t slot => Sys2Proof.Machine.execTreeDelivery t slot s
  | .packetArrival p x => Sys2Proof.Machine.execPacketArrival p x s
  | .sackArrival p op x => Sys2Proof.Machine.execSackArrival p op x s
  | .rtoExpiry p op pkt => Sys2Proof.Machine.execRtoExpiry p op pkt s
  | .notReadyRetry p op => Sys2Proof.Machine.execNotReadyRetry p op s
  | .versionSwitchPass p w => Sys2Proof.Machine.execVersionSwitchPass p w s
  | .tagRetirementComplete p tag => Sys2Proof.Machine.execTagRetirementComplete p tag s
  | .powerControlPeriod watts tmax => Sys2Proof.Machine.execPowerControlPeriod watts tmax s
  | .stackThermalHold k celsius => Sys2Proof.Machine.execStackThermalHold k celsius s
  | .stackThermalRelease k celsius => Sys2Proof.Machine.execStackThermalRelease k celsius s
  | .thermalTrip tmax outlet => Sys2Proof.Machine.execThermalTrip tmax outlet s
  | .thermalResetRelease tmax => Sys2Proof.Machine.execThermalResetRelease tmax s
  | .undervoltage millivolts micros => Sys2Proof.Machine.execUndervoltage millivolts micros s
  | .undervoltageRecovery millivolts micros => Sys2Proof.Machine.execUndervoltageRecovery millivolts micros s
  | .overvoltage millivolts => Sys2Proof.Machine.execOvervoltage millivolts s
  | .linkBeatResend island router port plane fails => Sys2Proof.Machine.execLinkBeatResend island router port plane fails s
  | .patrolScrub stack granule found => Sys2Proof.Machine.execPatrolScrub stack granule found s
  | .firmwareRecord island mmode d0 d1 d2 d3 => Sys2Proof.Machine.execFirmwareRecord island mmode d0 d1 d2 d3 s
  | .keyGeneration v mmode id => Sys2Proof.Machine.execKeyGeneration v mmode id s
  | .deferredKeyGeneration v => Sys2Proof.Machine.execDeferredKeyGeneration v s
  | .serviceCall r => Sys2Proof.Machine.execServiceCall r s
  | .eprefWarmingEnd t op => Sys2Proof.Machine.execEprefWarmingEnd t op s
  | .contributionAccepted t => Sys2Proof.Machine.execContributionAccepted t s
  | .readBufferEntryAgeOut e granule => Sys2Proof.Machine.execReadBufferEntryAgeOut e granule s
  | .bootImageFetched chip image => Sys2Proof.Machine.execBootImageFetched chip image s
  | .securityVersionFloorRaise v => Sys2Proof.Machine.execSecurityVersionFloorRaise v s
  | .referenceInputChange present => Sys2Proof.Machine.execReferenceInputChange present s
  | .coldBoot => Sys2Proof.Machine.execColdBoot s
  | .warmReset => Sys2Proof.Machine.execWarmReset s
  | .powerLoss => Sys2Proof.Machine.execPowerLoss s
  | .bootFetchRetry => Sys2Proof.Machine.execBootFetchRetry s
  | .managementReset => Sys2Proof.Machine.execManagementReset s
  | .meterShadowAdd => Sys2Proof.Machine.execMeterShadowAdd s
  | .attestationReport => Sys2Proof.Machine.execAttestationReport s
  | .meterSnapshot => Sys2Proof.Machine.execMeterSnapshot s
  | .reportComplete => Sys2Proof.Machine.execReportComplete s
  | .serviceRestart => Sys2Proof.Machine.execServiceRestart s

end Machine
end Sys2Proof
end

