-- ==== Sys2Proof/Machine/Elapse.lean ====
section
/-! DEFINITION. What the passing of clks does (log 2): CYC (01 R25), the counts of waits (08 R241, 15 R378), the watchdog (15 R378), the
charges of launches and the meters (12 R307, 18 R407), and the traffic that waits for a hot stack (20 R422). -/

namespace Sys2Proof
namespace Machine

/-! ## Traffic to a hot stack (20 R422) -/

/-- Does a virtual access go to a hot stack: to its page, or to the bead of its window? -/
def State.hotAcc (s : State) (a : HAcc) : Bool :=
  let ask := s.viewAsk a
  match s.paOf ask.v ask.va with
  | some pa => s.hotPa pa || s.hotPa (s.resolve a pa)
  | none => false

/-- Does a virtual request go to one? -/
def State.hotReq (s : State) (r : Req) : Bool :=
  match s.virtAcc r with
  | some a => s.hotAcc a
  | none => false

/-- Does a byte of a range of a device's space that the network engine or the launch unit reaches lie on one? -/
def State.hotRange (s : State) (p : Fin 24) (v : Fin 64) (va : Word) (n : Nat) : Bool :=
  (List.range (n / 4096 + 2)).any (fun i =>
    let o := if i = 0 then 0 else 4096 * i - va.toNat % 4096
    decide (o < n) && s.hotAcc (s.netAcc (netAsk p v 0 false) (fun _ => none) (va + BitVec.ofNat 64 o) 1))

/-- Does the next access of an operation of a tile's copy engine go to one? A pass of EGEMV waits for its turn first (R269). -/
def State.hotCopy (s : State) (t : TileId) (q : CRun) : Bool :=
  let c := q.cmd
  let at_ (a : Word) : Bool := s.hotReq (engReq t c (.load 1 false) true a .vc0 false)
  match c.rc, q.phase with
  | .copy r, ph => ph.goes.isSome && ((r.sk == 2 && !isFill c.ins && (r.from_ c q.pos).any at_)
      || (r.dk == 2 && at_ (sideAt r.daddr r.ext r.dstr q.pos)))
  | .edge r, .running => s.power.hotStacks.contains r.mep
  | .edge r, .accepted _ | .edge r, .frame (some _) => s.power.hotStacks.contains r.mep &&
      ((firstPass (s.passesAt r.mep)).map (fun x => x.2.2.cmd.id)) == some c.id
  | _, .running => (match c.ins with
    | .epref a len _ =>
      let va := c.regs[a]
      s.warmHot t (va.toNat / 64) ((va.toNat + len.toNat - 1) / 64 + 1 - va.toNat / 64)
    | _ => false)
  | _, _ => false

/-- Does an access of a partition's network engine that may be made now go to one: the source or the counter of an operation, the counter of
a message, the target of a kept packet, or the source of an answer? -/
def State.hotNet (s : State) (p : Fin 24) : Bool :=
  let q := s.parts[p]
  q.netBusy.any (fun o => o.free && (match s.spaceOf p with
    | some v => if o.over then o.rc.ce && s.hotRange p v (s.ctrAddr o.tile o.rc.ctr.val) 8
        else !o.isGet && !o.rc.lk && s.hotRange p v o.rc.laddr o.rc.len
    | none => false))
  || q.inMsgs.any (fun m => m.st == .ending && m.wait.isNone && !m.frame && (match s.inCounter p m with
    | some (v, va) => s.hotRange p v va 8
    | none => false))
  || q.heldPkts.any (fun h => h.ready && (match (q.inMsg h.pkt).bind (fun m => s.target p m h.pkt) with
    | some (v, va, bs) => s.hotRange p v va bs.length
    | none => false))
  || q.answers.any (fun a => a.o.free && (match a.o.nextDue with
    | some k => s.hotRange p a.v (a.o.rc.laddr + BitVec.ofNat 64 (q.mtu * k.no)) (min q.mtu (a.o.rc.len - q.mtu * k.no))
    | none => false))

/-- Does the next access of a partition's launch unit go to one: a read of the container or of the window table, or the frames of a save or
of a restore? -/
def State.hotUnit (s : State) (p : Fin 24) (l : Launch) : Bool :=
  match l.st with
  | .starting => l.container.isEmpty && l.wait.isNone &&
      (s.hotRange p l.vdev l.hdr.imgva ((match s.unitRead p l l.hdr.imgva 64 with | .ok _ h => containerLen h | _ => none).getD 64)
        || s.hotRange p l.vdev l.hdr.wtab (64 * l.hdr.nwin))
  | .stopping => (s.parts[p]).saving && l.frames.any s.hotPa
  | .suspended => !(s.parts[p]).restoring && (match l.saved with | some x => (s.imageFrames x).any s.hotPa | none => false)
  | _ => false

/-- Has the partition traffic that may wait for the hold of a hot stack: requests of its strands, operations of its copy engines and of its
network engine, and what its launch unit reads or writes (R422)? -/
def State.stackTraffic (s : State) (p : Fin 24) : Bool :=
  let q := s.parts[p]
  s.plane.any (fun r => r.virt && (r.phase == .out || r.phase == .again) && q.covers r.tile && s.hotReq r)
  || s.tiles.any (fun tx => q.covers tx.1 && tx.2.copies.any (s.hotCopy tx.1))
  || s.hotNet p
  || (match s.curLaunch p with | some l => s.hotUnit p l | none => false)

/-- Has the partition traffic that waits only for a held stack (R422)? Whether traffic to a hot stack waits for nothing else in a held clk
is a free choice (log 2). -/
def State.waitsForStack (s : State) (p : Fin 24) : Bool :=
  !s.power.hotStacks.isEmpty && s.stackTraffic p
  && Config.stackHeld (24 * s.steps + p.val)

/-- Unthrottled clks of a partition among the next `dt` (R378, R421, R422). -/
def State.freeClks (s : State) (p : Fin 24) (dt : Nat) : Nat :=
  let h := s.heldClks dt
  if s.waitsForStack p then
    let lo := max s.now s.power.periodAt
    let inHeld := if h = 0 then 0 else fours (lo + h) - fours lo
    dt - h - (fours (s.now + dt) - fours s.now - inHeld)
  else dt - h

/-! ## A partition in a clk -/

/-- A wait whose count goes on: BWAIT pauses while its blank waits for first words of the network (R232). -/
def Tile.counts (x : Tile) (w : WaitRec) : Bool :=
  match w.kind with
  | .blank n => !(x.blanks[n]).fw
  | _ => true

/-- A strand whose wait has counted `n` more unthrottled clks. -/
def Tile.strandCount (x : Tile) (n : Nat) (z : Strand) : Strand :=
  match z.wait with
  | some w => if x.counts w then { z with wait := some { w with count := w.count + n } } else z
  | none => z

/-- A tile of a running launch after `dt` clks, `n` of them unthrottled. -/
def Tile.elapse (x : Tile) (dt n : Nat) : Tile :=
  if x.halted then x
  else { x with
    cw := { x.cw with cyc := (x.cw.cyc + dt) % 2 ^ 64 }
    strands := x.strands.map (x.strandCount n) }

/-- The engine meters of a tile for `dt` clks: each class of which the matrix engine runs a command, and the vector engine (R407). -/
def State.chargeEngines (s : State) (v : Fin 64) (t : TileId) (x : Tile) (dt : Nat) : State :=
  let s1 := ([1, 2, 3, 4].filter (fun c => x.mat.run.any (fun r => !r.done && mxClass r.cmd.pfx.fb == some c && s.goesOn t r.cmd.id))).foldl
    (fun (s : State) c => s.charge v c dt) s
  if x.vec.any (fun c => s.goesOn t c.id) then s1.charge v 5 dt else s1

/-- A partition after `dt` clks. -/
def State.elapsePart (s : State) (dt : Nat) (p : Fin 24) : State :=
  match s.curLaunch p with
  | none => s
  | some l =>
    let t := s.presentCount p * dt
    let n := s.freeClks p dt
    let going := l.st == .running || l.st == .stopping
    let s1 := (s.modLaunch l.id (fun l => { l with charged := l.charged + t })).charge l.vdev 0 t
    let s2 := s1.modPart p (fun q => { q with
      charge := tset q.charge l.vdev.val (tget 0 q.charge l.vdev.val + t)
      dog := if going then q.dog + n else q.dog })
    if going then
      let s3 := s2.tiles.foldl (fun s tx => if l.placed.contains tx.1 then s.chargeEngines l.vdev tx.1 tx.2 dt else s) s2
      { s3 with tiles := s3.tiles.map (fun tx => (tx.1, if l.placed.contains tx.1 then tx.2.elapse dt n else tx.2)) }
    else s2

/-- `dt` clks pass. -/
def State.elapse (s : State) (dt : Nat) : State :=
  if dt = 0 then s
  else
    let s1 := (List.finRange 24).foldl (fun s p => s.elapsePart dt p) s
    { s1 with now := s1.now + dt, meters := s1.meters.mark }

end Machine
end Sys2Proof
end

