-- ==== Sys2Proof/Machine/HartBase.lean ====
section
/-! DEFINITION. The part of RISC-V that the model's island harts execute beside LNCH (12 R305, 09 R251, 13 R313, log 6): the integer and
multiply instructions of RV64, loads and stores, load-reserve, store-conditional and the atomics, fences, the M-mode registers, and
what raises or returns from an exception. All of it is taken over from RISC-V. -/

namespace Sys2Proof
namespace Machine

/-! ## Fields of a word -/

/-- Bits `lo .. lo+n-1` of a word as a number. -/
def hbits (w : BitVec 32) (lo n : Nat) : Nat := (w.extractLsb' lo n).toNat
/-- rd. -/
def hrd (w : BitVec 32) : Fin 32 := Fin.ofNat 32 (hbits w 7 5)
/-- rs1. -/
def hrs1 (w : BitVec 32) : Fin 32 := Fin.ofNat 32 (hbits w 15 5)
/-- rs2. -/
def hrs2 (w : BitVec 32) : Fin 32 := Fin.ofNat 32 (hbits w 20 5)
/-- The I immediate. -/
def immI (w : BitVec 32) : Word := (w.extractLsb' 20 12).signExtend 64
/-- The S immediate. -/
def immS (w : BitVec 32) : Word := (w.extractLsb' 25 7 ++ w.extractLsb' 7 5).signExtend 64
/-- The B immediate. -/
def immB (w : BitVec 32) : Word :=
  (w.extractLsb' 31 1 ++ w.extractLsb' 7 1 ++ w.extractLsb' 25 6 ++ w.extractLsb' 8 4 ++ 0#1).signExtend 64
/-- The U immediate. -/
def immU (w : BitVec 32) : Word := (w.extractLsb' 12 20 ++ 0#12).signExtend 64
/-- The J immediate. -/
def immJ (w : BitVec 32) : Word :=
  (w.extractLsb' 31 1 ++ w.extractLsb' 12 8 ++ w.extractLsb' 20 1 ++ w.extractLsb' 21 10 ++ 0#1).signExtend 64

/-! ## Integer results -/

/-- The integer operations of OP and OP-IMM; `alt` is bit 30. -/
def hartAlu (f : Nat) (alt : Bool) (a b : Word) : Word :=
  let n := b.toNat % 64
  match f with
  | 0 => if alt then a - b else a + b
  | 1 => a <<< n
  | 2 => if a.toInt < b.toInt then 1#64 else 0#64
  | 3 => if a.toNat < b.toNat then 1#64 else 0#64
  | 4 => a ^^^ b
  | 5 => if alt then a.sshiftRight n else a >>> n
  | 6 => a ||| b
  | _ => a &&& b

/-- A quotient truncated towards zero; -1 for a division by zero. -/
def hartDiv (a b : Int) : Int := if b = 0 then -1 else Int.tdiv a b
/-- A remainder with the dividend's sign; the dividend for a division by zero. -/
def hartRem (a b : Int) : Int := if b = 0 then a else Int.tmod a b

/-- The multiply and divide operations of `n`-bit operands. -/
def hartMul (n f : Nat) (a b : Word) : Word :=
  let sa := valOf true n a
  let sb := valOf true n b
  let ua := valOf false n a
  let ub := valOf false n b
  BitVec.ofInt 64 (match f with
    | 0 => sa * sb
    | 1 => sa * sb / 2 ^ 64
    | 2 => sa * ub / 2 ^ 64
    | 3 => ua * ub / 2 ^ 64
    | 4 => hartDiv sa sb
    | 5 => hartDiv ua ub
    | 6 => hartRem sa sb
    | _ => hartRem ua ub)

/-- The low 32 bits, sign-extended. -/
def word32 (v : Word) : Word := (v.truncate 32).signExtend 64

/-- The word operations of OP-32 and OP-IMM-32: add, subtract and the shifts. -/
def hartAluW (f : Nat) (alt : Bool) (a b : Word) : Option Word :=
  let x : BitVec 32 := a.truncate 32
  let n := b.toNat % 32
  match f with
  | 0 => some (word32 (if alt then a - b else a + b))
  | 1 => some ((x <<< n).signExtend 64)
  | 5 => some ((if alt then x.sshiftRight n else x >>> n).signExtend 64)
  | _ => none

/-- The result of OP, or of OP-32 where `wd`; none for an encoding that is not taken over. -/
def hartOp (wd : Bool) (f f7 : Nat) (a b : Word) : Option Word :=
  let alt := f7 == 0x20
  if f7 = 1 then
    if !wd then some (hartMul 64 f a b)
    else if f = 0 ∨ 4 ≤ f then some (word32 (hartMul 32 f a b)) else none
  else if f7 = 0 ∨ (alt && (f == 0 || f == 5)) = true then (if wd then hartAluW f alt a b else some (hartAlu f alt a b))
  else none

/-- The condition of a branch. -/
def hartCond (f : Nat) (a b : Word) : Option Bool :=
  match f with
  | 0 => some (a == b)
  | 1 => some (a != b)
  | 4 => some (decide (a.toInt < b.toInt))
  | 5 => some (decide (b.toInt ≤ a.toInt))
  | 6 => some (decide (a.toNat < b.toNat))
  | 7 => some (decide (b.toNat ≤ a.toNat))
  | _ => none

/-! ## The hart that moves -/

/-- An exception of the hart. -/
def State.hartTake (s : State) (cause : Nat) (tval : Word) : State := s.modHart (fun h => h.take cause tval)

/-- The hart goes on behind the word. -/
def State.hartNext (s : State) : State := s.modHart (fun h => { h with pc := h.pc + 4#64 })

/-- A result, and on. -/
def State.hartPut (s : State) (r : Fin 32) (v : Word) : State := (s.modHart (fun h => h.setReg r v)).hartNext

/-- A jump: misaligned targets raise an exception at the jump. -/
def State.hartJump (s : State) (target : Word) (link : Option (Fin 32)) : State :=
  if target.toNat % 4 ≠ 0 then s.hartTake 0 target
  else s.modHart (fun h => { (match link with | some r => h.setReg r (h.pc + 4#64) | none => h) with pc := target })

/-- An access of the hart: its place, or the exception that it takes. -/
def State.hartAt (s : State) (k : HKind) (va : Word) (n : Nat) : HartAcc ⊕ State :=
  let (mis, acc, page) := k.codes
  if va.toNat % n ≠ 0 then .inr (s.hartTake mis va)
  else match s.hartAcc s.hart va k n with
    | .page => .inr (s.hartTake page va)
    | .access => .inr (s.hartTake acc va)
    | r => .inl r

/-- The bytes at the place of an access, as a number. -/
def State.hartRead (s : State) (a : HartAcc) (n : Nat) : Nat :=
  match a with
  | .ok pa => leNat (s.hread pa n)
  | .dev o => (s.readAt o).toNat
  | _ => 0

/-- The bytes there written. -/
def State.hartWrite (s : State) (a : HartAcc) (n v : Nat) : State :=
  match a with
  | .ok pa => s.hwrite pa (leBytes n v)
  | .dev o => s.storeAt o (BitVec.ofNat 64 v) (s.hart.accMode .store == .m)
  | _ => s

/-- A load of `n` bytes. -/
def State.hartLoad (s : State) (rd : Fin 32) (va : Word) (n : Nat) (signed : Bool) : State :=
  match s.hartAt .load va n with
  | .inr s1 => s1
  | .inl a => s.hartPut rd (extOf signed (8 * n) (s.hartRead a n : Int))

/-- A store of `n` bytes. -/
def State.hartStore (s : State) (va : Word) (n : Nat) (v : Word) : State :=
  match s.hartAt .store va n with
  | .inr s1 => s1
  | .inl a => (s.hartWrite a n v.toNat).hartNext

/-- CBO.ZERO: zeros in the 64 bytes around an address, one write of the whole granule, which clears its poison (18 R401, log 6). -/
def State.hartZero (s : State) (va : Word) : State :=
  match s.hartAcc s.hart (va &&& ~~~63#64) .store 64 with
  | .ok pa => (s.hwrite pa (List.replicate 64 0#8)).hartNext
  | .page => s.hartTake 15 va
  | _ => s.hartTake 7 va

/-! ## Load-reserve, store-conditional, atomics -/

/-- The operation of an AMO. -/
def hartAmoFn (f5 : Nat) : Option AmoFn :=
  match f5 with
  | 0 => some .add | 1 => some .swap | 4 => some .xor | 8 => some .or | 12 => some .and
  | 16 => some .smin | 20 => some .smax | 24 => some .umin | 28 => some .umax
  | _ => none

/-- The reservations of all other harts. -/
def State.unreserve (s : State) : State := { s with lrs := s.lrs.filter (fun x => x.1 != s.curHart.val) }

/-- LR, SC and the AMOs on `n` bytes of HBM; the device's registers take no atomic access. -/
def State.hartAmo (s : State) (f5 : Nat) (rd : Fin 32) (va : Word) (n : Nat) (v : Word) : Option State :=
  let k : HKind := if f5 = 2 then .load else .store
  match s.hartAt k va n with
  | .inr s1 => some s1
  | .inl (.ok pa) =>
    let old := leNat (s.hread pa n)
    let get (s : State) : State := s.hartPut rd (extOf true (8 * n) (old : Int))
    if f5 = 2 then
      let s1 := s.unreserve
      some (get { s1 with lrs := (s.curHart.val, pa / 64) :: s1.lrs })
    else if f5 = 3 then
      if s.lrs.contains (s.curHart.val, pa / 64) then some ((s.unreserve.hwrite pa (leBytes n v.toNat)).hartPut rd 0#64)
      else some (s.unreserve.hartPut rd 1#64)
    else (hartAmoFn f5).map (fun f => get (s.hwrite pa (leBytes n (amoNew f (8 * n) old (lowBits v (8 * n))).1)))
  | .inl _ => some (s.hartTake k.codes.2.1 va)

/-! ## Control and status registers -/

/-- The bits of mstatus that the model holds: SIE, MIE, SPIE, MPIE, SPP, MPP, MPRV, SUM, MXR, MPV. -/
def mstatusMask : Word := 0x80000E19AA#64

/-- A register of the harts that the model holds, with the hart of that number. -/
def Hart.csr (h : Hart) (hart : Nat) (n : Nat) : Option Word :=
  match n with
  | 0x180 => some h.satp
  | 0x300 => some h.mstatus
  | 0x305 => some h.mtvec
  | 0x340 => some h.mscratch
  | 0x341 => some h.mepc
  | 0x342 => some h.mcause
  | 0x343 => some h.mtval
  | 0xF14 => some (BitVec.ofNat 64 hart)
  | _ => none

/-- Such a register written. -/
def Hart.setCsr (h : Hart) (n : Nat) (v : Word) : Hart :=
  match n with
  | 0x180 => { h with satp := v }
  | 0x300 => { h with mstatus := v &&& mstatusMask }
  | 0x305 => { h with mtvec := v &&& 0xFFFFFFFFFFFFFFFD#64 }
  | 0x340 => { h with mscratch := v }
  | 0x341 => { h with mepc := v &&& 0xFFFFFFFFFFFFFFFC#64 }
  | 0x342 => { h with mcause := v }
  | 0x343 => { h with mtval := v }
  | _ => h

/-- The rank of a mode among those that may reach a register. -/
def HMode.rank : HMode → Nat
  | .m => 3 | .s => 1 | .vs => 1 | .u | .vu => 0

/-- An illegal-instruction exception. -/
def State.hartIllegal (s : State) (w : BitVec 32) : State := s.hartTake 2 (w.zeroExtend 64)

/-- CSRRW, CSRRS, CSRRC and their immediate forms. -/
def State.hartCsr (s : State) (w : BitVec 32) : Option State :=
  let n := hbits w 20 12
  let f := hbits w 12 3
  let h := s.hart
  let src : Word := if 4 ≤ f then BitVec.ofNat 64 (hbits w 15 5) else h.reg (hrs1 w)
  let writes := f % 4 == 1 || hbits w 15 5 != 0
  match h.csr s.curHart.val n with
  | none => none
  | some old =>
    if h.mode.rank < n / 2 ^ 8 % 4 || (writes && n / 2 ^ 10 == 3) then some (s.hartIllegal w)
    else
      let new := match f % 4 with | 1 => src | 2 => old ||| src | _ => old &&& ~~~src
      some ((if writes then s.modHart (fun h => h.setCsr n new) else s).hartPut (hrd w) old)

/-- MRET. -/
def Hart.mret (h : Hart) : Hart :=
  let md := modeOf (field h.mstatus 11 2) (h.mstatus.getLsbD 39)
  let st := setBit (setField (setBit (setBit h.mstatus 3 (h.mstatus.getLsbD 7)) 7 true) 11 2 0#64) 39 false
  { h with mode := md, pc := h.mepc, mstatus := if md = .m then st else setBit st 17 false }

/-- The exception code of an ECALL. -/
def HMode.ecall : HMode → Nat
  | .u | .vu => 8 | .s => 9 | .vs => 10 | .m => 11

/-- SYSTEM: ECALL, EBREAK, MRET, WFI, SFENCE.VMA and the register instructions. -/
def State.hartSystem (s : State) (w : BitVec 32) : Option State :=
  let h := s.hart
  if hbits w 12 3 % 4 ≠ 0 then s.hartCsr w
  else if w = 0x00000073#32 then some (s.hartTake h.mode.ecall 0#64)
  else if w = 0x00100073#32 then some (s.hartTake 3 h.pc)
  else if w = 0x30200073#32 then some (if h.mode = .m then s.modHart Hart.mret else s.hartIllegal w)
  else if w = 0x10500073#32 then some s.hartNext
  else if hbits w 25 7 = 9 ∧ hbits w 7 8 = 0 then some (if h.mode.rank = 0 then s.hartIllegal w else s.hartNext)
  else none

/-! ## One instruction -/

/-- A word of the base instruction set executed by the hart whose turn it is; none where the model takes it over from no source. -/
def State.hartBase (s : State) (w : BitVec 32) : Option State :=
  let h := s.hart
  let rd := hrd w
  let a := h.reg (hrs1 w)
  let b := h.reg (hrs2 w)
  let f := hbits w 12 3
  let f7 := hbits w 25 7
  match hbits w 0 7 with
  | 0x37 => some (s.hartPut rd (immU w))
  | 0x17 => some (s.hartPut rd (h.pc + immU w))
  | 0x6F => some (s.hartJump (h.pc + immJ w) (some rd))
  | 0x67 => if f = 0 then some (s.hartJump ((a + immI w) &&& ~~~1#64) (some rd)) else none
  | 0x63 => (hartCond f a b).map (fun c => if c then s.hartJump (h.pc + immB w) none else s.hartNext)
  | 0x03 => if f = 7 then none else some (s.hartLoad rd (a + immI w) (2 ^ (f % 4)) (decide (f < 4)))
  | 0x23 => if 4 ≤ f then none else some (s.hartStore (a + immS w) (2 ^ f) b)
  | 0x13 =>
    let sh := hbits w 26 6
    if (f = 1 ∧ sh ≠ 0) ∨ (f = 5 ∧ sh ≠ 0 ∧ sh ≠ 0x10) then none
    else some (s.hartPut rd (hartAlu f (f == 5 && sh == 0x10) a (immI w)))
  | 0x1B =>
    if (f = 1 ∧ f7 ≠ 0) ∨ (f = 5 ∧ f7 ≠ 0 ∧ f7 ≠ 0x20) then none
    else (hartAluW f (f == 5 && f7 == 0x20) a (immI w)).map (fun v => s.hartPut rd v)
  | 0x33 => (hartOp false f f7 a b).map (fun v => s.hartPut rd v)
  | 0x3B => (hartOp true f f7 a b).map (fun v => s.hartPut rd v)
  | 0x0F => some (if f = 2 ∧ hbits w 20 12 = 4 ∧ hbits w 7 5 = 0 then s.hartZero a else s.hartNext)
  | 0x2F =>
    if (f = 2 ∨ f = 3) ∧ !(hbits w 27 5 == 2 && hbits w 20 5 != 0) then s.hartAmo (hbits w 27 5) rd a (2 ^ f) b else none
  | 0x73 => s.hartSystem w
  | _ => none

end Machine
end Sys2Proof
end

