-- ==== Sys2Proof/Machine/Turn.lean ====
section
/-! DEFINITION. Whose turn it is (log 1), what is due before a clk may pass, what a turn fetches, what follows every step, and how a word
is laid where the next turn fetches (log 14). -/

namespace Sys2Proof
namespace Machine

/-- Is this a step of a unit or of an outside party, and no instruction of a strand or a hart? -/
def isUnitStep : Instr → Bool
  | .lnch _ _ => false
  | i => (encodeFields i).isNone

/-- A partition that is to be stopped, with the cause (R401, R402). -/
def State.dueStop (s : State) : Option (Fin 24 × StopCause) :=
  (List.finRange 24).findSome? (fun p => ((s.parts[p]).stopDue).map (fun c => (p, c)))

/-- The next turn: the head of the agenda, or what the schedule names (log 1). -/
def State.nextTurn (s : State) : Turn :=
  match s.agenda with
  | t :: _ => t
  | [] => Config.schedule s.steps

/-! ## The issue stage (01 R18, 02 R42, R45, 04 R93) -/

/-- The registers that an instruction writes late: clks from its issue until an instruction that reads one can issue (R93). -/
def lateWrites : Instr → List (Reg × Nat)
  | .mul o | .mulh o => [(o.d, 3)]
  | .div o | .rem o => [(o.d, 4 + wBits o.w / 2)]
  | .fadd o | .fsub o | .fmul o | .fma o _ | .fmin o | .fmax o | .fcmp _ o | .fsgn _ o => [(o.d, if o.dbl then 6 else 4)]
  | .fcvt _ d _ dbl | .fclass d _ dbl => [(d, if dbl then 6 else 4)]
  | .fdiv o => [(o.d, if o.dbl then 22 else 12)]
  | .fsqrt d _ dbl => [(d, if dbl then 22 else 12)]
  | .ld m _ => [(m.d, if m.sp = .act then 4 else 3)]
  | .ldp m => let n := if m.sp = .act then 4 else 3
    [(m.d, n), (m.c, n)]
  | _ => []

/-- Does an instruction need the tile's one divider (R93)? -/
def usesDivider : Instr → Bool
  | .div _ | .rem _ | .fdiv _ | .fsqrt _ _ _ => true
  | _ => false

/-- Clks after its issue in which the strand cannot issue, since SEND and SPAWN read their payload (07 R186). -/
def payloadClks : Instr → Nat
  | .send m => m.n.val
  | .spawn m => m.n.val
  | _ => 0

/-- Does the strand stall at an instruction: after a transfer, for a register, or for the divider (R42, R93)? -/
def State.stalls (s : State) (t : TileId) (k : Fin 4) (i : Instr) : Bool :=
  let z := s.strand t k
  decide (s.now < z.stall) || (instrReads i).any (fun r => decide (s.now < tget 0 z.regAt r.val))
  || (usesDivider i && decide (s.now < (s.tile t).divAt))

/-- ARM and TRIG go before the arrivals of their clk, and so are not tried after one (07 R180). -/
def State.afterArrival (s : State) (t : TileId) (i : Instr) : Bool :=
  match i with
  | .arm .. | .trig .. => !s.mayApply t
  | _ => false

/-- Has the strand issued, and not merely found its wait still on: its instruction is over, or has sent the request or the message whose
answer it now awaits (R18)? -/
def issued (z z' : Strand) : Bool :=
  match z'.wait with
  | none => true
  | some w => w.req.isSome && z.wait.bind (·.req) != w.req

/-- Does the strand now wait for something else? -/
def rewaits (z z' : Strand) : Bool := z.wait.map (fun w => (w.kind, w.tval)) != z'.wait.map (fun w => (w.kind, w.tval))

/-- Is the strand able to issue but for the arrivals of the clk: a turn of it takes a trap, tries an instruction for the first time, ends
its wait, or finds what it waits for over, and issues or waits for something else (R18)? -/
def State.goes (s : State) (t : TileId) (k : Fin 4) : Bool :=
  match s.fetchStrand t k with
  | .still _ => false
  | .stop _ => decide ((s.strand t k).stall ≤ s.now)
  | .issue s1 i => !s.stalls t k i && ((s.strand t k).wait.isNone ||
    (match exec i s1 with
      | .next s2 => issued (s.strand t k) (s2.strand t k) || rewaits (s.strand t k) (s2.strand t k)
      | _ => true))

/-- Is the strand able to issue in this clk? -/
def State.able (s : State) (t : TileId) (k : Fin 4) : Bool :=
  s.goes t k && !(match s.fetchStrand t k with | .issue s1 i => s1.afterArrival t i | _ => false)

/-- Does no strand issue in this clk: a held one, in reset, or after boot has stopped (20 R421, R422, 17 R387)? -/
def State.noIssue (s : State) : Bool := s.heldNow || !s.power.on || s.power.hold || s.power.holdV || s.boot.stopped

/-- May slot `k` issue in this clk: one strand per clk, the first able one after the one that issued last, and of that one the second
slot of a pair (R18, R45)? -/
def State.inTurn (s : State) (t : TileId) (k : Fin 4) : Bool :=
  let x := s.tile t
  if x.issuedAt = some s.now then x.pairNext && k == x.lastK
  else ((slotsAfter x.lastK).takeWhile (fun j => j != k)).all (fun j => !s.able t j)

/-- The strand of a tile that has still to issue in this clk, if any. -/
def State.issueDue (s : State) (t : TileId) : Option (Fin 4) :=
  if s.noIssue then none
  else if (s.tile t).issuedAt = some s.now then
    (if (s.tile t).pairNext && s.able t (s.tile t).lastK then some (s.tile t).lastK else none)
  else (slotsAfter (s.tile t).lastK).find? (fun k => s.able t k)

/-- Does a waiting TRIG of the tile stand before what arrives there (07 R180)? In a clk in which no strand issues it does not. -/
def State.trigFirst (s : State) (t : TileId) : Bool :=
  !s.noIssue && (List.finRange 4).any (fun k =>
    (match (s.strand t k).wait with | some w => w.kind == .trig | none => false) && s.able t k)

/-- The message that a tile applies in this clk: the first of those that wait there, once the tile has issued (07 R180). -/
def State.arrivalDue (s : State) : Option TMsg :=
  s.msgs.find? (fun m => s.waiting m && s.inOrder m && (s.issueDue m.dst).isNone && !s.trigFirst m.dst)

/-! ## What is due (07 R203, 15 R363, R378) -/

/-- Every strand of the tiles that hold state. -/
def State.allStrands (s : State) : List (TileId × Fin 4) := s.tiles.flatMap (fun tx => (List.finRange 4).map (fun k => (tx.1, k)))

/-- Unthrottled clks that the wait of a strand has left of its bound; none where it has no bound, or where the strand cannot trap. -/
def State.waitLeft (s : State) (t : TileId) (k : Fin 4) : Option Nat :=
  if !s.ready t k then none else (s.strand t k).wait.bind (fun w => w.bound.map (fun b => b - w.count))

/-- Clks that the deadline of a tile is away (R363). -/
def State.deadlineLeft (s : State) (t : TileId) : Option Nat :=
  let x := s.tile t
  if s.stoppingAt t && !x.halted then x.sliceEnd.map (fun c => c + x.cw.ydl.toNat - s.now) else none

/-- A partition whose watchdog has reached its bound (R378). -/
def State.dogDue (s : State) : Option (Fin 24) :=
  (List.finRange 24).find? (fun p => decide (watchdogBound ≤ (s.parts[p]).dog) && (s.curLaunch p).isSome)

/-- A wait whose bound has been reached and whose instruction would still wait: it is tried once more, and then expires (R203). -/
def State.waitDue (s : State) : Option Mover :=
  if s.noIssue then none
  else (s.allStrands.find? (fun x => s.waitLeft x.1 x.2 == some 0 && !s.goes x.1 x.2)).map (fun x =>
    match (s.strand x.1 x.2).wait with
    | some w => if w.last = s.steps then .event (.waitExpired x.1 x.2) else .strand x.1 x.2
    | none => .strand x.1 x.2)

/-- What has to be done before the clk ends: the issues of the tiles and then what arrives at them; then waits that expire in it, and tiles
that halt at its end. -/
def State.dueNow (s : State) : Option Mover :=
  (s.tiles.findSome? (fun tx => (s.issueDue tx.1).map (fun k => Mover.strand tx.1 k))).or
    ((s.arrivalDue.map (fun m => Mover.event m.step)).or
      (s.waitDue.or ((s.tiles.find? (fun tx => s.deadlineLeft tx.1 == some 0)).map (fun tx => .event (.yieldDeadline tx.1)))))

/-- May the strand issue before long: it stands at an instruction, and does not wait, or its wait is over? -/
def State.busyStrand (s : State) (t : TileId) (k : Fin 4) : Bool := s.ready t k && ((s.strand t k).wait.isNone || s.goes t k)

/-- Clks until the next of them is due, at most `dt`. While a message waits at its tile, or a strand may issue, one clk passes at a time;
where the power controller holds the strand, its held clks, in which none issues. -/
def State.clksTo (s : State) (dt : Nat) : Nat :=
  let busy := s.allStrands.any (fun x => s.busyStrand x.1 x.2)
  if s.msgs.any s.waiting || (busy && !s.noIssue) then 1 else
  let waits := s.allStrands.filterMap (fun x => (s.waitLeft x.1 x.2).map (fun n => if n = 0 then s.heldClks dt else n))
  let ends := s.tiles.filterMap (fun tx => s.deadlineLeft tx.1)
  let dogs := (List.finRange 24).filterMap (fun p => if (s.curLaunch p).isSome then some (watchdogBound - (s.parts[p]).dog) else none)
  max 1 ((waits ++ ends ++ dogs).foldl min (min (if busy then s.heldClks dt else dt)
    (min (s.power.periodAt + period14k - s.now) (s.meters.addedAt + period14k - s.now))))

/-- What the next step does: the clks that pass, who then moves, if any, whether it is due, and the agenda that remains. -/
structure Pick where
  dt     : Nat
  who    : Option Mover
  due    : Bool
  agenda : List Turn
  deriving DecidableEq, Repr

/-- Has a period of the power controller ended (R421)? Its reading of the power and of the hottest sensor is a free value. -/
def State.periodDue (s : State) : Option Instr :=
  if s.now < s.power.periodAt + period14k then none
  else some (.powerControlPeriod (Config.sensor s.steps).1 (Config.sensor s.steps).2)

/-- A key generation whose save or restore has ended (18 R410). -/
def State.keyDue (s : State) : Option Instr :=
  ((List.finRange 64).find? (fun v => (s.keys[v]).pend.isSome && !s.saveRestore v)).map .deferredKeyGeneration

/-- What is due before any turn: a key generation, a watchdog, a period of the power controller, and the adding of the meters' shadows, each
14,000 clks (18 R408). -/
def State.overdue (s : State) : Option Instr :=
  s.keyDue.or ((s.dogDue.map .watchdogExpiry).or
    (s.periodDue.or (if s.now < s.meters.addedAt + period14k then none else some .meterShadowAdd)))

/-- Does nothing run but the module's own steps: without power, in reset, or after boot has stopped? -/
def State.asleep (s : State) : Bool := !s.power.on || s.power.hold || s.power.holdV || s.boot.stopped

/-- The mover of the next step: what is overdue first; then the next turn, whose clks pass no further than to the next thing that is due.
What is due at the end of a clk comes after all else in it: the turn is kept (R203). -/
def State.pick (s : State) : Pick :=
  let t := s.nextTurn
  if s.asleep then ⟨t.dt, some t.who, false, s.agenda.tail⟩
  else match s.overdue with
    | some e => ⟨0, some (.event e), true, s.agenda⟩
    | none =>
      if t.dt = 0 then ⟨0, some t.who, false, s.agenda.tail⟩
      else match s.dueNow with
        | some m => ⟨0, some m, true, t :: s.agenda.tail⟩
        | none =>
          let d := s.clksTo t.dt
          if d < t.dt then ⟨d, none, false, ⟨t.dt - d, t.who⟩ :: s.agenda.tail⟩ else ⟨t.dt, some t.who, false, s.agenda.tail⟩

/-- The state in which the next mover moves: its turn taken off the agenda, the step counted, and its clks past. -/
def State.begin (s : State) : State := ({ s with agenda := s.pick.agenda, steps := s.steps + 1 }).elapse s.pick.dt

/-! ## Issue (01 R18) -/

/-- Does a pair go on: the line's template pairs the slot that has issued with the next, at which the strand now stands? -/
def pairGoes (z z' : Strand) : Bool :=
  match z'.line with
  | some l => (z.line.isNone || z.line == z'.line) && z'.pc == nextPc z.pc && decide (lineOf z'.pc = lineOf z.pc)
    && (lineWord l.bits).toNat.testBit (23 + field z.pc 0 3)
  | none => false

/-- What the latencies of an instruction that has retired leave behind (R93, 07 R186). -/
def Tile.late (x : Tile) (k : Fin 4) (now : Nat) (i : Instr) : Tile :=
  let z := x.strand k
  let y := x.setStrand k { z with
    stall := max z.stall (if payloadClks i = 0 then 0 else now + 1 + payloadClks i)
    regAt := (lateWrites i).foldl (fun t (r : Reg × Nat) => tset t r.1.val (now + r.2)) (z.regAt.filter (fun e => decide (now < e.2))) }
  if usesDivider i then { y with divAt := now + (((lateWrites i).head?.map (·.2)).getD 0) } else y

/-- The issue stage of a tile after a strand's turn at the instruction `i`. -/
def State.markIssue (s s' : State) (i : Instr) (who : Option (TileId × Fin 4)) : State :=
  match who with
  | none => s'
  | some (t, k) =>
    let z := s.strand t k
    let z' := s'.strand t k
    if !issued z z' then s'
    else
      let second := decide ((s.tile t).issuedAt = some s.now)
      let s1 := s'.modTile t (fun x => { x with issuedAt := some s.now, lastK := k, pairNext := !second && pairGoes z z' })
      if (s.tile t).cw.retired = (s'.tile t).cw.retired then s1 else s1.modTile t (fun x => x.late k s.now i)

/-- What a mover does in its turn: an instruction, with the strand that issues it, or an instruction of a hart's base set. -/
inductive Deed
  | still (s : State)
  | run (i : Instr) (s : State) (who : Option (TileId × Fin 4))
  | did (s s' : State)
  | stop (f : Fault)
  | refuse (r : Refusal)

/-- The address of the power controller's word (R420). -/
def powerWordAt : Word := BitVec.ofNat 64 (configBase + 0x50000)

/-- Is it an address of NONCE, or of GO and KIND, of the meter block (18 R408)? -/
def isReportWord (a : Word) : Bool := decide (configBase + 0x30000 ≤ a.toNat) && decide (a.toNat ≤ configBase + 0x30020)

/-- A step that the islands' software makes, which runs once phase 7 of boot is over (17 R385, R390). -/
def isIslandStep : Instr → Bool
  | .islandStrandAction .. | .translationResponse .. | .fptailWrite .. | .shootdownGo _ | .partitionEnable _ | .partitionRelease _
  | .stateDescheduled _ | .statePaused _ | .stateRunning _ | .vdevReset _ | .attestationReport | .meterSnapshot | .keyGeneration ..
  | .firmwareRecord .. | .serviceCall _ | .serviceRestart => true
  | .configWrite a _ => a != powerWordAt
  | _ => false

/-- A step of the management port but for its reset: a store of PCAP, a meter report with its nonce, and a service call (R423). -/
def isPortStep : Instr → Bool
  | .configWrite a _ => a == powerWordAt || isReportWord a
  | .serviceCall r => r.caller == 0x40
  | .attestationReport | .meterSnapshot | .reportComplete => true
  | _ => false

/-- A step that the module's power supply or its surroundings make, also while the module holds in reset (R422, R424), or its
management port (R423). -/
def isModuleStep : Instr → Bool
  | .coldBoot | .powerLoss | .overvoltage _ | .undervoltage _ _ | .undervoltageRecovery _ _ | .thermalTrip _ _
  | .thermalResetRelease _ | .stackThermalHold _ _ | .stackThermalRelease _ _ | .referenceInputChange _ | .managementReset => true
  | i => isPortStep i

/-- Does the module hold in reset? -/
def State.inReset (s : State) : Bool := s.power.hold || s.power.holdV

/-- A reset or what the power supply does, which alone a module accepts whose boot has stopped (17 R387, log 65). -/
def isResetStep : Instr → Bool
  | .warmReset => true
  | i => isModuleStep i && !isPortStep i

/-- An arrival at a tile, with its message. -/
def arrivalOf : Instr → Option Nat
  | .triggerArrival m | .spawnArrival m | .migrArrival m | .bounceArrival m | .stolenReply m => some m
  | _ => none

/-- Is it a step of a tile's copy engine that writes CODE, in a clk in which the tile still fetches? The fetch goes first (02 R42). -/
def State.fetchFirst (s : State) (e : Instr) : Bool :=
  let code (t : TileId) (op : Nat) : Bool := (s.issueDue t).isSome && (match s.copyRun t op with
    | some q => (match q.cmd.rc with
      | .copy r => r.dk == 0 && spcOf r.dspc == some .code
      | _ => false)
    | none => false)
  match e with
  | .copyCompletion t op => code t op.op
  | .copyFailure t op => code t op
  | _ => false

/-- A step that is made at the end of a clk, when it is due (R203, R363). -/
def isDueStep : Instr → Bool
  | .waitExpired _ _ | .yieldDeadline _ => true
  | _ => false

/-- Is a unit's step put off: until it is due, as what a tile applies that has come to it; until the tile has fetched; or until the harts
run, but for the management port's (R203, R363, 07 R180, 02 R42, 17 R385, 20 R423)? -/
def State.putOff (s : State) (e : Instr) (due : Bool) : Bool :=
  (!due && (isDueStep e || s.msgs.any (fun m => arrivalOf e == some m.id && s.waiting m))) || s.fetchFirst e
  || (isIslandStep e && !isModuleStep e && !s.hartsOn)

/-- The deed of a mover. No strand issues in a held clk (R421), nothing but the module's own steps is made in reset, and nothing but a reset
once boot has stopped. A strand whose wait is due to expire tries its instruction once more, out of turn. -/
def State.deed (s : State) (m : Mover) (due : Bool) : Deed :=
  match m with
  | .event e =>
    if !s.power.on && e != .coldBoot then .stop .noPower
    else if isUnitStep e && (!s.inReset || isModuleStep e) && (!s.boot.stopped || isResetStep e) && !s.putOff e due then .run e s none
    else .still s
  | .strand t k =>
    if !s.power.on then .stop .noPower
    else if s.noIssue || !(due || s.inTurn t k) then .still s
    else match s.fetchStrand t k with
      | .still s1 => .still s1
      | .stop s1 => if s.now < (s.strand t k).stall then .still s else .still s1
      | .issue s1 i => if s.stalls t k i || (!due && s1.afterArrival t i) then .still s else .run i s1 (some (t, k))
  | .hart h =>
    if !s.power.on then .stop .noPower
    else if s.inReset || s.boot.stopped then .still s
    else match s.fetchHart h with
      | .still s1 => .still s1
      | .issue s1 i => .run i s1 none
      | .base s1 w => match s1.hartBase w with
        | some s2 => .did s1 s2
        | none => .refuse .hartBase

/-- What the next step does. -/
def State.nextDeed (s : State) : Deed :=
  match s.pick.who with
  | some m => s.begin.deed m s.pick.due
  | none => .still s.begin

/-- Has a tile gone on between two states: an instruction retired, an engine operation completed, or a message applied (R378)? `busy` says
which network commands are in flight, and no NRECV completes when it is posted. -/
def tileMoved (busy : Nat → Bool) (x y : Tile) : Bool :=
  x.cw.retired != y.cw.retired || x.mrecv != y.mrecv
  || x.cmds.any (fun c => !(match c.ins with | .nrecv .. => true | _ => busy c.id) && !y.cmds.any (fun d => d.id == c.id))

/-- Messages of a partition that have come to the end of their NRECV. -/
def Part.ended (q : Part) : List Nat := (q.inMsgs.filter (fun m => m.buf.isSome && (m.st == .ended || m.st == .refused))).map (·.id)

/-- Has a placed tile gone on between two states, has a network operation completed, or has a drain made a step (R378)? -/
def State.movedOn (s s' : State) (p : Fin 24) : Bool :=
  let q := s.parts[p]
  let q' := s'.parts[p]
  let busy (id : Nat) : Bool := q'.netBusy.any (fun o => o.id == id)
  (s'.placed p).any (fun t => tileMoved busy (s.tile t) (s'.tile t))
  || q.netBusy.any (fun o => !busy o.id) || q'.ended.any (fun i => !q.ended.contains i)
  || (q'.draining && (s.plane != s'.plane || s.msgs != s'.msgs || q.netBusy != q'.netBusy || q.retire != q'.retire
    || (s'.placed p).any (fun t => (s.tile t).tree != (s'.tile t).tree)))

/-- The watchdog of a partition after a step. -/
def State.watch (s s' : State) (p : Fin 24) : State :=
  if s.movedOn s' p then s'.modPart p (fun q => { q with dog := 0 }) else s'

/-- The clk up to which a placed tile has not been idle, after a step (R200). -/
def State.markBusy (s s' : State) (t : TileId) : State :=
  if s.idleTile t && s'.idleTile t then s' else s'.modTile t (fun x => { x with busyAt := s'.now })

/-- What follows every step: the network engines go on with the packets that they keep (R284), held gates and waits on words are evaluated
(R237, R240), the service goes on (18 R412), the watchdogs see what has gone on, and the tiles' idle times. -/
def State.finish (s s' : State) : State :=
  (List.finRange 24).foldl (fun z p => (s'.placed p).foldl (fun z t => s.markBusy z t) (s.watch z p)) s'.svcGo.netRunAll.settle

/-- The line word of a line whose slot 0 is `x` and whose other slots are zero: no pair, no target, right parities (R34, R35). -/
def lineWordFor (x : Nat) : Nat :=
  let w := if parityOf x 96 then 2 ^ 18 else 0
  if parityOf (w / 2 ^ 18) 14 then w + 2 ^ 17 else w

/-- The bytes of that line. -/
def lineBytesFor (x : Nat) : List Byte := leBytes 4 (lineWordFor x) ++ leBytes 60 (x % 2 ^ 96)

/-- The state with a slot at PC 0 of tile (0, 0), and a strand in slot 0 of that tile about to issue it. -/
def State.placeSlot (s : State) (x : Nat) : State :=
  let t : Tile := s.tile 0
  let z : Strand := t.strand 0
  let z : Strand := { z with
    live := true, pc := 0#64, sw := setBit z.sw 31 false, line := none, pend := none, held := none, parked := none,
    wait := none, late := none, fixed := none, stall := 0, regAt := [] }
  let t : Tile := t.putBytes .code 0 (lineBytesFor x)
  (s.setTile 0 { t.setStrand 0 z with halted := false, chold := none, issuedAt := none, lastK := 3, appliedAt := none, divAt := 0 })

/-- The state with a hart word at physical address 0, and hart 0 in M-mode about to fetch it. -/
def State.placeHart (s : State) (w : Nat) : State :=
  let h : Hart := { s.harts[0] with pc := 0#64, mode := .m }
  { s with
    harts := s.harts.set 0 h
    hartsOn := true
    hbm := mwrite s.hbm 0 (leBytes 4 w)
    hbmBad := s.hbmBad.filter (fun g => g != 0)
    boot := { s.boot with
      noStack := s.boot.noStack.filter (fun k => k != 0), noIsland := s.boot.noIsland.filter (fun i => i != 0) } }

/-- The next turn is a mover's, at once. -/
def State.nextIs (s : State) (m : Mover) : State :=
  { s with
    agenda := [⟨0, m⟩]
    meters := { s.meters with addedAt := s.now }
    keys := s.keys.map (fun k => { k with pend := none })
    power := { s.power with on := true, held := 0, hold := false, holdV := false, periodAt := s.now }
    boot := { s.boot with stopped := false }
    parts := s.parts.map (fun p => { p with stopDue := none, dog := 0 }) }

end Machine
end Sys2Proof
end

