-- ==== Sys2Proof/Machine/Step.lean ====
section
/-! DEFINITION. `step`: one step of the machine; and the placing of one instruction where the next step fetches it. -/

namespace Sys2Proof
namespace Machine

/-- The outcome of the meaning of `i`, with what follows a step; `who` is the strand that has issued. -/
def State.close (s : State) (i : Instr) (who : Option (TileId × Fin 4)) : Host.Outcome State Fault Refusal → Host.Outcome State Fault Refusal
  | .next s1 => .next (s.finish (s.markIssue s1 i who))
  | .fault f => .fault f
  | .refused r => .refused r

/-- One step: a partition that is to be stopped is stopped first (R402); else the next mover moves. -/
def step (s : State) : Host.Outcome State Fault Refusal :=
  match s.dueStop with
  | some (p, c) => s.close (.partitionStop p c) none (exec (.partitionStop p c) { s with steps := s.steps + 1 })
  | none =>
    match s.nextDeed with
    | .still s1 => .next s1
    | .run i s1 who => s1.close i who (exec i s1)
    | .did s1 s2 => .next (s1.finish s2)
    | .stop f => .fault f
    | .refuse r => .refused r

/-- `s` with the instruction of bits `w` where the next step fetches it (log 14). -/
def State.withFetchWord (s : State) (nbits w : Nat) : State :=
  if nbits ≤ 32 then (s.placeHart w).nextIs (.hart 0) else (s.placeSlot w).nextIs (.strand 0 0)

end Machine
end Sys2Proof
end

