-- ==== Sys2Proof/Safety.lean ====
section
/-! DEFINITION. The terms of the claims: canonical memories, what one retired instruction leaves as it was, and what an
instruction gives. -/

namespace Sys2Proof
namespace Machine

/-! ## Canonical memories -/

/-- The byte memories of a tile are in canonical form. -/
def Tile.memOk (x : Tile) : Prop :=
  Memory.wf x.code = true ∧ Memory.wf x.data = true ∧ Memory.wf x.wgt = true ∧ Memory.wf x.act = true ∧ Memory.wf x.acc = true

/-- Every byte memory of the machine is in canonical form: HBM, the spaces of every tile, and the saved tiles of every launch. -/
def State.memOk (s : State) : Prop :=
  Memory.wf s.hbm = true ∧ (∀ e ∈ s.tiles, e.2.memOk)
  ∧ (∀ l ∈ s.launches, ∀ x, l.saved = some x → ∀ y ∈ x.tiles, y.tile.memOk)

/-! ## Whose instruction is executed -/

/-- The state in which a strand's instruction is executed: it is the issuing strand, and `x` are the instruction's 96 bits. -/
def State.issuing (s : State) (t : TileId) (k : Fin 4) (x : Slot96) : State := { s with cur := (t, k), ir := x }

/-- The state after a strand has entered a line (01 R37). -/
def State.entered (s : State) (t : TileId) (k : Fin 4) (l : HeldLine) : State :=
  s.modStrand t k (fun z => { z with line := some l, fixed := none })

/-- The state in which a hart's instruction is executed. -/
def State.ofHart (s : State) (h : Fin 384) : State := { s with curHart := h }

/-! ## What an instruction of a strand leaves as it was -/

/-- No prefix waits for the issuing strand's next instruction (01 R14, R31). -/
def State.noPfx (s : State) : Prop := swPP s.me.sw = false

/-- `t` differs from `s` in the tile of the issuing strand only: no other tile, no register or memory of the wafer outside the
tiles, no message and no request. -/
structure InTile (s t : State) : Prop where
  machine : t = { s with tiles := t.tiles }
  tiles   : ∀ u, u ≠ s.ct → t.tile u = s.tile u

/-- `t` is `s` after one instruction of the issuing strand that changes registers only: it goes on at `pc` in the line `ln`, its
status word is `sw`, its register r holds `rf r`, RETIRED has counted it (01 R25), and nothing else has changed: no other register
or strand, no control word, no byte of any memory, no blank, lock, window, trigger, queue or engine. -/
structure Retired (s t : State) (pc sw : Word) (ln : Option HeldLine) (rf : Reg → Word) : Prop extends InTile s t where
  tile    : t.my = { s.my with
    strands := t.my.strands, cw := { s.my.cw with retired := (s.my.cw.retired + 1) % 2 ^ 64 } }
  strands : ∀ j, j ≠ s.ck → t.my.strand j = s.my.strand j
  me      : t.me = { s.me with pc := pc, sw := sw, line := ln, regs := t.me.regs, wait := none, fixed := none }
  regs    : ∀ r, t.reg r = rf r

/-- The registers of the issuing strand with one of them replaced. -/
def State.regsWith (s : State) (d : Reg) (v : Word) : Reg → Word := fun r => if r = d then v else s.reg r

/-- An instruction gives the registers `rf` and goes on at next(PC): it answers a next state, every status bit is as before, and
nothing else has changed. -/
def GivesRegs (s : State) (i : Instr) (rf : Reg → Word) : Prop :=
  ∃ t, exec i s = .next t ∧ Retired s t (nextPc s.me.pc) s.me.sw s.me.line rf

/-- An instruction gives `v` in register `d`, and changes nothing else. -/
def Gives (s : State) (i : Instr) (d : Reg) (v : Word) : Prop := GivesRegs s i (s.regsWith d v)

/-- An instruction goes on at next(PC) and changes nothing: no register, no status bit, no byte. -/
def Passes (s : State) (i : Instr) : Prop := GivesRegs s i s.reg

/-- A scalar floating-point instruction gives `v` in register `d`, sets the flags `fl` beside those that are set, uses `n` values of
the tile's generator, and changes nothing else; a prefix is spent. -/
def FpGives (s : State) (i : Instr) (d : Reg) (v : Word) (fl : FpFlags) (n : Nat) : Prop :=
  ∃ t, exec i s = .next t ∧ Retired (s.modMy (fun x => x.rngAdvance n)) t (nextPc s.me.pc) (swOr (swClearPP s.me.sw) fl)
    s.me.line (s.regsWith d v)

/-- An instruction turns `s` into `s'`, gives the registers `rf` and goes on at next(PC): beyond what lies between `s` and `s'`, nothing
has changed. -/
def Changes (s : State) (i : Instr) (s' : State) (rf : Reg → Word) : Prop :=
  ∃ t, exec i s = .next t ∧ Retired s' t (nextPc s.me.pc) s.me.sw s.me.line rf

/-- The tile of the issuing strand with one blank replaced. -/
def State.withBlank (s : State) (n : Fin 64) (e : Blank) : State := s.modMy (fun x => { x with blanks := x.blanks.set n e })

/-- A byte of a local space of a tile. -/
def State.byteAt (s : State) (t : TileId) (sp : Spc) (o : Nat) : Byte := (s.tile t).byte sp o

/-! ## Remote accesses -/

/-- The strand of an access may send it now: it has not been sent, no prefix waits, and its checks and waits pass. -/
structure Sends (s : State) (a : RAcc) : Prop where
  fresh  : ∀ w, s.me.wait = some w → w.kind ≠ .reply ∧ w.kind ≠ .gate ∧ w.kind ≠ .counter
  noPfx  : s.noPfx
  addr   : s.addrChk a = .ok
  class_ : s.wChk a.wc = .ok
  rel    : s.relChk a.rel = .ok
  limit  : a.post = true → s.limitChk = .ok
  own    : a.post = false → s.ownWriteChk a.virt a.addr a.op.size = .ok

/-- `t` is `s` after a request has left the issuing strand, which waits for its answer: no register, no PC, no byte has changed. -/
structure Asks (s t : State) (r : Req) : Prop where
  machine : t = { s with tiles := t.tiles, plane := s.plane ++ [r], fresh := t.fresh }
  tiles   : ∀ u, u ≠ s.ct → t.tile u = s.tile u
  tile    : t.my = { s.my with strands := t.my.strands }
  strands : ∀ j, j ≠ s.ck → t.my.strand j = s.my.strand j
  me      : t.me = { s.me with wait := t.me.wait }
  waits   : ∃ w, t.me.wait = some w ∧ w.req = some r.id
  sender  : r.id = s.fresh ∧ r.tile = s.ct ∧ r.slot = s.ck ∧ r.uid = s.me.uid ∧ r.phase = .out ∧ r.drain = none

/-- `t` is `s` after a posted access has left the issuing strand: it is counted in the tile's counters, and the instruction has
retired. -/
structure PostsOne (s t : State) (r : Req) (q : Posted) : Prop where
  machine : t = { s with tiles := t.tiles, plane := s.plane ++ [r], fresh := s.fresh + 1 }
  tiles   : ∀ u, u ≠ s.ct → t.tile u = s.tile u
  tile    : t.my = { s.my with
    strands := t.my.strands, cw := { s.my.cw with retired := (s.my.cw.retired + 1) % 2 ^ 64 }, posted := s.my.posted ++ [q] }
  strands : ∀ j, j ≠ s.ck → t.my.strand j = s.my.strand j
  me      : t.me = { s.me with pc := nextPc s.me.pc, wait := none, fixed := none }
  sender  : r.id = s.fresh ∧ r.tile = s.ct ∧ r.slot = s.ck ∧ r.uid = s.me.uid ∧ r.phase = .out ∧ r.drain = none ∧ q.id = r.id

/-- A replying form sends one request that says this. -/
def Requests (s : State) (i : Instr) (virt : Bool) (addr : Word) (op : ReqOp) (d : Reg) (acq : Bool) (tag : Half) : Prop :=
  ∃ t r, exec i s = .next t ∧ Asks s t r ∧ r.virt = virt ∧ r.addr = addr ∧ r.op = op ∧ r.d = d ∧ r.acq = acq ∧ r.tag = tag
    ∧ r.post = false

/-- A posted form sends one request that says this, counted under the colour and in the class of its address. -/
def PostsRequest (s : State) (i : Instr) (virt : Bool) (addr : Word) (op : ReqOp) (col : Fin 8) (tag : Half) : Prop :=
  ∃ t r q, exec i s = .next t ∧ PostsOne s t r q ∧ r.virt = virt ∧ r.addr = addr ∧ r.op = op ∧ r.tag = tag ∧ r.post = true
    ∧ q.col = col ∧ q.cls = (if virt then .edge else if s.ownChip (gChip addr) then .tile else .net)

/-! ## Control transfers -/

/-- May a transfer enter at `pc` (01 R36)? A line that fails the checks of R37 is refused at its entry only. -/
def State.mayEnter (s : State) (pc : Word) : Bool :=
  pcOk pc && (match s.my.enterAt pc with
    | .ok l => lineTarget l.bits (field pc 0 3)
    | _ => true)

/-- The line held after a transfer. -/
def State.lineAfter (s : State) (pc : Word) : Option HeldLine :=
  match s.my.enterAt pc with
  | .ok l => some l
  | _ => none

/-- A transfer goes on at `pc` with the registers `rf`, cannot issue in the next 2 clks (02 R42), and changes nothing else; where it may
not enter there, it takes *control flow* with TVAL the target and has no effect. What a target line fails is raised at the target, behind
the transfer (02 R38): *fetch bounds*, *illegal line*, or on a parity mismatch the hold of the tile's strands (01 R40). -/
def Goes (s : State) (i : Instr) (pc : Word) (rf : Reg → Word) : Prop :=
  let z := s.modMe (fun z => { z with stall := s.now + 3 })
  (s.mayEnter pc = true → ∃ t, Retired z t pc s.me.sw (s.lineAfter pc) rf
    ∧ ((s.lineAfter pc).isSome = true → exec i s = .next t)
    ∧ (s.my.enterAt pc = .bounds → exec i s = .next (t.takeTrapAt s.ct s.ck ⟨.fetchBounds, pc, pc⟩))
    ∧ (∀ w, s.my.enterAt pc = .bad w →
        exec i s = .next (t.takeTrapAt s.ct s.ck ⟨.illegalLine, BitVec.ofNat 64 (lineOf pc), w.setWidth 64⟩))
    ∧ (s.my.enterAt pc = .parity → ∃ u, exec i s = .next u ∧ u.my.chold = some ⟨s.ck, lineOf pc⟩ ∧ u.me = t.me
        ∧ u.notices = t.notices ++ [.codeCheck s.ct (BitVec.ofNat 64 (lineOf pc))]))
  ∧ (s.mayEnter pc = false → exec i s = .next (s.trapHere .controlFlow pc))

/-! ## Traps -/

/-- The strand's traps enter the handler at once: it is in task mode, no other strand of its tile is in handler mode, and the tile is
not halted and does not halt in this clk (R28, R366). -/
def State.entersHandler (s : State) (t : TileId) (k : Fin 4) : Prop :=
  swMode (s.strand t k).sw = false ∧ (s.tile t).otherInHandler k = false ∧ (s.tile t).halting s.now = false

/-- SW after a trap entry, bit by bit (01 R28): SPP takes PP, PP is 0, PM takes MODE, MODE is handler, and the rest is as before. -/
def swEntered (sw : Word) : Word :=
  sw.extractLsb' 32 32 ++ 0#1 ++ 1#1 ++ sw.extractLsb' 30 1 ++ sw.extractLsb' 31 1 ++ sw.extractLsb' 0 28

/-- SW after TRET, bit by bit (01 R29): MODE takes PM, PP takes SPP, PXL takes TPXL, SPP is 0, and the rest is as before. -/
def swReturned (sw tpxl : Word) : Word :=
  tpxl.extractLsb' 0 32 ++ sw.extractLsb' 28 1 ++ sw.extractLsb' 29 1 ++ sw.extractLsb' 29 1 ++ 0#1 ++ sw.extractLsb' 0 28

/-- `t` is `s` after the trap `r` of strand `k` of tile `u` has entered the handler: the trap words hold it, the strand goes on at
TVEC, and nothing else has changed. -/
structure Entered (s t : State) (u : TileId) (k : Fin 4) (r : TrapRec) : Prop where
  machine : t = { s with tiles := t.tiles }
  tiles   : ∀ v, v ≠ u → t.tile v = s.tile v
  tile    : t.tile u = { s.tile u with
    strands := (t.tile u).strands
    cw := { (s.tile u).cw with
      tepc := r.epc, tval := r.tval, tcause := BitVec.ofNat 64 (64 * k.val + r.cause.code)
      tpxl := ((s.strand u k).sw.extractLsb' 32 32).setWidth 64 } }
  strands : ∀ j, j ≠ k → (t.tile u).strand j = (s.tile u).strand j
  me      : t.strand u k = { s.strand u k with
    pc := (s.tile u).cw.tvec, sw := swEntered (s.strand u k).sw, line := none, pend := none, wait := none, fixed := none }

/-! ## Local stores -/

/-- First byte and number of the bytes that a local store writes: its own, where they lie for its tag; and where it is the first write
of its tag to a granule of a tagged window, the whole granule of the pool that it fills (14 R341, R342). -/
def State.storedAt (s : State) (a : LAcc) : Nat × Nat :=
  match s.needsBead s.ct a.sp a.addr.toNat a.tag with
  | none => (s.place s.ct a.sp a.addr.toNat a.tag, a.size)
  | some (w, e) => match s.my.poolFree w e.plv.toNat with
    | i :: _ => (e.psb.toNat + 64 * i, 64)
    | [] => (a.addr.toNat, a.size)

/-- `t` is `s` after one instruction of the issuing strand that stores the access `a` and gives the registers `rf` and the status word
`sw`: every byte of every space outside the stored ones is as before, and so is every other strand, word, queue, lock and engine;
what is stored to CTL goes to the window registers and trigger slots (08 R204). -/
structure Stored (s t : State) (a : LAcc) (sw : Word) (rf : Reg → Word) : Prop extends InTile s t where
  tile    : t.my = { s.my with
    strands := t.my.strands, cw := { s.my.cw with retired := (s.my.cw.retired + 1) % 2 ^ 64 }
    code := t.my.code, data := t.my.data, wgt := t.my.wgt, act := t.my.act, acc := t.my.acc
    poison := t.my.poison, beads := t.my.beads, windows := t.my.windows, trigs := t.my.trigs }
  control : a.sp ≠ .ctl → t.my.windows = s.my.windows ∧ t.my.trigs = s.my.trigs
  poison  : ∀ q ∈ t.my.poison, q ∈ s.my.poison
  strands : ∀ j, j ≠ s.ck → t.my.strand j = s.my.strand j
  me      : t.me = { s.me with pc := nextPc s.me.pc, sw := sw, regs := t.me.regs, wait := none, fixed := none }
  regs    : ∀ r, t.reg r = rf r
  bytes   : ∀ sp i, ¬(sp = a.sp ∧ (s.storedAt a).1 ≤ i ∧ i < (s.storedAt a).1 + (s.storedAt a).2) →
    t.my.byte sp i = s.my.byte sp i

/-! ## Engine commands -/

/-- Every check of a list passes. -/
def ChecksPass (cs : List Chk) : Prop := ∀ c ∈ cs, c = .ok

/-- The first check of a list that does not pass decides (02 R58): the instruction traps or waits, and has no other effect. -/
def Decided (s : State) (i : Instr) (cs : List Chk) : Prop :=
  ∀ pre post c, cs = pre ++ c :: post → ChecksPass pre →
    (c = .illegal → exec i s = .next s.trapIllegal)
    ∧ (∀ k v, c = .trap k v → exec i s = .next (s.trapHere k v))
    ∧ (∀ w, c = .wait w → exec i s = .next (s.block w))

/-- `t` is `s` after the issuing strand has issued the command `c` of the engine that HOLD calls `hold` (05 R133 to R137): the command
is the last of queue `q`, an entry is reserved for its token, its operands are locked, its source blanks drain and its destination
blanks fill, the strand goes on at next(PC) without its prefix, and nothing else has changed. -/
structure Issued (s t : State) (hold : Nat) (q : Fin 4) (os : List Opd) (c : Cmd) : Prop where
  machine : t = { s with tiles := t.tiles, fresh := t.fresh }
  tiles   : ∀ u, u ≠ s.ct → t.tile u = s.tile u
  tile    : t.my = { s.my with
    strands := t.my.strands, cw := { s.my.cw with retired := (s.my.cw.retired + 1) % 2 ^ 64 }
    blanks := t.my.blanks, locks := t.my.locks
    cmdq := s.my.cmdq.set q (s.my.cmdq[q] ++ [.cmd c])
    resv := if c.tok.n then s.my.resv.set q (s.my.resv[q] + 1) else s.my.resv
    hold := s.my.hold.set q (if c.isQ then some s.ck else none) }
  strands : ∀ j, j ≠ s.ck → t.my.strand j = s.my.strand j
  me      : t.me = { s.me with pc := nextPc s.me.pc, sw := swClearPP s.me.sw, wait := none, fixed := none }
  blanks  : ∀ n, n ∉ srcBlanks os → n ∉ dstBlanks os → t.my.blanks[n] = s.my.blanks[n]
  drains  : ∀ n, n ∈ srcBlanks os → (t.my.blanks[n]).st = .draining ∧ (t.my.blanks[n]).hold = hold
  fills   : ∀ n, n ∈ dstBlanks os → (t.my.blanks[n]).st = .filling ∧ (t.my.blanks[n]).hold = hold
    ∧ (t.my.blanks[n]).tok = c.tok.tok ∧ (t.my.blanks[n]).err = false
  locks   : (∀ l ∈ s.my.lockList, l ∈ t.my.lockList) ∧ (∀ l ∈ t.my.lockList, l ∈ s.my.lockList ∨ l.owner = c.id)
    ∧ ∀ r ∈ lockRanges os, ⟨c.id, hold, r.2.2.2, r.1, r.2.1, r.2.2.1⟩ ∈ t.my.lockList

/-- An engine instruction issues the command `c`, beyond what lies between `s` and `s'`; its identity and the pool granules that it
reserves are given at the issue. -/
def Issues (s : State) (i : Instr) (s' : State) (hold : Nat) (q : Fin 4) (os : List Opd) (c : Cmd) : Prop :=
  ∃ t d, exec i s = .next t ∧ d = { c with id := d.id, pool := d.pool } ∧ Issued s' t hold q os d

/-- The vector forms (05 R139 to R156). -/
def isVector : Instr → Bool
  | .vadd _ | .vsub _ | .vmul _ | .vfma _ | .vmin _ | .vmax _ | .vabs _ | .vneg _ | .vcvt _ | .vcmp _ _ | .vsel _ | .vand _ | .vor _
  | .vxor _ | .vshl _ _ _ _ | .vshr _ _ _ _ _ | .vmov _ | .vbcast _ _ | .viota _ _ _ _ | .vgath _ | .vscat _ | .vpack _ | .vexp _
  | .vlog _ | .vrcp _ | .vrsqrt _ | .vtanh _ | .vsigm _ | .vred _ _ _ | .vscan _ _ _ _ | .vsamp _ _ _ _ _ | .vdraw _ _ _
  | .vtopk _ _ _ _ _ => true
  | _ => false

/-- The matrix forms (06 R167 to R175). -/
def isMatrix : Instr → Bool
  | .mcfg _ _ _ | .mload _ _ _ | .mzero _ | .mmul _ _ _ _ | .mmulRs _ _ _ | .mdrain _ _ _ | .mdrainRem _ | .mdrainTree _ _ _ => true
  | _ => false

/-! ## The end of a launch -/

/-- The launch `l` that held partition `p` has ended with a status (12 R309, R311): no launch holds the partition, no strand of its
tiles is resident, and the event of its end is the last that waits for the ring of its device. -/
structure Ended (s u : State) (p : Fin 24) (l : Launch) (status : Nat) : Prop where
  free  : (u.parts[p]).cur = none ∧ (u.parts[p]).stopDue = none ∧ (u.parts[p]).draining = false ∧ (u.parts[p]).saving = false
  gone  : ∀ x ∈ u.launches, x.id ≠ l.id
  event : ∃ e, (u.vdevs[l.vdev]).events = (s.vdevs[l.vdev]).events ++ [e] ∧ e.gen = l.gen ∧ e.status = status ∧ e.seq = l.seq
    ∧ e.utag = l.hdr.utag ∧ e.clks = BitVec.ofNat 64 l.charged
  tiles : ∀ t, (s.parts[p]).covers t = true → (u.tile t).ready = [] ∧ ∀ k, (u.strand t k).live = false

/-! ## Prefixes -/

/-- The instructions that a prefix may stand before (02 R54): the scalar floating-point forms, the vector forms, MLOAD,
MMUL, MDRAIN, EGEMV and RTRE. -/
def takesPrefix : Instr → Bool
  | .fadd _ | .fsub _ | .fmul _ | .fma _ _ | .fdiv _ | .fsqrt _ _ _ | .fmin _ | .fmax _ | .fcmp _ _ | .fcvt _ _ _ _
  | .fclass _ _ _ | .fsgn _ _ => true
  | .vadd _ | .vsub _ | .vmul _ | .vfma _ | .vmin _ | .vmax _ | .vabs _ | .vneg _ | .vcvt _ | .vcmp _ _ | .vsel _ | .vand _ | .vor _
  | .vxor _ | .vshl _ _ _ _ | .vshr _ _ _ _ _ | .vmov _ | .vbcast _ _ | .viota _ _ _ _ | .vgath _ | .vscat _ | .vpack _ | .vexp _
  | .vlog _ | .vrcp _ | .vrsqrt _ | .vtanh _ | .vsigm _ | .vred _ _ _ | .vscan _ _ _ _ | .vsamp _ _ _ _ _ | .vdraw _ _ _
  | .vtopk _ _ _ _ _ => true
  | .mload _ _ _ | .mmul _ _ _ _ | .mmulRs _ _ _ | .mdrain _ _ _ | .mdrainRem _ | .mdrainTree _ _ _ => true
  | .egemv _ _ _ _ | .rtre _ _ _ _ => true
  | _ => false

/-! ## Widths as bit vectors -/

/-- The low w bits of a word (04 R95). -/
def narrow (w : Width) (x : Word) : BitVec (wBits w) := x.setWidth (wBits w)

/-- ext (04 R95): sign-extended with `.s`, else zero-extended. -/
def widen (sg : Bool) {n : Nat} (x : BitVec n) : Word := if sg then x.signExtend 64 else x.setWidth 64

/-- ext from w bits to 2w bits. -/
def twice (sg : Bool) (w : Width) (x : BitVec (wBits w)) : BitVec (2 * wBits w) :=
  if sg then x.signExtend (2 * wBits w) else x.setWidth (2 * wBits w)

end Machine
end Sys2Proof
end

