-- ==== Sys2Proof/Certificates/Slice0/Obligations.lean ====
section
/-! DEFINITION. The statements about the machine, by chapter of the spec. `noPfx` says that no prefix waits for the issuing strand's
instruction; `Gives`, `Passes` and `Retired` say the frame as well. -/

open Sys2Proof Sys2Proof.Machine

/-! ## Encoding (02 R46 to R58, 12 R305) -/

/-- Every well-formed instruction that has an encoding is decoded from it, with every operand as it was. -/
def Obligations.EncodedInstructionDecodes : Prop :=
  (∀ i x, WellFormed i = true → encodeSlot i = some x → decodeSlot x = some i)
  ∧ (∀ a d, ∃ w, encodeHart (.lnch a d) = some w ∧ decodeHart w = some (.lnch a d))

/-- What the decoder accepts is well-formed, and its encoding is the word that was read: no bit of a slot is ignored (R49, R57). -/
def Obligations.DecodedWordReencodes : Prop :=
  (∀ x i, decodeSlot x = some i → WellFormed i = true ∧ encodeSlot i = some x)
  ∧ (∀ w i, decodeHart w = some i → encodeHart i = some w)

/-- Words written out from the encodings of the spec, one or two of a family. -/
def Obligations.SampleWordsDecode : Prop :=
  decodeSlot 0x1000_3120_0300_0000_0000_0000#96 = some (.add ⟨3, 1, .reg 2, .b64, false⟩)
  ∧ decodeSlot 0x4002_0340_0300_0000_0000_0182#96 = some (.br .lt 3 4 0x182#48)
  ∧ decodeSlot 0x5000_4D00_8300_0000_0000_0010#96 = some (.ld ⟨4, 13, .imm 0x10#48, .b64, .data, .none⟩ false)
  ∧ decodeSlot 0x0100_0000_0000_0000_0000_0100#96 = some (.pfx 0x100#32)
  ∧ decodeSlot 0#96 = some .nop
  ∧ decodeHart 0x0005_850B#32 = some (.lnch 11 10)

/-- An opcode of no row of Table 1 is an instruction of its own, which takes *illegal instruction* with TVAL the slot's bits
[95:64] (02 R57, 01 R27); so does a slot whose form or operands no encoding has. -/
def Obligations.UnassignedOpcodeTraps : Prop :=
  (∀ x : Slot96, opcUnassigned (x.extractLsb' 88 8) = true → decodeSlot x = some (.unassignedOpcode x))
  ∧ (∀ (s : State) (w : Slot96), swMode s.me.sw = false → s.my.otherInHandler s.ck = false → s.my.halting s.now = false →
      ∃ t, exec (.unassignedOpcode w) s = .next t ∧ InTile s t
        ∧ t.my.cw.tval = (s.ir.extractLsb' 64 32).zeroExtend 64 ∧ t.my.cw.tepc = s.me.pc
        ∧ t.my.cw.tcause = BitVec.ofNat 64 (64 * s.ck.val + 0x01) ∧ t.me.pc = s.my.cw.tvec)
  ∧ (∀ (s : State) (t : TileId) (k : Fin 4) (l : HeldLine), s.cur = (t, k) →
      decodeSlot (lineSlot l.bits (field s.me.pc 0 3)) = none →
      ∃ s1, s.issueSlot t k l = .stop s1.trapIllegal ∧ s1 = { s with ir := lineSlot l.bits (field s.me.pc 0 3) })

/-! ## One step -/

/-- A step of a strand whose turn it is and that neither stalls (02 R42, 04 R93) nor goes after its clk's arrival (07 R180) runs the
instruction that its line holds at its PC, and a step of a unit that is not put off runs that unit's step. `close` adds what follows
every step: the issue stage of the tile that has issued (01 R18), held gates and waits on words, the network engines, and the watchdogs.
The line is the one that the strand holds, or the one that its tile's CODE holds, entered by the checks of 01 R37. The mover is what is
due first: a deferred key generation (18 R410), a watchdog, the end of a period of the power controller (20 R421) and the adding of the
meters' shadows (18 R408); else it is what the agenda or the schedule names (logs 1, 2, 65). A hart runs LNCH as its instruction, and a
word of its base instruction set as `hartBase` says (log 6). -/
def Obligations.StepRunsDecodedInstruction : Prop :=
  (∀ (s : State) (t : TileId) (k : Fin 4) (l : HeldLine) (i : Instr),
    let b := s.begin
    let z := b.strand t k
    let x := lineSlot l.bits (field z.pc 0 3)
    s.dueStop = none → s.pick.who = some (.strand t k) →
    let c := b.issuing t k x
    let d := (b.entered t k l).issuing t k x
    b.noIssue = false → (s.pick.due || b.inTurn t k) = true → b.stalls t k i = false →
    b.ready t k = true → z.late = none → decodeSlot x = some i →
    (z.line = some l → l.addr = lineOf z.pc → pcOk z.pc = true → z.pc.toNat < 0x10000 →
      (s.pick.due || !c.afterArrival t i) = true → step s = c.close i (some (t, k)) (exec i c))
    ∧ (z.line = none → (b.tile t).enterAt z.pc = .ok l →
      (s.pick.due || !d.afterArrival t i) = true → step s = d.close i (some (t, k)) (exec i d)))
  ∧ (∀ (s : State) (e : Instr), s.dueStop = none → s.pick.who = some (.event e) → isUnitStep e = true →
      (s.begin.power.on || e == .coldBoot) = true → (!s.begin.inReset || isModuleStep e) = true →
      (!s.begin.boot.stopped || isResetStep e) = true → s.begin.putOff e s.pick.due = false →
      step s = s.begin.close e none (exec e s.begin))
  ∧ (∀ (s : State) (h : Fin 384) (pa : Nat),
      let b := s.begin.ofHart h
      let w := BitVec.ofNat 32 (mval b.hbm pa 4)
      s.dueStop = none → s.pick.who = some (.hart h) → b.power.on = true → b.inReset = false → b.boot.stopped = false →
      b.hartsOn = true → b.boot.noIsland.contains (h.val / 8) = false → b.hartAcc b.hart b.hart.pc .fetch 4 = .ok pa →
      (∀ i, isCustom0 w = true → decodeHart w = some i → step s = b.close i none (exec i b))
      ∧ (∀ u, isCustom0 w = false → b.hartBase w = some u → step s = .next (b.finish u)))
  ∧ (∀ (s : State) (p : Fin 24) (c : StopCause), s.dueStop = some (p, c) →
      step s = s.close (.partitionStop p c) none (exec (.partitionStop p c) { s with steps := s.steps + 1 }))
  ∧ (∀ (s t : State) (i : Instr) (who : Option (TileId × Fin 4)),
      s.close i who (.next t) = .next (s.finish (s.markIssue t i who)) ∧ s.markIssue t i none = t)
  ∧ (∀ (s : State) (m : Mover) (l : List Turn), s.agenda = ⟨0, m⟩ :: l →
      ((s.asleep = true ∨ s.overdue = none) → s.pick.who = some m ∧ s.pick.due = false)
      ∧ (∀ e, s.asleep = false → s.overdue = some e → s.pick.who = some (.event e) ∧ s.pick.due = true)
      ∧ (s.asleep = false → (∀ v : Fin 64, (s.keys[v]).pend = none) → s.dogDue = none →
        (s.power.periodAt + 14000 ≤ s.now → ∃ x tmax, s.overdue = some (.powerControlPeriod x tmax))
        ∧ (s.now < s.power.periodAt + 14000 → s.meters.addedAt + 14000 ≤ s.now → s.overdue = some .meterShadowAdd)
        ∧ (s.now < s.power.periodAt + 14000 → s.now < s.meters.addedAt + 14000 → s.overdue = none)))

/-- A line's parities are even: bit 18+i of the line word is the XOR of the bits of slot i, and bit 17 is the XOR of the word's
bits [31:18] and [16:0] (01 R35); five NOPs, the line of zeros, pass. -/
def Obligations.LineParityIsEven : Prop :=
  (∀ l : Line512, lineParityOk l = true ↔
    (∀ i, i < 5 → (lineWord l).getLsbD (18 + i) = (List.range 96).foldl (fun p j => xor p ((lineSlot l i).getLsbD j)) false)
    ∧ (lineWord l).getLsbD 17 = xor ((List.range 17).foldl (fun p j => xor p ((lineWord l).getLsbD j)) false)
        ((List.range 14).foldl (fun p j => xor p ((lineWord l).getLsbD (18 + j))) false))
  ∧ lineParityOk 0#512 = true
  ∧ (∀ i, i < 5 → decodeSlot (lineSlot 0#512 i) = some .nop ∧ lineTarget 0#512 i = false)
  ∧ (∀ j, j < 4 → (lineWord 0#512).getLsbD (23 + j) = false)

/-! ## Canonical memories -/

/-- Every step keeps every byte memory in canonical form: HBM, the spaces of the tiles, and the saved tiles. -/
def Obligations.StepKeepsMemoriesCanonical : Prop :=
  ∀ s t : State, s.memOk → step s = .next t → t.memOk

/-- The memories at reset are canonical. -/
def Obligations.ResetMemoriesCanonical : Prop := State.reset.memOk

/-! ## Integer instructions (04 R94 to R102) -/

/-- ADD, SUB, MUL and MULH on the low w bits. DIV and REM truncate; a division by zero gives w ones and the dividend. AND, OR, XOR,
ANDN and SEL. SHL, SHR, SRA and ROT, by operand b modulo w. MIN, MAX, SLT and SEQ. -/
def Obligations.IntegerInstructions : Prop :=
  (∀ (s : State) (o : Alu), s.noPfx →
    let a := narrow o.w (s.reg o.a)
    let b := narrow o.w (s.src o.b)
    Gives s (.add o) o.d (widen o.s (a + b))
    ∧ Gives s (.sub o) o.d (widen o.s (a - b))
    ∧ Gives s (.mul o) o.d (widen o.s (a * b))
    ∧ Gives s (.mulh o) o.d (widen o.s ((twice o.s o.w a * twice o.s o.w b).extractLsb' (wBits o.w) (wBits o.w))))
  ∧ (∀ (s : State) (o : Alu), s.noPfx →
    let a := narrow o.w (s.reg o.a)
    let b := narrow o.w (s.src o.b)
    Gives s (.div o) o.d (widen o.s (if b = 0 then BitVec.allOnes (wBits o.w) else if o.s then a.sdiv b else a / b))
    ∧ Gives s (.rem o) o.d (widen o.s (if b = 0 then a else if o.s then a.srem b else a % b)))
  ∧ (∀ (s : State) (o : Alu) (c : Reg), s.noPfx →
    let a := narrow o.w (s.reg o.a)
    let b := narrow o.w (s.src o.b)
    Gives s (.and o) o.d (widen o.s (a &&& b))
    ∧ Gives s (.or o) o.d (widen o.s (a ||| b))
    ∧ Gives s (.xor o) o.d (widen o.s (a ^^^ b))
    ∧ Gives s (.andn o) o.d (widen o.s (a &&& ~~~b))
    ∧ Gives s (.sel o c) o.d (widen o.s (if s.reg c ≠ 0#64 then a else b)))
  ∧ (∀ (s : State) (o : Alu), s.noPfx →
    let a := narrow o.w (s.reg o.a)
    let n := (s.src o.b).toNat % wBits o.w
    Gives s (.shl o) o.d (widen o.s (a <<< n))
    ∧ Gives s (.shr o) o.d (widen o.s (a >>> n))
    ∧ Gives s (.sra o) o.d (widen o.s (a.sshiftRight n))
    ∧ Gives s (.rot o) o.d (widen o.s (a.rotateLeft n)))
  ∧ (∀ (s : State) (o : Alu), s.noPfx →
    let a := narrow o.w (s.reg o.a)
    let b := narrow o.w (s.src o.b)
    Gives s (.min o) o.d (widen o.s (if (if o.s then a.sle b else a.ule b) then a else b))
    ∧ Gives s (.max o) o.d (widen o.s (if (if o.s then a.sle b else a.ule b) then b else a))
    ∧ Gives s (.slt o) o.d (if (if o.s then a.slt b else a.ult b) then 1#64 else 0#64)
    ∧ Gives s (.seq o) o.d (if a = b then 1#64 else 0#64))

/-- CLZ, CTZ and POPC of the low w bits. BFX and BFI, bit by bit, for every field descriptor. LI, ADDX and SUBX. GTA composes a global
tile address of this wafer; with `.pr` the coordinates are relative to the partition, and coordinates outside it name no tile. -/
def Obligations.BitsAndImmediates : Prop :=
  (∀ (s : State) (o : Alu1), s.noPfx →
    let a := narrow o.w (s.reg o.a)
    let w := wBits o.w
    (∃ n, n ≤ w ∧ Gives s (.clz o) o.d (BitVec.ofNat 64 n) ∧ (∀ i, i < n → a.getLsbD (w - 1 - i) = false)
      ∧ (n < w → a.getLsbD (w - 1 - n) = true))
    ∧ (∃ n, n ≤ w ∧ Gives s (.ctz o) o.d (BitVec.ofNat 64 n) ∧ (∀ i, i < n → a.getLsbD i = false)
      ∧ (n < w → a.getLsbD n = true))
    ∧ Gives s (.popc o) o.d (BitVec.ofNat 64 ((List.range w).countP (fun i => a.getLsbD i))))
  ∧ (∀ (s : State) (d a c : Reg) (b : Src) (sg : Bool), s.noPfx →
    let v := s.src b
    let pos := field v 0 6
    let len := if field v 8 6 = 0 then 64 else field v 8 6
    let n := min len (64 - pos)
    (∃ x, Gives s (.bfx d a b sg) d x
      ∧ ∀ i, i < 64 → x.getLsbD i = if i < n then (s.reg a).getLsbD (pos + i) else sg && (s.reg a).getLsbD (pos + n - 1))
    ∧ (∃ x, Gives s (.bfi d a b c) d x
      ∧ ∀ i, i < 64 → x.getLsbD i = if pos ≤ i ∧ i < pos + n then (s.reg c).getLsbD (i - pos) else (s.reg a).getLsbD i))
  ∧ (∀ (s : State) (d a : Reg) (b : Src) (c : Option Reg) (v : BitVec 48), s.noPfx →
    let x := s.reg a
    let y := s.src b
    let k := match c with | some r => b2n ((s.reg r).getLsbD 0) | none => 0
    Gives s (.li d v true false) d (v.signExtend 64)
    ∧ Gives s (.li d v false false) d (v.setWidth 64)
    ∧ Gives s (.li d v false true) d (v.extractLsb' 0 16 ++ (s.reg d).extractLsb' 0 48)
    ∧ Gives s (.addx d a b false c) d (x + y + BitVec.ofNat 64 k)
    ∧ Gives s (.addx d a b true c) d (if 2 ^ 64 ≤ x.toNat + y.toNat + k then 1#64 else 0#64)
    ∧ Gives s (.subx d a b false c) d (x - y - BitVec.ofNat 64 k)
    ∧ Gives s (.subx d a b true c) d (if x.toNat < y.toNat + k then 1#64 else 0#64))
  ∧ (∀ (s : State) (d a : Reg) (b : Src) (spc : Fin 8), s.noPfx →
    let row := (s.reg a).extractLsb' 8 8
    let col := (s.reg a).extractLsb' 0 8
    let ga := fun (r c : BitVec 8) =>
      0xFFF#12 ++ r ++ c ++ BitVec.ofFin (w := 3) spc ++ 0#9 ++ (s.src b).extractLsb' 0 24
    Gives s (.gta d a b spc false) d (ga row col)
    ∧ (∀ p, s.partOf s.ct = some p →
        Gives s (.gta d a b spc true) d
          (if (s.parts[p]).height ≤ row.toNat ∨ (s.parts[p]).width ≤ col.toNat then ga 0xFF#8 0xFF#8
            else ga (row + BitVec.ofNat 8 (s.parts[p]).row0) (col + BitVec.ofNat 8 (s.parts[p]).col0)))
    ∧ (s.partOf s.ct = none → Gives s (.gta d a b spc true) d (ga 0xFF#8 0xFF#8)))

/-- WIDX gives field j of the strand's WID, zero-extended, the fields lying from bit 0 up with the widths of WIDW; a field number
of 6 or 7 is refused as *illegal instruction* by the decoder. -/
def Obligations.WorkIdentifierField : Prop :=
  (∀ (s : State) (d : Reg) (j : Fin 6), s.noPfx →
    let width := fun i => field s.my.cw.widw (7 * i) 7
    let lo := ((List.range j.val).map width).sum
    ∃ x, Gives s (.widx d j) d x ∧ ∀ i, i < 64 → x.getLsbD i = (decide (i < width j.val) && s.me.wid.getLsbD (lo + i)))
  ∧ (∀ (f : Fields), f.opc = 0x2B#8 → 6 ≤ f.imm.toNat % 8 ∨ 8 ≤ f.imm.toNat ∨ f.i = true → decodeFields f = none)

/-! ## Scalar floating point (04 R103 to R107) -/

/-- The forms that round: the result of the exact operation, rounded once into the format under the instruction's mode; under SR one
value of the tile's generator is used (03 R76). FCVT between FP32, FP64 and the 64-bit integers. -/
def Obligations.FloatingPointArithmetic : Prop :=
  (∀ (s : State) (o : Fp) (c : Reg), let f := fpFmt o.dbl
    s.fpPfxOk f f f true = true →
    let md := rmodeOf s.roundCode
    let n := if md = .sr then 1 else 0
    let r := fun (v : Machine.Num) => roundNum f md (if md = .sr then drawHi s.my.rngCtr s.my.rngKey else 0)
      (f == 0 && swFR s.me.sw .c32) false v
    let g := fun (i : Instr) (d : Reg) (v : Machine.Num × FpFlags) =>
      FpGives s i d (BitVec.ofNat 64 (r v.1).1) (v.2 ||| (r v.1).2) n
    g (.fadd o) o.d (sumNum md [s.fpA o, s.fpB o])
    ∧ g (.fsub o) o.d (sumNum md [s.fpA o, (s.fpB o).neg])
    ∧ g (.fmul o) o.d (mulNum (s.fpA o) (s.fpB o))
    ∧ g (.fma o c) o.d (fmaNum md (s.fpA o) (s.fpB o) (s.fpVal o.dbl (s.reg c)))
    ∧ g (.fdiv o) o.d (divNum (s.fpA o) (s.fpB o))
    ∧ g (.fsqrt o.d o.a o.dbl) o.d (sqrtNum (s.fpVal o.dbl (s.reg o.a))))
  ∧ (∀ (s : State) (fn : CvtFn) (d a : Reg) (dbl : Bool),
    let k := cvtFormats fn dbl
    s.fpPfxOk k.2.2.1 0 k.2.2.2 true = true →
    let md := rmodeOf s.roundCode
    let v := readNum k.1 (k.1 == 0 && swFI s.me.sw .c32) (lowBits (s.reg a) (fwidth k.1))
    let r := roundNum k.2.1 md (if md = .sr then drawHi s.my.rngCtr s.my.rngKey else 0) (k.2.1 == 0 && swFR s.me.sw .c32) false v
    FpGives s (.fcvt fn d a dbl) d (BitVec.ofNat 64 r.1) r.2 (if md = .sr then 1 else 0))

/-- FMIN, FMAX, FCMP and FSGN: a selected operand, 1 or 0 by the relation, and the magnitude of a with the chosen sign. -/
def Obligations.FloatingPointSelection : Prop :=
  ∀ (s : State) (o : Fp) (rel : FRel), let f := fpFmt o.dbl
    s.fpPfxOk f f f false = true →
    let a := s.reg o.a
    let b := s.src o.b
    let sa := a.getLsbD (if o.dbl then 63 else 31)
    let sb := b.getLsbD (if o.dbl then 63 else 31)
    let sign := fun (q : Bool) => if o.dbl then BitVec.ofBool q ++ a.extractLsb' 0 63 else 0#32 ++ BitVec.ofBool q ++ a.extractLsb' 0 31
    FpGives s (.fmin o) o.d (exactCode f (minmaxNum false (s.fpA o) (s.fpB o)).1) (minmaxNum false (s.fpA o) (s.fpB o)).2 0
    ∧ FpGives s (.fmax o) o.d (exactCode f (minmaxNum true (s.fpA o) (s.fpB o)).1) (minmaxNum true (s.fpA o) (s.fpB o)).2 0
    ∧ FpGives s (.fcmp rel o) o.d (if (relNum rel (s.fpA o) (s.fpB o)).1 then 1#64 else 0#64) (relNum rel (s.fpA o) (s.fpB o)).2 0
    ∧ FpGives s (.fsgn .sgn o) o.d (sign sb) 0#5 0
    ∧ FpGives s (.fsgn .nsg o) o.d (sign !sb) 0#5 0
    ∧ FpGives s (.fsgn .xsg o) o.d (sign (sa ^^ sb)) 0#5 0

/-- FCLASS sets exactly one bit of d by the encoding as it stands, whatever FI32 is, and raises no flag. -/
def Obligations.FloatingPointClass : Prop :=
  ∀ (s : State) (d a : Reg),
    let k := fun (sign : Bool) (e f top : Nat) (quiet : Bool) =>
      if e = top then (if f = 0 then (if sign then 0 else 7) else if quiet then 9 else 8)
      else if e = 0 then (if f = 0 then (if sign then 3 else 4) else if sign then 2 else 5)
      else if sign then 1 else 6
    let x := s.reg a
    (s.fpPfxOk 0 0 0 false = true →
      FpGives s (.fclass d a false) d
        (BitVec.twoPow 64 (k (x.getLsbD 31) (field x 23 8) (field x 0 23) 255 (x.getLsbD 22))) 0#5 0)
    ∧ (s.fpPfxOk 10 10 10 false = true →
      FpGives s (.fclass d a true) d
        (BitVec.twoPow 64 (k (x.getLsbD 63) (field x 52 11) (field x 0 52) 2047 (x.getLsbD 51))) 0#5 0)

/-- A NaN operand of FADD, FSUB, FMUL and FDIV without a prefix, and with DRM = 0, gives the canonical NaN of the format, and NV exactly
when an operand is signalling (03 R78). Every code of E4M3, E5M2 and E2M1 that is no NaN has a value that rounds back to it in each of the
six modes of 03 R72, SR with every value of the generator, and with no flag. -/
def Obligations.NumberFormats : Prop :=
  (∀ (s : State) (o : Fp), s.noPfx → swDRM s.me.sw = 0 →
    let sig := fun (v : Machine.Num) => match v with | .nan q => q | _ => false
    let nv := if sig (s.fpA o) || sig (s.fpB o) then fNV else 0#5
    let v := if o.dbl then 0x7FF8000000000000#64 else 0x7FC00000#64
    ((∃ q, s.fpA o = .nan q) ∨ (∃ q, s.fpB o = .nan q)) →
      FpGives s (.fadd o) o.d v nv 0 ∧ FpGives s (.fsub o) o.d v nv 0 ∧ FpGives s (.fmul o) o.d v nv 0
      ∧ FpGives s (.fdiv o) o.d v nv 0)
  ∧ (∀ (c : Fin 256) (md : RMode) (r : Nat),
    let back := fun (f w : Nat) => ∀ v, decodeNum f (c.val % 2 ^ w) = v → v.isNan = false →
      roundNum f md r false false v = (c.val % 2 ^ w, 0#5)
    back 3 8 ∧ back 4 8 ∧ back 5 4)

/-- An E8M0 byte e has the value 2^(e−127) for e = 0x00 to 0xFE, and 0xFF is NaN (03 R68): a scaled element is its value times that
power of two. That a signalling NaN under the scale 0xFF is a quiet one is the model's choice (log 54). -/
def Obligations.BlockScaleValue : Prop :=
  (∀ (e : Nat) (n : Bool) (m : Nat) (x : Int), e ≤ 0xFE → scaleNum e (.fin n m x) = .fin n m (x + ((e : Int) - 127)))
  ∧ (∀ (e : Nat) (n : Bool), e ≤ 0xFE → scaleNum e (.inf n) = .inf n)
  ∧ (∀ v : Machine.Num, scaleNum 0xFF v = .nan false)

/-! ## System instructions (04 R115 to R122, 01 R14, R24 to R32) -/

/-- NOP, RDCYC and PFX. A PFX while a prefix waits, and a prefixed instruction that accepts none, take *illegal instruction*, with PP
as it was. -/
def Obligations.SystemAndPrefix : Prop :=
  (∀ (s : State) (d c : Reg) (p : BitVec 32), s.noPfx →
    Passes s .nop
    ∧ Gives s (.rdcyc d none) d (BitVec.ofNat 64 s.my.cw.cyc)
    ∧ GivesRegs s (.rdcyc d (some c)) (fun r =>
        if r = c then BitVec.ofNat 64 s.my.cw.retired else if r = d then BitVec.ofNat 64 s.my.cw.cyc else s.reg r)
    ∧ (∃ t, exec (.pfx p) s = .next t
        ∧ Retired s t (nextPc s.me.pc) (p ++ 1#1 ++ s.me.sw.extractLsb' 0 31) s.me.line s.reg))
  ∧ (∀ (s : State) (i : Instr), swPP s.me.sw = true → s.me.wait = none → takesPrefix i = false → (encodeFields i).isSome = true →
    exec i s = .next s.trapIllegal)

/-- RDW reads a control word where the mode may; TVAL of *privileged* is the index; an index without a word is *illegal instruction*.
WRW: what each word then holds; only that word, the PC and RETIRED change. The words of the trap handler are privileged. A write of SW
changes the sticky flags, DRM and the flush bits in task mode, and in handler mode PXL, PP, PM and SPP too; MODE and the reserved bits
never change; a DRM of 6 or 7 is stored as 0 (01 R14). -/
def Obligations.ControlWords : Prop :=
  (∀ (s : State) (d : Reg) (idx : BitVec 12), s.noPfx →
    (∀ r t h, cwRights idx.toNat = some (r, t, h) → (r = true ∨ swMode s.me.sw = true) → Gives s (.rdw d idx) d (s.cwRead idx.toNat))
    ∧ (∀ t h, cwRights idx.toNat = some (false, t, h) → swMode s.me.sw = false →
        exec (.rdw d idx) s = .next (s.trapHere .privileged (idx.setWidth 64)))
    ∧ (cwRights idx.toNat = none → exec (.rdw d idx) s = .next s.trapIllegal))
  ∧ (∀ (s : State) (idx : BitVec 12) (a : Reg), s.noPfx → let v := s.reg a
    (s.wrwChk idx.toNat v = .ok → ∃ t, exec (.wrw idx a) s = .next t ∧ InTile s t
      ∧ (∀ r, t.reg r = s.reg r) ∧ (∀ j, j ≠ s.ck → t.my.strand j = s.my.strand j) ∧ t.me.pc = nextPc s.me.pc
      ∧ (∀ j, j ≠ idx.toNat → j ≠ 0x111 → t.cwRead j = s.cwRead j)
      ∧ (idx = 0x000#12 → t.me.sw = swWrite s.me.sw v)
      ∧ (idx = 0x001#12 → t.me.ctx = v.setWidth 16) ∧ (idx = 0x002#12 → t.me.vpin = v.setWidth 17)
      ∧ (idx = 0x100#12 ∨ idx = 0x102#12 ∨ idx = 0x103#12 ∨ idx = 0x104#12 ∨ idx = 0x130#12 ∨ idx = 0x131#12 ∨ idx = 0x132#12
          ∨ idx = 0x133#12 → t.cwRead idx.toNat = v)
      ∧ (idx = 0x101#12 → t.my.cw.tcause = v &&& 0xFF#64) ∧ (idx = 0x105#12 → t.my.cw.tpxl = v &&& 0xFFFFFFFF#64)
      ∧ (idx = 0x121#12 → t.my.cw.hang = v &&& 0xFFFFFFFFFF#64)
      ∧ (∀ sp n, t.my.byte sp n = s.my.byte sp n))
    ∧ (∀ r t h, cwRights idx.toNat = some (r, t, h) → (if swMode s.me.sw then h else t) = false →
        exec (.wrw idx a) s = .next (s.trapHere .privileged (idx.setWidth 64))))
  ∧ (∀ (sw v : Word) (i : Nat), i < 64 →
    let flags := decide (i < 5)
    let drm := decide (8 ≤ i ∧ i ≤ 10)
    let flush := decide (16 ≤ i ∧ i ≤ 21)
    let own := i == 31 || i == 29 || i == 28 || decide (32 ≤ i)
    (flags || flush || (own && swMode sw) → (swWrite sw v).getLsbD i = v.getLsbD i)
    ∧ ((flags || flush || drm || (own && swMode sw)) = false → (swWrite sw v).getLsbD i = sw.getLsbD i)
    ∧ (drm → (swWrite sw v).getLsbD i = (decide (field v 8 3 < 6) && v.getLsbD i)))

/-- A trap enters the handler: the trap words, the status word and the PC, and nothing else (01 R28). A trap behind another strand's
handler run, or on a tile that is halted or halts in this clk, waits and changes no trap word (01 R28, 15 R366); a trap raised in handler
mode halts the strand for the island, which receives the tile's trap words (01 R30). -/
def Obligations.TrapEntry : Prop :=
  (∀ (s : State) (u : TileId) (k : Fin 4) (r : TrapRec), s.entersHandler u k → Entered s (s.takeTrapAt u k r) u k r)
  ∧ (∀ (s : State) (u : TileId) (k : Fin 4) (r : TrapRec), let t := s.takeTrapAt u k r
    (swMode (s.strand u k).sw = false → ((s.tile u).otherInHandler k = true ∨ (s.tile u).halting s.now = true) →
      (t.tile u).cw = (s.tile u).cw ∧ (t.strand u k).pend = some r ∧ (t.strand u k).sw = (s.strand u k).sw
      ∧ (t.strand u k).pc = (s.strand u k).pc ∧ ∀ j, j ≠ k → (t.tile u).strand j = (s.tile u).strand j)
    ∧ (swMode (s.strand u k).sw = true →
      (t.tile u).cw = (s.tile u).cw ∧ (t.strand u k).held = some .double ∧ (t.strand u k).live = (s.strand u k).live
      ∧ t.notices = s.notices ++ [.strand u k ⟨.doubleTrap, (s.strand u k).pc, BitVec.ofNat 64 r.cause.code⟩
        ⟨(s.tile u).cw.tcause, (s.tile u).cw.tepc, (s.tile u).cw.tval, (s.tile u).cw.tpxl.setWidth 32⟩]))

/-- TRET: in handler mode, in one step, MODE := PM, PP := SPP, PXL := TPXL, SPP := 0 and PC := TEPC, every other field of SW as it was;
with PP = 1 the instruction at TEPC runs under the prefix in PXL; in task mode it takes *privileged* (01 R29). -/
def Obligations.TrapReturn : Prop :=
  ∀ s : State, s.noPfx →
    (swMode s.me.sw = true → s.me.pend = none → ∃ t, exec .tret s = .next t ∧ InTile s t
      ∧ t.me.sw = swReturned s.me.sw s.my.cw.tpxl ∧ t.me.pc = s.my.cw.tepc ∧ (∀ r, t.reg r = s.reg r)
      ∧ t.pfx? = (if swSPP s.me.sw then some (s.my.cw.tpxl.extractLsb' 0 32) else none)
      ∧ (∀ sp n, t.my.byte sp n = s.my.byte sp n)
      ∧ ((∀ j, j ≠ s.ck → (s.my.strand j).pend = none) → ∀ j, j ≠ s.ck → t.my.strand j = s.my.strand j))
    ∧ (swMode s.me.sw = false → exec .tret s = .next (s.trapHere .privileged 0#64))

/-- TRAP and BRK: in task mode the handler is entered with TEPC the next PC and TVAL the immediate, and RETIRED counts the
instruction; in handler mode TRAP is a double trap, and BRK hands the trap words to the island and suspends the strand (01 R27, R30,
04 R116). Where the PC stands after a TRAP or BRK of the handler is the model's reading (log 17). -/
def Obligations.SoftwareTraps : Prop :=
  ∀ (s : State) (e : BitVec 48), s.noPfx →
    (s.entersHandler s.ct s.ck →
      (∃ t, exec (.trap e) s = .next t ∧ Entered s.retire t s.ct s.ck ⟨.trap, nextPc s.me.pc, e.setWidth 64⟩)
      ∧ (∃ t, exec (.brk e) s = .next t ∧ Entered s.retire t s.ct s.ck ⟨.breakpoint, nextPc s.me.pc, e.setWidth 64⟩))
    ∧ (swMode s.me.sw = true →
      let words : TrapWords := ⟨s.my.cw.tcause, s.my.cw.tepc, s.my.cw.tval, s.my.cw.tpxl.setWidth 32⟩
      (∃ t, exec (.trap e) s = .next t ∧ t.me.held = some .double
        ∧ t.notices = s.notices ++ [.strand s.ct s.ck ⟨.doubleTrap, s.me.pc, 0x11#64⟩ words])
      ∧ (∃ t, exec (.brk e) s = .next t ∧ t.me.held = some .escalation ∧ t.me.sw = s.me.sw
        ∧ t.notices = s.notices ++ [.strand s.ct s.ck ⟨.escalation, s.my.cw.tepc, s.my.cw.tval⟩ words]))

/-- QGET takes the token whose turn is the strand's out of its completion queue; with `.try`, 0x1_0000 where there is none, and without it
the strand waits; QPUT puts a raw operand behind its command queue, and the strand's hold of it ends; it waits for the end of another
strand's hold, and for a free entry (01 R20 to R22, 04 R120 to R122). The TVALs of the two waits of QPUT are free values (log 18). -/
def Obligations.QueueInstructions : Prop :=
  ∀ (s : State) (d a : Reg) (q : Fin 8), s.noPfx →
    let i : Fin 4 := Fin.ofNat 4 (q.val / 2)
    let n := s.rank (.qget q)
    (∀ tk try_, s.my.tokq[i][n]? = some tk → ∃ t, exec (.qget d q try_) s = .next t ∧ InTile s t
      ∧ t.my.tokq[i] = s.my.tokq[i].eraseIdx n ∧ (∀ j, j ≠ i → t.my.tokq[j] = s.my.tokq[j]) ∧ t.my.cmdq = s.my.cmdq
      ∧ t.me.pc = nextPc s.me.pc ∧ t.me.sw = s.me.sw ∧ (∀ r, t.reg r = s.regsWith d (tk.setWidth 64) r)
      ∧ (∀ sp n, t.my.byte sp n = s.my.byte sp n))
    ∧ (s.my.tokq[i].length ≤ n → Gives s (.qget d q true) d 0x10000#64
      ∧ exec (.qget d q false) s = .next (s.block { kind := .qget q, tval := 0x0800 + q.val }))
    ∧ (∀ k, s.my.hold[i] = some k → k ≠ s.ck →
      exec (.qput q a) s = .next (s.block { kind := .qput i false, tval := Config.waitTval 0 }))
    ∧ ((s.my.hold[i] = some s.ck ∧ queueDepth (2 * i.val) ≤ s.my.cmdq[i].length
        ∨ s.my.hold[i] = none ∧ queueDepth (2 * i.val) - s.my.cmdq[i].length ≤ s.cmdRank i) →
      exec (.qput q a) s = .next (s.block { kind := .qput i false, tval := Config.waitTval 2 }))
    ∧ (s.pushChk i false true true = .ok → ∃ t, exec (.qput q a) s = .next t ∧ InTile s t
      ∧ t.my.cmdq[i] = s.my.cmdq[i] ++ [.raw (s.reg a)] ∧ (∀ j, j ≠ i → t.my.cmdq[j] = s.my.cmdq[j]) ∧ t.my.hold[i] = none
      ∧ t.my.tokq = s.my.tokq ∧ t.my.resv = s.my.resv ∧ t.me.pc = nextPc s.me.pc ∧ t.me.sw = s.me.sw
      ∧ (∀ r, t.reg r = s.reg r) ∧ (∀ sp n, t.my.byte sp n = s.my.byte sp n))

/-! ## Control transfers (01 R36, 04 R108 to R110) -/

/-- BR, JMP, CALL, RET, JR and LOOP: where they go on, what they write, and where they trap. -/
def Obligations.ControlTransfers : Prop :=
  ∀ (s : State) (a b d : Reg) (e : BitVec 48), s.noPfx →
    let x := s.reg a
    let y := s.reg b
    let br := fun (c : BrCond) (p : Bool) =>
      (p = true → Goes s (.br c a b e) (e.setWidth 64) s.reg) ∧ (p = false → Passes s (.br c a b e))
    br .eq (decide (x = y)) ∧ br .ne (decide (x ≠ y)) ∧ br .lt (decide (x.toInt < y.toInt)) ∧ br .ge (decide (y.toInt ≤ x.toInt))
    ∧ br .ltu (decide (x.toNat < y.toNat)) ∧ br .geu (decide (y.toNat ≤ x.toNat)) ∧ br .z (decide (x = 0#64))
    ∧ br .nz (decide (x ≠ 0#64))
    ∧ Goes s (.jmp e) (e.setWidth 64) s.reg
    ∧ Goes s (.call e) (e.setWidth 64) (s.regsWith 14 (nextPc s.me.pc))
    ∧ Goes s .ret (s.reg 14) s.reg
    ∧ Goes s (.jr a) x s.reg
    ∧ (s.reg d ≠ 1#64 → Goes s (.loop d e) (e.setWidth 64) (s.regsWith d (s.reg d - 1#64)))
    ∧ (s.reg d = 1#64 → Gives s (.loop d e) d 0#64)

/-! ## Local memory (04 R111 to R114, 08 R222, R223) -/

/-- The checks of a local access, the first that fails deciding (04 R113): bounds, rights, alignment, range lock; an access that
passes them and meets no poison is made. A local access that fails a check traps and has no effect (04 R113, 01 R26). -/
def Obligations.LocalChecks : Prop :=
  (∀ (s : State) (a : LAcc), let o := a.addr.toNat
    let bounds := decide (o + a.size ≤ spcSize a.sp)
    let rights := !(a.write && a.sp == .ctl && !swMode s.me.sw) && !s.inPool s.ct a.sp o a.size
      && !(a.write && (s.win2 s.ct a.sp o).isSome && !s.tagLive s.ct a.tag)
    let aligned := decide (o % a.align = 0)
    let locked := a.size != 0 && s.my.lockList.any (fun l =>
      l.spc == a.sp && (a.write || l.rd) && decide (o ≤ l.hi) && decide (l.lo ≤ o + a.size - 1))
    let tval : Word := BitVec.ofNat 64 (spcCode a.sp * 2 ^ 61 + o % 2 ^ 61)
    (bounds = false → s.localChk a = .trap .localBounds tval)
    ∧ (bounds = true → rights = false → s.localChk a = .trap .localRights tval)
    ∧ (bounds = true → rights = true → aligned = false → s.localChk a = .trap .misaligned tval)
    ∧ (bounds = true → rights = true → aligned = true → locked = true → s.localChk a = .trap .rangeLock tval)
    ∧ (bounds = true → rights = true → aligned = true → locked = false → s.my.poison = [] → s.localChk a = .ok))
  ∧ (∀ (s : State) (m : LMem) (p : LPair) (q : LAmo) (fn : AmoFn) (sx : Bool) (c : Cause) (v : Word), s.noPfx →
    s.wChk m.wc = .ok → s.wChk p.wc = .ok → s.wChk q.wc = .ok →
    (s.localChk (s.lacc m.sp m.a m.b (wBytes m.w) false) = .trap c v → exec (.ld m sx) s = .next (s.trapHere c v))
    ∧ (s.localChk (s.lacc m.sp m.a m.b (wBytes m.w) true) = .trap c v → exec (.st m) s = .next (s.trapHere c v))
    ∧ (s.localChk (s.lacc p.sp p.a p.b 16 false) = .trap c v → exec (.ldp p) s = .next (s.trapHere c v))
    ∧ (s.localChk (s.lacc p.sp p.a p.b 16 true) = .trap c v → exec (.stp p) s = .next (s.trapHere c v))
    ∧ (s.localChk (s.lacc (amoSpace q.act) q.a q.b (wBytes q.w) true) = .trap c v →
        exec (.amo fn q) s = .next (s.trapHere c v) ∧ exec (.cas q) s = .next (s.trapHere c v)))

/-- LD and LDP: the bytes at the address, extended or as a pair; a load that touches 0xA20 to 0xA27 of CTL clears RCNT (08 R211), and
nothing else changes. ST and STP store their bytes where the access says, which are then read back, and change nothing else. -/
def Obligations.LocalLoadsAndStores : Prop :=
  (∀ (s : State) (m : LMem) (p : LPair) (sx : Bool), s.noPfx →
    let a := s.lacc m.sp m.a m.b (wBytes m.w) false
    let b := s.lacc p.sp p.a p.b 16 false
    let clears := fun (c : LAcc) => c.sp == .ctl && decide (c.addr.toNat ≤ 0xA27) && decide (0xA20 ≤ c.addr.toNat + c.size - 1)
    let z := s.modMy (fun x => { x with rcnt := 0#16 })
    let v := widen sx (BitVec.ofNat (wBits m.w) (leNat (s.lread s.ct a.sp a.addr.toNat a.size s.me.ctx)))
    let bs := s.lread s.ct b.sp b.addr.toNat 16 s.me.ctx
    let rf := fun r => if r = p.c then BitVec.ofNat 64 (leNat (bs.drop 8)) else if r = p.d then BitVec.ofNat 64 (leNat (bs.take 8)) else s.reg r
    (s.wChk m.wc = .ok → s.localChk a = .ok →
      (clears a = false → Gives s (.ld m sx) m.d v)
      ∧ (clears a = true → ∃ t, exec (.ld m sx) s = .next t ∧ Retired z t (nextPc s.me.pc) s.me.sw s.me.line (s.regsWith m.d v)))
    ∧ (s.wChk p.wc = .ok → s.localChk b = .ok →
      (clears b = false → GivesRegs s (.ldp p) rf)
      ∧ (clears b = true → ∃ t, exec (.ldp p) s = .next t ∧ Retired z t (nextPc s.me.pc) s.me.sw s.me.line rf)))
  ∧ (∀ (s : State) (m : LMem) (p : LPair), s.noPfx →
    let a := s.lacc m.sp m.a m.b (wBytes m.w) true
    let b := s.lacc p.sp p.a p.b 16 true
    (s.wChk m.wc = .ok → s.localChk a = .ok → s.poolChk a = .ok → ∃ t, exec (.st m) s = .next t ∧ Stored s t a s.me.sw s.reg
      ∧ (s.memOk → a.sp ≠ .ctl →
          t.lread s.ct a.sp a.addr.toNat a.size a.tag = leBytes a.size ((s.reg m.d).toNat % 2 ^ wBits m.w)))
    ∧ (s.wChk p.wc = .ok → s.localChk b = .ok → s.poolChk b = .ok → ∃ t, exec (.stp p) s = .next t ∧ Stored s t b s.me.sw s.reg
      ∧ (s.memOk → b.sp ≠ .ctl →
          t.lread s.ct b.sp b.addr.toNat 16 b.tag = leBytes 8 (s.reg p.d).toNat ++ leBytes 8 (s.reg p.c).toNat)))

/-- AMO and CAS: d takes the old value, the new one is stored (a failed compare stores what is there), and nothing else changes. The
integer atomics on w-bit values, and the two additions of FP32 and BF16, which round once under RNE and never flush (08 R222, R223). -/
def Obligations.AtomicAccesses : Prop :=
  (∀ (s : State) (m : LAmo) (fn : AmoFn), s.noPfx →
    let a := s.lacc (amoSpace m.act) m.a m.b (wBytes m.w) true
    let old := leNat (s.lread s.ct a.sp a.addr.toNat a.size a.tag)
    let n := wBits m.w
    let r := amoNew fn n old ((s.reg m.c).toNat % 2 ^ n)
    let new := if old = (s.reg m.d).toNat % 2 ^ n then (s.reg m.c).toNat % 2 ^ n else old
    s.wChk m.wc = .ok → s.localChk a = .ok → s.my.poison = [] → s.poolChk a = .ok →
    (∃ t, exec (.amo fn m) s = .next t ∧ Stored s t a (swOr s.me.sw r.2) (s.regsWith m.d (BitVec.ofNat 64 old))
      ∧ (s.memOk → t.lread s.ct a.sp a.addr.toNat a.size a.tag = leBytes a.size r.1))
    ∧ (∃ t, exec (.cas m) s = .next t ∧ Stored s t a s.me.sw (s.regsWith m.d (BitVec.ofNat 64 old))
      ∧ (s.memOk → t.lread s.ct a.sp a.addr.toNat a.size a.tag = leBytes a.size new)))
  ∧ (∀ (w : Width) (x y : BitVec (wBits w)), let f := fun g => BitVec.ofNat (wBits w) (amoNew g (wBits w) x.toNat y.toNat).1
    f .add = x + y ∧ f .and = x &&& y ∧ f .or = x ||| y ∧ f .xor = x ^^^ y ∧ f .swap = y
    ∧ f .smin = (if x.sle y then x else y) ∧ f .smax = (if x.sle y then y else x)
    ∧ f .umin = (if x.ule y then x else y) ∧ f .umax = (if x.ule y then y else x))
  ∧ (∀ n x y : Nat, ∀ q ∈ [(AmoFn.fadd, 0), (.bfadd, 1)],
    let v := sumNum .rne [decodeNum q.2 x, decodeNum q.2 y]
    let r := roundNum q.2 .rne 0 false false v.1
    amoNew q.1 n x y = (r.1, v.2 ||| r.2))

/-! ## Remote access (08 R206, R214 to R224, 14 R352) -/

/-- The checks of a global and of a virtual address, the first that fails deciding (08 R206, R221). -/
def Obligations.RemoteAddressChecks : Prop :=
  (∀ (s : State) (g : Word) (n : Nat),
    let reach := if s.ownChip (gChip g) then (match s.partOf s.ct with
        | some p => (s.parts[p]).covers (gTile g) && !s.absent (gTile g)
        | none => false)
      else match s.launchAt s.ct with
        | some l => l.hdr.peer
        | none => false
    let form := decide (gRsv g = 0) && decide (1 ≤ gSpc g) && decide (gSpc g ≤ 4)
    (form = false → s.globalChk g n = .trap .remoteRefused g)
    ∧ (form = true → reach = false → s.globalChk g n = .trap .remoteRefused g)
    ∧ (form = true → reach = true → gOfs g % n ≠ 0 → s.globalChk g n = .trap .misaligned (spcTval (gSpc g) (gOfs g)))
    ∧ (form = true → reach = true → gOfs g % n = 0 → spcSize ((spcOf (gSpc g)).getD .ctl) < gOfs g + n →
        s.globalChk g n = .trap .remoteRefused g)
    ∧ (form = true → reach = true → gOfs g % n = 0 → gOfs g + n ≤ spcSize ((spcOf (gSpc g)).getD .ctl) → s.globalChk g n = .ok))
  ∧ (∀ (s : State) (g : Word) (n : Nat),
    let canon := decide (g = (g.extractLsb' 0 57).signExtend 64)
    let space := ((s.partOf s.ct).bind s.spaceOf).isSome
    s.virtualChk g n = if canon && space && decide (g.toNat % n = 0) then .ok else .trap .virtualRefused g)

/-- The forms that wait for a reply send one request, and the strand waits (08 R219, R222 to R224). The posted forms send one request,
are counted, and retire (08 R214, R219, R222, R223). -/
def Obligations.RemoteAccesses : Prop :=
  (∀ (s : State) (l : RLoad) (c : RCas) (m : RAmo),
    let al := s.reg l.a + s.src l.b
    let ac := s.reg c.a + s.src c.b
    let am := s.reg m.a + s.src m.b
    (Sends s (loadAcc s l false) → Requests s (.ldg l) false al (.load (wBytes l.w) l.sx) l.d l.acq s.me.ctx)
    ∧ (Sends s (loadAcc s l true) → Requests s (.ldv l) true al (.load (wBytes l.w) l.sx) l.d l.acq s.me.ctx)
    ∧ (Sends s (casAcc s c false) → Requests s (.casg c) false ac (.cas c.w (s.reg c.d) (s.reg c.c)) c.d c.acq s.me.ctx)
    ∧ (Sends s (casAcc s c true) → Requests s (.casv c) true ac (.cas c.w (s.reg c.d) (s.reg c.c)) c.d c.acq s.me.ctx)
    ∧ (m.post = false → Sends s (atomicAcc s m false) →
        Requests s (.amog m) false am (.amo m.fn m.w (s.reg m.c)) m.d m.ar s.me.ctx)
    ∧ (m.post = false → Sends s (atomicAcc s m true) →
        Requests s (.amov m) true am (.amo m.fn m.w (s.reg m.c)) m.d m.ar s.me.ctx))
  ∧ (∀ (s : State) (st : RStore) (m : RAmo),
    let a := s.reg st.a + s.src st.b
    let am := s.reg m.a + s.src m.b
    let bs := leBytes (wBytes st.w) ((s.reg st.d).toNat % 2 ^ wBits st.w)
    (Sends s (storeAcc s st false) → PostsRequest s (.stg st) false a (.store bs) st.col s.me.ctx)
    ∧ (Sends s (storeAcc s st true) → PostsRequest s (.stv st) true a (.store bs) st.col s.me.ctx)
    ∧ (m.post = true → Sends s (atomicAcc s m false) → PostsRequest s (.amog m) false am (.amo m.fn m.w (s.reg m.c)) m.col s.me.ctx)
    ∧ (m.post = true → Sends s (atomicAcc s m true) → PostsRequest s (.amov m) true am (.amo m.fn m.w (s.reg m.c)) m.col s.me.ctx))

/-- LDX and STX are LD, LDG or LDV, and ST, STG or STV, with the tag of register c (14 R352). -/
def Obligations.TaggedAccesses : Prop :=
  ∀ (s : State) (l : XLoad) (st : XStore),
    let tl := (s.reg l.c).setWidth 16
    let ts := (s.reg st.c).setWidth 16
    let ll : RLoad := ⟨l.d, l.a, l.b, l.w, l.acq, l.sx, l.vc, l.wc⟩
    let ls : RStore := ⟨st.d, st.a, st.b, st.w, st.rel, st.vc, st.col, st.wc⟩
    let al := { s.lacc (if l.ak = .act then .act else .data) l.a l.b (wBytes l.w) false with tag := tl }
    let as := { s.lacc (if st.ak = .act then .act else .data) st.a st.b (wBytes st.w) true with tag := ts }
    let v := (s.reg st.d).toNat % 2 ^ wBits st.w
    (s.noPfx → (l.ak = .data ∨ l.ak = .act) → s.wChk l.wc = .ok → s.localChk al = .ok →
      Gives s (.ldx l) l.d (widen l.sx (BitVec.ofNat (wBits l.w) (leNat (s.lread s.ct al.sp al.addr.toNat al.size tl)))))
    ∧ (s.noPfx → (st.ak = .data ∨ st.ak = .act) → s.wChk st.wc = .ok → s.localChk as = .ok → s.poolChk as = .ok →
      ∃ t, exec (.stx st) s = .next t ∧ Stored s t as s.me.sw s.reg
        ∧ (s.memOk → t.lread s.ct as.sp as.addr.toNat as.size ts = leBytes as.size v))
    ∧ (l.ak = .glob → Sends s { loadAcc s ll false with tag := tl } →
      Requests s (.ldx l) false (s.reg l.a + s.src l.b) (.load (wBytes l.w) l.sx) l.d l.acq tl)
    ∧ (l.ak = .virt → Sends s { loadAcc s ll true with tag := tl } →
      Requests s (.ldx l) true (s.reg l.a + s.src l.b) (.load (wBytes l.w) l.sx) l.d l.acq tl)
    ∧ (st.ak = .glob → Sends s { storeAcc s ls false with tag := ts } →
      PostsRequest s (.stx st) false (s.reg st.a + s.src st.b) (.store (leBytes (wBytes st.w) v)) st.col ts)
    ∧ (st.ak = .virt → Sends s { storeAcc s ls true with tag := ts } →
      PostsRequest s (.stx st) true (s.reg st.a + s.src st.b) (.store (leBytes (wBytes st.w) v)) st.col ts)

/-- What becomes of a request: it is performed at its tile or its home, its reply is written and retires the instruction, its
acknowledgement or its refusal takes a posted access out of its counters, and a refusal traps, at once for a replying form and at the next
instruction boundary for a posted one, or is recorded in RADDR and RCNT (08 R207, R211, R214, R219, R237, 13 R326); that a replying form's
refusal which its strand no longer awaits is recorded is the model's reading (log 66). A request of another wafer is refused where no window
admits it (08 R210), and its answer leaves the wafer (log 20). What every access does with the bytes at its home: loads, stores, atomics,
compare-and-swaps, the four kinds of ACQ and the two of REL, with the atomics' functions of `AtomicAccesses` (08 R219, R222, R223, R237,
R238). -/
def Obligations.RequestsAtTheirHome : Prop :=
  (∀ (s : State) (m : Nat) (r : Req), s.req m = some r →
    (∀ v f, r.from_ = none → r.phase = .done v f → r.post = false → s.awaits r = true → ∃ t, exec (.remoteReply m) s = .next t
      ∧ (∀ d, (t.strand r.tile r.slot).regs[d] = if d = r.d then v else (s.strand r.tile r.slot).regs[d])
      ∧ (t.strand r.tile r.slot).pc = nextPc (s.strand r.tile r.slot).pc ∧ (t.strand r.tile r.slot).wait = none
      ∧ (t.strand r.tile r.slot).sw = swClearPP (swOr (s.strand r.tile r.slot).sw f)
      ∧ t.plane = s.plane.filter (fun q => q.id != m) ∧ t.hbm = s.hbm ∧ (∀ u sp o, t.byteAt u sp o = s.byteAt u sp o))
    ∧ (∀ v f, r.from_ = none → r.phase = .done v f → r.post = true → ∃ t, exec (.remoteAck m) s = .next t
      ∧ (t.tile r.tile).posted = (s.tile r.tile).posted.filter (fun q => q.id != m)
      ∧ t.plane = s.plane.filter (fun q => q.id != m) ∧ t.hbm = s.hbm)
    ∧ (∀ c v, r.from_ = none → r.phase = .refused c v → r.post = false → s.awaits r = true → s.drainingAt r.tile = false →
        ∃ t, exec (.remoteRefusal m) s = .next t
        ∧ t = (s.dropReq m).takeTrapAt r.tile r.slot ⟨c, (s.strand r.tile r.slot).pc, v⟩)
    ∧ (∀ c v, r.from_ = none → r.phase = .refused c v → r.post = false → s.awaits r = false →
        exec (.remoteRefusal m) s = .next ((s.dropReq m).recordRefusal r.tile v r.virt))
    ∧ (∀ c v, r.from_ = none → r.phase = .refused c v → r.post = true → r.drain = none →
        let z := s.strand r.tile r.slot
        let traps := z.live = true ∧ z.uid = r.uid ∧ swMode z.sw = false ∧ z.pend = none ∧ z.late = none ∧ z.held = none
          ∧ s.drainingAt r.tile = false
        ∃ t, exec (.remoteRefusal m) s = .next t ∧ (t.tile r.tile).posted = (s.tile r.tile).posted.filter (fun q => q.id != m)
          ∧ t.plane = s.plane.filter (fun q => q.id != m) ∧ t.hbm = s.hbm
          ∧ (traps → (t.strand r.tile r.slot).late = some (c, v))
          ∧ (¬traps → (t.tile r.tile).rcnt = (if (s.tile r.tile).rcnt = 0xFFFF#16 then 0xFFFF#16 else (s.tile r.tile).rcnt + 1#16)
            ∧ (t.tile r.tile).raddr = (if (s.tile r.tile).rcnt = 0#16 then v else (s.tile r.tile).raddr)))
    ∧ (∀ due, r.phase = .resend due → due ≤ s.now → ∃ t, exec (.gateRequestResend m) s = .next t
      ∧ t.plane = s.plane.map (fun q => if q.id == r.id then { q with phase := .out } else q) ∧ t.hbm = s.hbm)
    ∧ (∀ s1 v f, r.from_ = none → r.virt = false → r.phase = .locked → s.ownChip (gChip r.addr) = true →
        ((gTile r.addr = r.tile ∧ r.drain = none) ∨ (s.tile (gTile r.addr)).accepts r.op.akind (gSpc r.addr) (gOfs r.addr) r.op.size
          (rowOf r.tile) (colOf r.tile) = true) → s.atTile r = .done s1 v f →
        ∃ t, exec (.remoteRequest m) s = .next t
          ∧ t.plane = s1.plane.map (fun q => if q.id == r.id then { q with phase := .done v f } else q) ∧ t.tiles = s1.tiles)
    ∧ (r.from_ = none → r.virt = false → r.phase = .locked → s.ownChip (gChip r.addr) = true → gTile r.addr ≠ r.tile →
        (s.tile (gTile r.addr)).accepts r.op.akind (gSpc r.addr) (gOfs r.addr) r.op.size (rowOf r.tile) (colOf r.tile) = false →
        ∃ t, exec (.remoteRequest m) s = .next t ∧ t.tiles = s.tiles
          ∧ t.plane = s.plane.map (fun q => if q.id == m then { q with phase := .refused .remoteRefused r.addr } else q))
    ∧ (∀ chip, r.from_ = some chip → r.virt = false → r.phase = .locked → s.ownChip (gChip r.addr) = true →
        (s.tile (gTile r.addr)).acceptsFrom chip r.op.akind (gSpc r.addr) (gOfs r.addr) r.op.size (rowOf r.tile) (colOf r.tile) = false →
        ∃ t, exec (.remoteRequest m) s = .next t ∧ t.tiles = s.tiles
          ∧ t.plane = s.plane.map (fun q => if q.id == m then { q with phase := .refused .remoteRefused r.addr } else q))
    ∧ (∀ chip v f, r.from_ = some chip → r.phase = .done v f → r.post = false →
        exec (.remoteReply m) s = .next ((s.dropReq m).tell (.peer chip m true v)))
    ∧ (∀ a pa s1, r.virt = true → r.phase = .again → s.virtAcc r = some a → s.reach a = .pa pa s1 → s.power.hotStacks = [] →
        exec (.virtualAccess m) s = .next (s1.atHome r a pa))
    ∧ (r.virt = true → r.phase = .again → s.virtAcc r = none →
        exec (.virtualAccess m) s = .next (s.refuseReq m .virtualRefused r.addr)))
  ∧ (∀ (old : List Byte), let x := leNat old
    (∀ n sx, (ReqOp.load n sx).act old = .done none (extOf sx (8 * n) x) 0#5)
    ∧ (∀ bs, (ReqOp.store bs).act old = .done (some bs) 0#64 0#5)
    ∧ (∀ w e n, x ≠ e.toNat % 2 ^ wBits w → (ReqOp.cas w e n).act old = .done (some old) (BitVec.ofNat 64 x) 0#5)
    ∧ (∀ w e n, x = e.toNat % 2 ^ wBits w →
        (ReqOp.cas w e n).act old = .done (some (leBytes (wBytes w) (n.toNat % 2 ^ wBits w))) (BitVec.ofNat 64 x) 0#5)
    ∧ (∀ fn w v, let r := amoNew fn (wBits w) x (v.toNat % 2 ^ wBits w)
        (ReqOp.amo fn w v).act old = .done (some (leBytes (wBytes w) r.1)) (BitVec.ofNat 64 x) r.2)
    ∧ (∀ v, (ReqOp.acq .rd v).act old = .done none (BitVec.ofNat 64 x) 0#5)
    ∧ (∀ v, (ReqOp.acq .eq v).act old = if x = v.toNat then .done none (BitVec.ofNat 64 x) 0#5 else .hold)
    ∧ (∀ v, (ReqOp.rel false v).act old = .done (some (leBytes 8 v.toNat)) 0#64 0#5)
    ∧ (∀ v, (ReqOp.acq .ge v).act old = if v.toNat ≤ x then .done none (BitVec.ofNat 64 x) 0#5 else .hold)
    ∧ (∀ v, (ReqOp.acq .lk v).act old = if x = 0 then .done (some (leBytes 8 v.toNat)) 0#64 0#5 else .hold)
    ∧ (∀ v, (ReqOp.rel true v).act old = .done (some (leBytes 8 ((x + v.toNat) % 2 ^ 64))) 0#64 0#5))

/-! ## Ordering, gates and blanks (08 R225 to R241) -/

/-- FENCE and WAITC retire, with no effect, once no access that their wait covers is outstanding under a colour or in a class of the
mask; else the strand waits, bounded by HANG (08 R239, R241). ACQ sends its request and waits, REL waits for what is bound to its gate
and is then posted, and BIND sets an entry whose count is zero (08 R234 to R238). WAIT gives the word once its condition holds, and
waits until then (08 R240). -/
def Obligations.OrderingInstructions : Prop :=
  (∀ (s : State) (c : BitVec 8) (k : BitVec 3) (wc : WCls), s.noPfx → s.wChk wc = .ok →
    let open_ := fun (p : Posted → Bool) => s.my.posted.any (fun q => p q && s.cover.contains q.id)
    let cls := fun (q : Posted) => match q.cls with | .tile => k.getLsbD 0 | .edge => k.getLsbD 1 | .net => k.getLsbD 2
    (open_ (fun q => c.getLsbD q.col.val) = false → Passes s (.fence c wc))
    ∧ (open_ (fun q => c.getLsbD q.col.val) = true →
        exec (.fence c wc) s = .next (s.block { kind := .posted, tval := 0x0300 }))
    ∧ (open_ cls = false → Passes s (.waitc k wc))
    ∧ (open_ cls = true → exec (.waitc k wc) s = .next (s.block { kind := .posted, tval := 0x0301 })))
  ∧ (∀ (s : State) (q : AcqArgs) (r : RelArgs) (b : BindArgs),
    let qa : RAcc := { virt := q.v, addr := s.reg q.a + s.src q.b, op := .acq q.kind (s.reg q.c), vc := .vc0, wc := q.wc, post := false
                       rel := false, col := 0, acq := q.sc != .tile, d := q.d, tag := s.me.ctx }
    let ra : RAcc := { virt := r.v, addr := s.reg r.a + s.src r.b, op := .rel r.add (s.reg r.c), vc := .vc0, wc := r.wc, post := true
                       rel := false, col := r.col, acq := false, d := 0, tag := s.me.ctx }
    (Sends s qa → Requests s (.acq q) q.v qa.addr qa.op q.d (q.sc != .tile) s.me.ctx)
    ∧ (Sends s ra → s.gateChk ra.addr r.v (r.sc == .sys) = .ok → PostsRequest s (.rel r) r.v ra.addr ra.op r.col s.me.ctx)
    ∧ (s.noPfx → s.addrChk ra = .ok → s.wChk r.wc = .ok → s.limitChk = .ok →
        let tied := fun (k : Fin 8) => (s.my.binds[k]).rlen ≠ 0 ∧ (s.my.binds[k]).gate = ra.addr ∧ (s.my.binds[k]).gv = r.v
        (∃ p ∈ s.my.posted, p.id ∈ s.cover ∧ (r.sc = .sys ∨ ∃ k ∈ p.binds, tied k)) →
        exec (.rel r) s = .next (s.block { kind := .posted, tval := 0x0304 }))
    ∧ (s.noPfx → s.my.cnt b.k = 0 →
        Changes s (.bind b) (s.modMy (fun x => { x with
          binds := x.binds.set b.k ⟨s.reg b.a, s.reg b.b, (s.reg b.c).toNat % 2 ^ 40, b.gv, b.rv⟩ })) s.reg)
    ∧ (s.noPfx → s.my.cnt b.k ≠ 0 → exec (.bind b) s = .next (s.block { kind := .bind, tval := 0x0305 })))
  ∧ (∀ (s : State) (m : WaitArgs), s.noPfx → s.wChk m.wc = .ok →
    let a := s.lacc m.sp m.a m.b (wBytes m.w) false
    let x := s.lval a
    let v := (s.reg m.c).toNat % 2 ^ wBits m.w
    let holds := match m.cond with
      | .eq => decide (x = v) | .ne => decide (x ≠ v) | .geu => decide (v ≤ x) | .ltu => decide (x < v) | .any => decide (x &&& v ≠ 0)
    s.localChk a = .ok →
      (holds = true → Gives s (.wait m) m.d (BitVec.ofNat 64 x))
      ∧ (holds = false → exec (.wait m) s = .next (s.block { kind := .word, tval := 0x0302 })))

/-- BDEF, BSET and BWAIT, by a register or an immediate: the entry afterwards, and where they trap or wait (08 R228 to R232). BASE holds
19 bits: an empty range at the end of WGT or ACT is stored as one at its start (log 62). -/
def Obligations.BlankInstructions : Prop :=
  (∀ (s : State) (a b : Reg) (spc : BlankSpc) (n : Fin 64), s.noPfx →
    let e := s.my.blanks[n]
    let sp := blankSpc spc
    let base := (s.reg a).toNat
    let len := (s.reg b).toNat
    let unheld := e.st = .empty ∧ e.hold = 0
    (unheld → base % 64 = 0 → len % 64 = 0 → base + len ≤ spcSize sp →
      Changes s (.bdef a b spc n) (s.withBlank n { spc := spcCode sp, base := base % 2 ^ 19, len := len, dfn := len != 0 }) s.reg)
    ∧ (unheld → (base % 64 ≠ 0 ∨ len % 64 ≠ 0) →
      exec (.bdef a b spc n) s = .next (s.trapHere .misaligned (BitVec.ofNat 64 (spcCode sp * 2 ^ 61) ||| s.reg a)))
    ∧ (unheld → base % 64 = 0 → len % 64 = 0 → spcSize sp < base + len →
      exec (.bdef a b spc n) s = .next (s.trapHere .localBounds (BitVec.ofNat 64 (spcCode sp * 2 ^ 61 + base % 2 ^ 61))))
    ∧ (¬unheld → exec (.bdef a b spc n) s = .next (s.trapHere .blankState (BitVec.ofNat 64 n.val))))
  ∧ (∀ (s : State) (b : BlankRef) (c : Reg) (n : Fin 64), s.noPfx → s.blankNo b = n.val →
    let e := s.my.blanks[n]
    let becomes := fun (i : Instr) (e1 : Blank) => Changes s i (s.withBlank n e1) s.reg
    let refused := fun (i : Instr) => exec i s = .next (s.trapHere .blankState (BitVec.ofNat 64 n.val))
    let waits := fun (i : Instr) => exec i s = .next (s.block { kind := .blank n, tval := 0x0B00 + n.val })
    let settable := e.dfn = true ∧ (e.st = .empty ∨ (e.st = .filling ∧ e.hold = 6))
    (settable → becomes (.bsetReady b) { e with st := .ready, hold := 0, err := false })
    ∧ (¬settable → refused (.bsetReady b))
    ∧ (e.dfn = true → e.st = .empty →
      becomes (.bsetFill b c) { e with st := .filling, hold := 6, tok := (s.reg c).setWidth 16, err := false })
    ∧ (e.dfn = false ∨ e.st ≠ .empty → refused (.bsetFill b c))
    ∧ (e.err = false → e.st = .ready → becomes (.bwait b false) e)
    ∧ (e.err = false → e.st ≠ .ready → waits (.bwait b false))
    ∧ (e.err = true → refused (.bwait b false))
    ∧ (e.st = .empty → becomes (.bwait b true) e)
    ∧ (e.st ≠ .empty → waits (.bwait b true)))
  ∧ (∀ (s : State) (r c : Reg) (emp : Bool), s.noPfx → 64 ≤ (s.reg r).toNat →
    ∀ i ∈ [Instr.bsetReady (.reg r), .bsetFill (.reg r) c, .bwait (.reg r) emp, .brel (.reg r)],
      exec i s = .next (s.trapHere .blankState (s.reg r)))

/-- BREL changes a ready blank to empty; in any other state it takes *blank state*; it writes nothing to the blank's bytes (08 R233). -/
def Obligations.BlankRelease : Prop :=
  ∀ (s : State) (b : BlankRef) (n : Fin 64), s.noPfx → s.blankNo b = n.val →
    (s.my.blanks[n].st = .ready → Changes s (.brel b) (s.withBlank n { s.my.blanks[n] with st := .empty }) s.reg)
    ∧ (s.my.blanks[n].st ≠ .ready → exec (.brel b) s = .next (s.trapHere .blankState (BitVec.ofNat 64 n.val)))

/-! ## Pre-emption instructions (15 R365, R372) -/

/-- YIELD gives 0 before the slice end; after it, YIELD.q and a YIELD of the handler give 1, and any other parks the strand. PHINT
sets an entry, an entry of length 0 clears it, and one that is not aligned or does not lie in its space traps; `.clr` declares that
nothing is to be saved and `.all` withdraws the declaration. -/
def Obligations.PreemptionInstructions : Prop :=
  (∀ (s : State) (d : Reg), s.noPfx →
    (s.my.sliceEnd = none → Gives s (.yield d) d 0#64 ∧ Gives s (.yieldQ d) d 0#64)
    ∧ (s.my.sliceEnd.isSome = true → Gives s (.yieldQ d) d 1#64)
    ∧ (s.my.sliceEnd.isSome = true → swMode s.me.sw = true → Gives s (.yield d) d 1#64)
    ∧ (s.my.sliceEnd.isSome = true → swMode s.me.sw = false → ∃ t, exec (.yield d) s = .next t ∧ InTile s t
      ∧ t.me.parked = some d ∧ t.me.pc = nextPc s.me.pc ∧ (∀ r, t.reg r = s.reg r) ∧ ∀ sp o, t.my.byte sp o = s.my.byte sp o))
  ∧ (∀ (s : State) (a b : Reg) (spc : HintSpc) (n : Fin 8), s.noPfx →
    let sp := hintSpc spc
    let base := (s.reg a).toNat
    let len := (s.reg b).toNat
    (base % 64 = 0 → len % 64 = 0 → base + len ≤ spcSize sp →
      Changes s (.phintSet a b spc n) (s.modMy (fun x => { x with
        phint := x.phint.set n (if len = 0 then {} else ⟨spcCode sp, base, len⟩), decl := true })) s.reg)
    ∧ (base % 64 ≠ 0 ∨ len % 64 ≠ 0 → exec (.phintSet a b spc n) s = .next (s.trapHere .misaligned (spcTval (spcCode sp) base)))
    ∧ (base % 64 = 0 → len % 64 = 0 → spcSize sp < base + len →
      exec (.phintSet a b spc n) s = .next (s.trapHere .localBounds (spcTval (spcCode sp) base)))
    ∧ Changes s .phintClr (s.modMy (fun x => { x with phint := Vector.replicate 8 {}, decl := true })) s.reg
    ∧ Changes s .phintAll (s.modMy (fun x => { x with phint := Vector.replicate 8 {}, decl := false })) s.reg)

/-! ## Task instructions (07 R188 to R197, 12 R304, R305) -/

/-- SEND puts one message into the interface, counted under its colour; SPAWN does and gives 1, or gives 0 where a credit, an entry of
the interface or an inbox entry is wanting. Their checks, the first that fails deciding: the payload as a read of a record, the destination,
the class wait, and for SEND the interface; a destination that is no present tile of the partition is refused with the address of its
trigger slot as TVAL. STEAL sends its request with a credit and an inbox entry reserved, and waits; it gives 0
without either. LAUNCH gives the new launch's ID and queues it, or gives 0 where the queue is full (07 R197, 12 R303, R304). -/
def Obligations.TaskInstructions : Prop :=
  (∀ (s : State) (m : SendArgs) (p : SpawnArgs), s.noPfx →
    (m.stg = false → s.payChk (s.reg m.c) m.n.val = .ok → s.destChk (s.reg m.a) m.pr m.slot.val = .ok → s.wChk m.wc = .ok →
      s.iface s.ct < 16 → ∃ q, Changes s (.send m)
        ((s.modMy (fun x => { x with posted := x.posted ++ [s.msgPosted m.col] })).sendMsg q) s.reg
        ∧ q.kind = .send ∧ q.src = .tile s.ct ∧ q.dst = s.destTile (s.reg m.a) m.pr ∧ q.slot = m.slot ∧ q.stq = none
        ∧ q.arg = s.reg m.b ∧ q.pay = s.payload (s.reg m.c) m.n.val ∧ q.ctx = s.me.ctx ∧ q.wid = s.me.wid)
    ∧ (m.stg = true → s.payChk (s.reg m.c) m.n.val = .ok → (s.reg m.a).toNat % 256 < s.queueCount s.ct → s.wChk m.wc = .ok →
      s.iface s.ct < 16 → ∃ q, Changes s (.send m)
        ((s.modMy (fun x => { x with posted := x.posted ++ [s.msgPosted m.col] })).sendMsg q) s.reg
        ∧ q.kind = .send ∧ q.dst = s.unitTile s.ct ∧ q.stq = some (Fin.ofNat 16 ((s.reg m.a).toNat % 256)) ∧ q.arg = s.reg m.b)
    ∧ (s.payChk (s.reg p.c) p.n.val = .ok → s.destChk (s.reg p.a) p.pr 0 = .ok → s.wChk p.wc = .ok →
      ((s.my.credits = 0 ∨ 16 ≤ s.iface s.ct ∨ (p.n.val ≠ 0 ∧ s.my.freeInbox = none)) → Gives s (.spawn p) p.d 0#64)
      ∧ (s.my.credits ≠ 0 → s.iface s.ct < 16 → (p.n.val = 0 ∨ s.my.freeInbox.isSome = true) →
        ∃ q e, (e = if p.n.val = 0 then none else s.my.freeInbox)
          ∧ Changes s (.spawn p) ((s.modMy (fun x => { x.setInbox e true with
              posted := x.posted ++ [s.msgPosted p.col], credits := x.credits - 1 })).sendMsg q) (s.regsWith p.d 1#64)
          ∧ q.kind = .spawn ∧ q.dst = s.destTile (s.reg p.a) p.pr ∧ q.pc = p.target.setWidth 64 ∧ q.arg = s.reg p.b ∧ q.stl = p.stl
          ∧ q.pay = s.payload (s.reg p.c) p.n.val)))
  ∧ (∀ (s : State) (m : SendArgs) (p : SpawnArgs), s.noPfx →
    Decided s (.send m) [s.payChk (s.reg m.c) m.n.val,
      if m.stg then need (decide ((s.reg m.a).toNat % 256 < s.queueCount s.ct)) .remoteRefused (s.reg m.a)
        else s.destChk (s.reg m.a) m.pr m.slot.val,
      s.wChk m.wc, if s.iface s.ct < 16 then .ok else .wait { kind := .iface, tval := 0x0100 }]
    ∧ Decided s (.spawn p) [s.payChk (s.reg p.c) p.n.val, s.destChk (s.reg p.a) p.pr 0, s.wChk p.wc])
  ∧ (∀ (s : State) (v : Word) (n : Nat) (slot : Fin 16),
    (s.payChk v 0 = .ok)
    ∧ (n ≠ 0 → 0x10000 < v.toNat + 8 * n → s.payChk v n = .trap .localBounds (1#3 ++ v.extractLsb' 0 61))
    ∧ (n ≠ 0 → v.toNat + 8 * n ≤ 0x10000 → s.inPool s.ct .data v.toNat (8 * n) = false → v.toNat % 8 ≠ 0 →
      s.payChk v n = .trap .misaligned (1#3 ++ v.extractLsb' 0 61))
    ∧ ((∀ p, s.partOf s.ct = some p → ((s.parts[p]).covers (tileAt (field v 8 8) (field v 0 8))
        && !s.absent (tileAt (field v 8 8) (field v 0 8))) = false) →
      s.destChk v false slot.val = .trap .remoteRefused
        (0xFFF#12 ++ v.extractLsb' 8 8 ++ v.extractLsb' 0 8 ++ 5#3 ++ 0#9 ++ BitVec.ofNat 24 (0x800 + 16 * slot.val))))
  ∧ (∀ (s : State) (d a : Reg) (pr : Bool), s.noPfx → s.me.wait = none →
    (s.destChk (s.reg a) pr 0 = .ok →
      ((s.my.credits = 0 ∨ s.my.freeInbox = none) → Gives s (.steal d a pr) d 0#64)
      ∧ (∀ e, s.my.credits ≠ 0 → s.my.freeInbox = some e → ∃ t q w, exec (.steal d a pr) s = .next t ∧ t.msgs = s.msgs ++ [q]
        ∧ q.kind = .stealReq ∧ q.dst = s.destTile (s.reg a) pr ∧ t.my.inbox[e] = true ∧ t.my.credits = s.my.credits - 1
        ∧ t.me.wait = some w ∧ w.req = some q.id ∧ w.bound = none ∧ t.me.pc = s.me.pc ∧ (∀ r, t.reg r = s.reg r)
        ∧ ∀ sp o, t.my.byte sp o = s.my.byte sp o))
    ∧ (∀ h, s.recChk (s.reg a) 128 64 = .ok → s.headerAt a = some h → s.launchOk (some h) = true →
      (s.queueFull h = true → Gives s (.launch d a) d 0#64)
      ∧ (s.queueFull h = false → Changes s (.launch d a) (s.enqueue h) (s.regsWith d (BitVec.ofNat 64 (s.nextId h.vdev)))
        ∧ (s.enqueue h).vdevs[h.vdev].queues[h.pri] = s.vdevs[h.vdev].queues[h.pri] ++ [s.nextId h.vdev]
        ∧ s.nextId h.vdev ≠ 0)))

/-- MIGR to the own tile gives 1; to another tile it sends the strand's state, to resume there behind the MIGR with 1, and frees the
slot; without a credit or room it gives 0. ENDT frees the slot. ARM sets a trigger slot: ENTRY, COUNT, RELOAD and STL, with no drops;
TRIG applies an arrival at it at once, or waits (07 R177, R179, R195, R196). -/
def Obligations.MigrationAndTriggers : Prop :=
  (∀ (s : State) (d a : Reg), s.noPfx → s.holdsQueue = false →
    let dst := gTile (s.reg a)
    let okDst := s.ownChip (gChip (s.reg a)) && (match s.partOf s.ct with
      | some p => (s.parts[p]).covers dst && !s.absent dst
      | none => false)
    (swMode s.me.sw = false → okDst = true → dst = s.ct → Gives s (.migr d a) d 1#64)
    ∧ (swMode s.me.sw = false → okDst = true → dst ≠ s.ct → s.ownOps = false → s.drainsOpen s.ct s.me.uid = false →
      ((s.my.credits = 0 ∨ 16 ≤ s.iface s.ct) → Gives s (.migr d a) d 0#64)
      ∧ (s.my.credits ≠ 0 → s.iface s.ct < 16 → ∃ t q z, exec (.migr d a) s = .next t ∧ t.msgs = s.msgs ++ [q] ∧ q.kind = .migr
        ∧ q.dst = dst ∧ q.mig = some z ∧ z.regs = s.me.regs ∧ z.pc = nextPc s.me.pc ∧ z.res = some (d, 1#64) ∧ z.ctx = s.me.ctx
        ∧ z.vpin = s.me.vpin ∧ z.wid = s.me.wid ∧ (t.strand s.ct s.ck).live = false ∧ t.my.credits = s.my.credits - 1
        ∧ (∀ u, u ≠ s.ct → t.tile u = s.tile u) ∧ ∀ sp o, t.my.byte sp o = s.my.byte sp o))
    ∧ (s.drainsOpen s.ct s.me.uid = false → s.me.live = true → ∃ t, exec .endt s = .next t ∧ InTile s t
      ∧ (t.strand s.ct s.ck).live = false ∧ (∀ e, s.me.inbox = some e → t.my.inbox[e] = false)
      ∧ ∀ sp o, t.my.byte sp o = s.my.byte sp o))
  ∧ (∀ (s : State) (a : Reg) (slot : Fin 16) (e : Half), s.noPfx →
    let v := s.reg a
    let g := s.my.trigs[slot]
    (∃ w0 w1, Changes s (.arm a slot e) (s.modMy (fun x => { x with trigs := x.trigs.set slot ⟨w0, w1⟩ })) s.reg
      ∧ w0 = 0#16 ++ v.extractLsb' 16 16 ++ v.extractLsb' 0 16 ++ e ∧ w1 = 0#63 ++ v.extractLsb' 32 1)
    ∧ (1 < g.count → let w0 := g.w0.extractLsb' 32 32 ++ (g.w0.extractLsb' 16 16 - 1#16) ++ g.w0.extractLsb' 0 16
      Changes s (.trig a slot) (s.modMy (fun x => { x with trigs := x.trigs.set slot ⟨w0, g.w1⟩ })) s.reg)
    ∧ (g.count = 1 → s.my.regular < 16 → let w0 := g.w0.extractLsb' 32 32 ++ g.w0.extractLsb' 32 16 ++ g.w0.extractLsb' 0 16
      ∃ r, Changes s (.trig a slot)
        (s.modMy (fun x => { x with trigs := x.trigs.set slot ⟨w0, g.w1⟩, ready := x.ready ++ [r] })) s.reg
      ∧ r.pc = BitVec.ofNat 64 g.entry ∧ r.arg = v ∧ r.stamp = s.now ∧ r.inbox = none ∧ r.ctx = s.me.ctx)
    ∧ (g.count = 0 ∨ (g.count = 1 ∧ 16 ≤ s.my.regular) → exec (.trig a slot) s = .next (s.block { kind := .trig, tval := 0x0104 })))

/-- LNCH in user mode takes an illegal-instruction exception, in a guest's modes a virtual-instruction exception; in supervisor or machine
mode it submits the header at its address and gives the launch ID, or -1 where the class queue is full, -2 where the address or the header
is bad, or -3 where the device is not ready; a load of the header that takes an exception queues nothing (12 R305). That exceptions
enter M-mode, with these codes and values saved, and how the hart translates, is the model's presumption (log 6). -/
def Obligations.HartLaunch : Prop :=
  ∀ (s : State) (a d : Fin 32),
    let h := s.hart
    let takes := fun (c : Nat) => ∃ t, exec (.lnch a d) s = .next t ∧ t.hart.mcause = BitVec.ofNat 64 c ∧ t.hart.mepc = h.pc
      ∧ t.hart.mode = .m ∧ t.hart.x = h.x ∧ t.launches = s.launches ∧ t.vdevs = s.vdevs
    (h.mode = .u → takes 2) ∧ ((h.mode = .vs ∨ h.mode = .vu) → takes 22)
    ∧ (∀ c va, (h.mode = .m ∨ h.mode = .s) → (h.reg a).toNat % 64 = 0 → s.hartHeader h (h.reg a) 16 [] = .inl (c, va) → takes c
      ∧ ∀ t, exec (.lnch a d) s = .next t → t.hart.mtval = va)
    ∧ (∀ l, (h.mode = .m ∨ h.mode = .s) → (h.reg a).toNat % 64 = 0 → s.hartHeader h (h.reg a) 16 [] = .inr l →
      let gives := fun (v : Int) => ∃ t, exec (.lnch a d) s = .next t ∧ t.hart.pc = h.pc + 4#64 ∧ (d ≠ 0 → t.hart.reg d = BitVec.ofInt 64 v)
        ∧ (∀ r, r ≠ d → t.hart.reg r = h.reg r) ∧ t.launches = s.launches ∧ t.vdevs = s.vdevs
      (parseHeader (fun i => l.getD i 0#64) = none → gives (-2))
      ∧ (∀ x, parseHeader (fun i => l.getD i 0#64) = some x → s.devReady x.vdev = false → gives (-3)))
    ∧ ((h.mode = .m ∨ h.mode = .s) → (h.reg a).toNat % 64 ≠ 0 → ∃ t, exec (.lnch a d) s = .next t ∧ t.hart.pc = h.pc + 4#64
      ∧ (d ≠ 0 → t.hart.reg d = BitVec.ofInt 64 (-2)) ∧ (∀ r, r ≠ d → t.hart.reg r = h.reg r) ∧ t.launches = s.launches)
    ∧ (∀ l x, (h.mode = .m ∨ h.mode = .s) → (h.reg a).toNat % 64 = 0 → s.hartHeader h (h.reg a) 16 [] = .inr l →
        parseHeader (fun i => l.getD i 0#64) = some x → s.devReady x.vdev = true →
      (s.queueFull x = true → ∃ t, exec (.lnch a d) s = .next t ∧ (d ≠ 0 → t.hart.reg d = BitVec.ofInt 64 (-1)) ∧ t.launches = s.launches)
      ∧ (s.queueFull x = false → ∃ t, exec (.lnch a d) s = .next t ∧ (d ≠ 0 → t.hart.reg d = BitVec.ofNat 64 (s.nextId x.vdev))
        ∧ t.hart.pc = h.pc + 4#64 ∧ t.launches = (s.enqueue x).launches ∧ t.vdevs = (s.enqueue x).vdevs))

/-! ## Tags and versions (14 R339 to R360) -/

/-- TAGA gives the lowest free tag, which is live from then on, or waits; TAGS sets CTX; TAGQ gives the number of free tags and the
tag's state. -/
def Obligations.TagInstructions : Prop :=
  ∀ (s : State) (d a : Reg), s.noPfx →
    (∀ l n, s.myLaunch = some l → l.freeTag = some n →
      Changes s (.taga d) (s.modMyLaunch (fun l => l.setTag n .live)) (s.regsWith d (BitVec.ofNat 64 n)) ∧ 1 ≤ n ∧ n < 65536
      ∧ l.tag (BitVec.ofNat 16 n) = .free ∧ ∀ m, 1 ≤ m → m < n → l.tag (BitVec.ofNat 16 m) ≠ .free)
    ∧ (s.myLaunch.bind (·.freeTag) = none → exec (.taga d) s = .next (s.block { kind := .tag, tval := 0, dst := d }))
    ∧ (∃ t, exec (.tags a) s = .next t ∧ InTile s t ∧ t.me.ctx = (s.reg a).setWidth 16 ∧ t.me.pc = nextPc s.me.pc
      ∧ (∀ r, t.reg r = s.reg r) ∧ ∀ j, j ≠ s.ck → t.my.strand j = s.my.strand j)
    ∧ (∀ l, s.myLaunch = some l → Gives s (.tagq d a) d (BitVec.ofNat 64 ((65535 - l.tags.length) * 2 ^ 32
        + (match l.tag ((s.reg a).setWidth 16) with | .free => 0 | .live => 1 | .retiring => 2))))

/-- TAGR: with t = reg[a][15:0], where t = 0 or t is not live, d := 0 and no effect; else t is retiring, its retirement begins, and
d := 1. No strand's CTX changes (14 R350). -/
def Obligations.TagRetirement : Prop :=
  ∀ (s : State) (d a : Reg), s.noPfx → let t : Half := (s.reg a).setWidth 16
    (t = 0#16 ∨ s.tagState t ≠ .live → Gives s (.tagr d a) d 0#64)
    ∧ (∀ l p, t ≠ 0#16 → s.tagState t = .live → s.myLaunch = some l → s.partOf s.ct = some p →
      Changes s (.tagr d a) ((s.modLaunch l.id (fun l => l.setTag t.toNat .retiring)).modPart p (fun q => { q with
        retire := q.retire ++ [⟨t, none⟩] })) (s.regsWith d 1#64)
      ∧ (l.setTag t.toNat .retiring).tag t = .retiring)

/-- VPUB publishes the filling slot as its version and gives the slot that fills next; the window must have WR, and the version must be
above every published one, before it takes its place in line; and the VPUBs of a directory are performed in the order in which they reached
HOME (14 R356). VSW arrives at its window's switch, with its target, and waits; a target other than that of the tile's other strands there
is refused (14 R357). Without `.home`,
VGET gives the tile's current version of the window; with `.home`, the filling slot and the latest published version of its directory
(14 R359). VPIN pins a version, and `.off` writes 0 (14 R360). -/
def Obligations.VersionInstructions : Prop :=
  (∀ (s : State) (d a : Reg) (w : Fin 64) (e : WinEnt) (dir : VerDir) (n : Fin 4), s.noPfx → s.verWin w = some (e, dir) →
    let v : Half := (s.reg a).setWidth 16
    let newer := dir.slots.toList.all (fun x => x.st != 2 || decide (x.ver.toNat < v.toNat))
    dir.nextFill = some n →
    let first := s.vpubAhead e.key = false
    (e.wr = true → newer = true → dir.canFill n = true → first →
      Changes s (.vpub d a w) (s.modDir e.key (fun d => d.publish v n)) (s.regsWith d (BitVec.ofNat 64 n.val)))
    ∧ (e.wr = true → newer = false → exec (.vpub d a w) s = .next (s.trapHere .versionRefused (v.setWidth 64)))
    ∧ (e.wr = false → exec (.vpub d a w) s = .next (s.trapHere .versionRefused (BitVec.ofNat 64 (0x30000 + w.val))))
    ∧ (e.wr = true → newer = true → (¬first ∨ dir.canFill n = false) →
      exec (.vpub d a w) s = .next (s.block { kind := .vpub e.key, tval := 0x0401 }))
    ∧ (∀ f, dir.filling = some f → f ≠ n → ((dir.publish v n).slots[f]).st = 2 ∧ ((dir.publish v n).slots[f]).ver = v
      ∧ ((dir.publish v n).slots[n]).st = 1))
  ∧ (∀ (s : State) (a : Reg) (w : Fin 64) (e : WinEnt) (dir : VerDir), s.noPfx → s.verWin w = some (e, dir) →
    let agree := fun (g : Option Half) => !(s.my.targets w).any (fun t => t.1 != s.ck && t.2 != g)
    let arrives := fun (i : Instr) (g : Option Half) => ∃ t x, exec i s = .next t ∧ InTile { s with fresh := s.fresh + 1 } t
      ∧ t.me = { s.me with wait := some x } ∧ x.kind = .vsw w ∧ (∀ sp o, t.my.byte sp o = s.my.byte sp o)
      ∧ ((∀ r, s.me.wait = some r → r.kind ≠ .vsw w) → x.target = some g ∧ x.count = 0)
      ∧ (∀ r, s.me.wait = some r → r.kind = .vsw w → r.tval = 0x0400#64 → x = { r with last := s.steps })
    let v : Half := (s.reg a).setWidth 16
    (agree (some v) = true → arrives (.vsw a w) (some v)) ∧ (agree none = true → arrives (.vswLat w) none)
    ∧ (agree (some v) = false → exec (.vsw a w) s = .next (s.trapHere .versionRefused (v.setWidth 64)))
    ∧ (agree none = false → exec (.vswLat w) s = .next (s.trapHere .versionRefused 0x10000#64)))
  ∧ (∀ (s : State) (d a : Reg) (w : Fin 64), s.noPfx →
    (∀ e dir, s.verWin w = some (e, dir) →
      Gives s (.vget d w) d ((tget 0#16 s.my.tcv w.val).setWidth 64)
      ∧ (∀ f i, dir.filling = some f → dir.latest = some i →
          Gives s (.vgetHome d w) d (0#46 ++ BitVec.ofNat 2 f.val ++ (dir.slots[i]).ver)))
    ∧ (s.verWin w = none → exec (.vget d w) s = .next (s.trapHere .versionRefused (BitVec.ofNat 64 (0x20000 + w.val))))
    ∧ (∃ t, exec (.vpin a) s = .next t ∧ InTile s t ∧ t.me.vpin = 1#1 ++ (s.reg a).extractLsb' 0 16 ∧ t.me.pc = nextPc s.me.pc
      ∧ (∀ r, t.reg r = s.reg r) ∧ t.me.ctx = s.me.ctx)
    ∧ (∃ t, exec .vpinOff s = .next t ∧ InTile s t ∧ t.me.vpin = 0#17 ∧ t.me.pc = nextPc s.me.pc ∧ ∀ r, t.reg r = s.reg r))

/-! ## Engine instructions (05 R123 to R137, 06 R158 to R175, 10 R254 to R285) -/

/-- A shape record that is accepted has a rank of 0 to 3, an extent of 1 to 65,535 and a stride for each dimension and fewer than
2^32 elements; the bounds check of an operand passes exactly where every element and every scale byte lies in the space, whatever
the strides; and the alignment check looks at BASE only (05 R123 to R125, R132). -/
def Obligations.ShapesAndOperandBounds : Prop :=
  (∀ (at_ : Nat) (bs : List Byte) (h : Shape), parseShape at_ bs = some h →
    h.rank ≤ 3 ∧ h.ext.length = h.rank + 1 ∧ h.str.length = h.rank + 1 ∧ (∀ e ∈ h.ext, 1 ≤ e ∧ e < 65536) ∧ h.n < 2 ^ 32
    ∧ h.base < 2 ^ 19 ∧ h.sbase < 2 ^ 19)
  ∧ (∀ o : Opd, o.sh.ext ≠ [] → o.sh.ext.length = o.sh.str.length → (∀ e ∈ o.sh.ext, e ≠ 0) →
    let byte := fun i => o.sh.byteOf o.bits (elemOfs o.sh.ext o.sh.str i)
    (o.bounds = .ok ↔ (∀ i, i < o.sh.n → 0 ≤ byte i ∧ byte i + elemBytes o.bits ≤ (spcSize o.spc : Nat))
        ∧ (o.bs = true → o.sh.sbase + o.sh.scales ≤ spcSize o.spc))
    ∧ (o.bounds ≠ .ok → ∃ v, o.bounds = .trap .localBounds v)
    ∧ (8 ≤ o.bits → (o.aligned = .ok ↔ o.sh.base % (o.bits / 8) = 0)))

/-- A vector instruction whose checks pass puts its command into q2 and takes the counter values that it will draw; the first check
that does not pass decides. That VSAMP's check for a version stands behind those of R132 is the model's choice (log 55). -/
def Obligations.VectorInstructionsIssue : Prop :=
  ∀ (s : State) (i : Instr) (x : Pfx), isVector i = true →
    let form := vecForm (match s.pfx? with | some p => pfxField p 8 4 | none => (vecForm 0 i).dfl.2.2) i
    let c := s.vecCmd i x
    let cs := [legal (vecLegal i x && s.my.hold[(1 : Fin 4)] != some s.ck), s.recsChk ((vecRecs i x).map (fun r => (r, 64))),
      s.shapesChk (vecRecs i x), (match c.countBad with | some o => .trap .recordRefused (BitVec.ofNat 64 o) | none => .ok),
      s.opdsChk c.vecOpds, s.versionChk i x, s.issueChk 2 false 1 c.tok.n c.vecOpds]
    (s.enginePfx form = none → exec i s = .next s.trapIllegal)
    ∧ (s.enginePfx form = some x → Decided s i cs
      ∧ (ChecksPass cs → Issues s i (s.modMy (fun t => t.rngAdvance c.draws)) 2 1 c.vecOpds c))

/-- A matrix instruction whose checks pass puts its command into q0, and the issue-side copy follows it; a remote drain is counted in
the colour and class counters, one posted store for each 64 bytes. -/
def Obligations.MatrixInstructionsIssue : Prop :=
  ∀ (s : State) (i : Instr) (x : Pfx), isMatrix i = true →
    let form := mxForm (match s.pfx? with | some p => pfxField p 8 4 | none => 0) i
    let c := s.mxCmd i x
    let cs := [legal (s.mxLegal i x && s.my.hold[(0 : Fin 4)] != some s.ck), s.recsChk ((mxRecs i).map (fun r => (r, 64))),
      s.shapesChk (mxRecs i), (match c.mxBad with | some o => .trap .recordRefused (BitVec.ofNat 64 o) | none => .ok),
      s.opdsChk (c.mxOpds ++ c.mxReads), s.drainChk i x, s.issueChk 1 false 0 c.tok.n c.mxOpds]
    let z := s.drainPost c
    (s.enginePfx form = none → exec i s = .next s.trapIllegal)
    ∧ (s.enginePfx form = some x → Decided s i cs
      ∧ (ChecksPass cs →
        Issues s i (z.1.modMy (fun t => { t.rngAdvance c.mxDraws with mat := t.mat.note i x })) 1 0 c.mxOpds z.2))
    ∧ (∀ m, i = .mdrainRem m → ∃ l, z.1.my.posted = s.my.posted ++ l ∧ l.length = drainStores x.fd
      ∧ (∀ q ∈ l, q.col = m.col ∧ q.cls = .tile ∧ q.lim = true ∧ q.slot = s.ck ∧ q.uid = s.me.uid) ∧ z.2.posted = l.map (·.id))
    ∧ ((∀ m, i ≠ .mdrainRem m) → z = (s, c))
    ∧ (∀ rs ia tk, i = .mcfg rs ia tk → (s.my.mat.note i x).irs = rs ∧ (s.my.mat.note i x).iiacc = ia
      ∧ (s.my.mat.note i x).iblk = none)
    ∧ (∀ a w tk, i = .mload a w tk → (s.my.mat.note i x).iblk = some (x.fb, x.bsb, w))

/-- CPY, CPYF, CPYG, EGEMV and EPREF: their checks in order, and the command in q4; a copy to another tile or to virtual memory is
counted as one posted access. -/
def Obligations.CopyInstructionsIssue : Prop :=
  ∀ (s : State),
    (∀ (i : Instr) (m : CpArgs), (i = .cpy m ∨ (∃ q, i = .cpyf m q) ∨ i = .cpyg m) →
      (s.copyRec i m = none → Decided s i [s.enginePlain 2, s.recChk (s.reg m.a) 192 64, .trap .recordRefused (s.reg m.a)])
      ∧ (∀ r, s.copyRec i m = some r →
        let c : Cmd := { s.sample i m.tk noPfx with rc := .copy r, idx := s.copyIdx i r m }
        let cs := [s.enginePlain 2, s.recChk (s.reg m.a) 192 64, s.copyChk i r m, s.issueChk 3 true 2 m.tk.n c.cpOpds]
        let q := s.copyPosted r m.col
        Decided s i cs ∧ (ChecksPass cs →
          (r.dk = 0 → Issues s i s 3 2 c.cpOpds c)
          ∧ (r.dk ≠ 0 → Issues s i (s.bump.modMy (fun x => { x with posted := x.posted ++ [q] })) 3 2 c.cpOpds { c with posted := [q.id] }
            ∧ q.col = m.col ∧ q.lim = true ∧ q.slot = s.ck
            ∧ q.cls = (if r.dk = 2 then .edge else if s.ownChip (gChip r.daddr) then .tile else .net)))))
    ∧ (∀ (d a b : Reg) (tk : Tok) (x : Pfx) (r : EdgeRec), s.enginePfx egemvForm = some x → s.edgeRec a = some r →
      let c0 := s.sample (.egemv d a b tk) tk x
      let c : Cmd := { c0 with d := s.shapeAt d, b := s.shapeAt b, rc := .edge r, ver := s.cmdVersion s.ct c0 r.wva }
      let cs := [legal (egemvPair x.fb x.fa && s.my.hold[(2 : Fin 4)] != some s.ck), s.recsChk [(d, 64), (a, 64), (b, 64)],
        s.shapesChk [d], s.shapesChk [b], egemvShapes r c.b c.d,
        need (r.wva.toNat % 64 == 0 && decide (r.rowBytes x.fb ≤ 64 * r.rp) && (r.sva != 0#64) == x.bsb) .recordRefused (s.reg a),
        s.opdsChk c.cpOpds, s.virtualChk r.wva 1, s.virtualChk (r.last x.fb) 1,
        (if x.bsb then s.virtualChk r.sva 1 else .ok),
        (if x.bsb then s.virtualChk (r.sva + BitVec.ofNat 64 (r.n * r.rowScales - 1)) 1 else .ok),
        s.issueChk 4 true 2 tk.n c.cpOpds]
      Decided s (.egemv d a b tk) cs ∧ (ChecksPass cs → Issues s (.egemv d a b tk) s 4 2 c.cpOpds c))
    ∧ (∀ (a : Reg) (len : BitVec 21) (tk : Tok),
      let c := s.sample (.epref a len tk) tk noPfx
      let cs := [s.enginePlain 2, legal (decide (1 ≤ len.toNat) && decide (len.toNat ≤ 0x100000)), s.virtualChk (s.reg a) 1,
        s.virtualChk (s.reg a + BitVec.ofNat 64 (len.toNat - 1)) 1, s.issueChk 4 true 2 tk.n []]
      Decided s (.epref a len tk) cs ∧ (ChecksPass cs → Issues s (.epref a len tk) s 4 2 [] c))

/-- NSEND, NPUT, NGET, NRECV and RTRE: their checks, and the command in q6, all but NRECV and RTRE counted as one posted access of
the network class; RWAIT gives the number of deliveries once it reaches its operand; NCTR reads its counter, or waits for it, with tag 0 (14 R339). -/
def Obligations.NetworkInstructionsIssue : Prop :=
  ∀ (s : State) (a : Reg) (tk : Tok),
    (∀ (i : Instr) (f : NetForm) (col : Fin 8), (f, i) ∈ [(NetForm.send, Instr.nsend a col tk), (.put, .nput a col tk),
        (.get, .nget a col tk), (.recv, .nrecv a tk)] → ∀ r, s.parseSend (s.reg a).toNat (s.recBytes (s.reg a).toNat 64 s.me.ctx) f = some r →
      let c : Cmd := { s.sample i tk noPfx with rc := .send r }
      let cs := [s.enginePlain 3, s.recChk (s.reg a) 64 64, s.laddrChk r, (if f = .recv then .ok else s.limitChk),
        s.issueChk 5 false 3 tk.n []]
      let q := s.sendPosted r col (f == .get)
      Decided s i cs ∧ (ChecksPass cs →
        (f = .recv → Issues s i s 5 3 [] c)
        ∧ (f ≠ .recv → Issues s i (s.bump.modMy (fun x => { x with posted := x.posted ++ [q] })) 5 3 [] { c with posted := [q.id] }
          ∧ q.col = col ∧ q.cls = .net ∧ q.lim = true)))
    ∧ (∀ (fn : RedFn) (slot : BitVec 8) (x : Pfx) (e : RedEnt) (p : Fin 24) (ps : List TileId) (h : Shape),
      s.enginePfx { dfl := (0, 0, 0), okA := [0, 1, 2, 3, 4] } = some x → slot.toNat < 32 → s.treeAt s.ct slot.toNat = some (e, p, ps) →
      s.shapeAt a = some h →
      let c : Cmd := { s.sample (.rtre fn a slot tk) tk x with a := some h }
      let cs := [legal (s.my.hold[(3 : Fin 4)] != some s.ck), s.recsChk [(a, 64)], s.shapesChk [a],
        need (h.n == e.len) .recordRefused (s.reg a), s.opdsChk c.treeOpds, s.issueChk 5 false 3 tk.n c.treeOpds]
      Decided s (.rtre fn a slot tk) cs ∧ (ChecksPass cs → Issues s (.rtre fn a slot tk) s 5 3 c.treeOpds c))
    ∧ (∀ (d : Reg) (slot : BitVec 8), s.noPfx →
      let n := (s.my.tree[Fin.ofNat 32 slot.toNat]).count
      (slot.toNat < 32 → (s.reg a).toNat ≤ n → Gives s (.rwait d a slot) d (BitVec.ofNat 64 n))
      ∧ (slot.toNat < 32 → n < (s.reg a).toNat →
        exec (.rwait d a slot) s = .next (s.block { kind := .delivery, tval := 0x0600 + slot.toNat }))
      ∧ (32 ≤ slot.toNat → exec (.rwait d a slot) s = .next s.trapIllegal))
    ∧ (∀ (d : Reg) (ctr : Fin 32), s.noPfx → (∀ w, s.me.wait = some w → w.kind ≠ .reply ∧ w.kind ≠ .gate ∧ w.kind ≠ .counter) →
      let va := s.ctrAddr s.ct ctr.val
      s.virtualChk va 8 = .ok →
        Requests s (.nctrRd d ctr) true va (.ctr ctr.val) d false 0#16
        ∧ Requests s (.nctrWt d a ctr) true va (.ctrWait ctr.val ((s.reg a).toNat % 2 ^ 56)) d true 0#16)

/-! ## Engines (05 R136, R137, R428, 06 R166 to R174, 10 R260 to R270) -/

/-- The vector engine: it starts the next command of q2 (a Q form with its raw operand) where it is idle and the clk is not held; at
its end an operation has written its destination only, its blanks are ready, its locks are released and its token is in the entry
reserved for it. An element of an elementwise form is the operation on the elements of its operands, rounded once (05 R139 to R145,
R148, R151); VGATH and VSCAT move elements by their indices, and the last of several for one place stays (R146); VPACK moves the selected
elements together and gives their number (R147); VRED gives the reduction of each row (R149), VSCAN the running values of each segment
(R150), VSAMP the record of each row's sampled element, and VTOPK the records of its first K elements (R152 to R155). The values are stated
without a mask, without block scales in the destination and under tag 0. That an operation completes as one
step is the model's choice (log 8), and so are VMIN and VMAX under a scale of 0xFF, VNEG into UINT8 and the signs and NaNs that the rules
leave open (log 54), and what is flushed (log 55). That no combination of VRED and VSCAN is flushed (log 35), that a form which moves codes
leaves a source's scale aside (log 34), and how the special functions are rounded (log 11) is read from the spec by inference. -/
def Obligations.VectorOperations : Prop :=
  ∀ (s : State) (t : TileId) (c : Cmd), let x := s.tile t
    (∀ r v, x.vec = none → s.goesOn t c.id = true → s.heldNow = false →
      (x.cmdq[(1 : Fin 4)] = .cmd c :: r → c.isQ = false →
        exec (.vectorOperationStart t) s = .next (s.setTile t { x with cmdq := x.cmdq.set 1 r, vec := some c }))
      ∧ (x.cmdq[(1 : Fin 4)] = .cmd c :: .raw v :: r → c.isQ = true →
        exec (.vectorOperationStart t) s = .next (s.setTile t { x with cmdq := x.cmdq.set 1 r, vec := some { c with raw := some v } })))
    ∧ (x.vec = some c → isVector c.ins = true → s.goesOn t c.id = true → x.poison = [] → c.ctx = 0#16 → c.countBad = none →
        c.d.isSome = true → (∀ v, c.ins = .vpack v → c.c.isSome = true) → ∃ u, exec (.vectorCompletion t) s = .next u
      ∧ (u.tile t).vec = none ∧ u.hbm = s.hbm ∧ (∀ v, v ≠ t → u.tile v = s.tile v)
      ∧ (∀ b ∈ dstBlanks c.vecOpds, ((u.tile t).blanks[b]).st = .ready ∧ ((u.tile t).blanks[b]).hold = 0)
      ∧ (∀ l ∈ (u.tile t).lockList, l ∈ x.lockList ∧ l.owner ≠ c.id)
      ∧ (u.tile t).tokq[(1 : Fin 4)] = x.tokq[(1 : Fin 4)] ++ (if c.tok.n then [c.tok.tok] else [])
      ∧ (∀ sp a, sp ≠ .ctl → (∀ o ∈ c.vecOpds, o.dst = true → o.spc = sp →
            (∀ i, i < o.sh.n → ¬ (o.at_ i ≤ a ∧ a < o.at_ i + elemBytes o.bits))
            ∧ (o.bs = true → ¬ (o.sh.sbase ≤ a ∧ a < o.sh.sbase + o.sh.scales))) →
          u.byteAt t sp a = s.byteAt t sp a)
      ∧ (c.mask = none → c.pfx.bsd = false → 8 ≤ c.opD.bits → c.opD.sh.ext = [c.opD.sh.n] → c.opD.sh.str = [1] →
          (c.opD.sh.spc = 3 ∨ c.opD.sh.spc = 4) → (∀ o ∈ c.vecOpds, o.dst = false → o.spc ≠ c.opD.spc) → s.memOk →
        let v32 := fun i => (c.into32 (s.elemNum t c c.opA c.pfx.fa i)).1
        let dst := fun i => u.elem t 0#16 c.opD i
        let bits := fun i => s.elem t 0#16 c.opA i % 2 ^ c.opD.bits
        let m := c.opA.sh.row
        (∀ fn q all, c.ins = .vred fn q all → ∀ i, i < c.opD.sh.n →
          dst i = (c.round c.pfx.fd false i (c.reduce fn ((List.range c.rowLen).map (fun k => v32 (i * c.rowLen + k)))).1).1 % 2 ^ c.opD.bits)
        ∧ (∀ fn q hf excl, c.ins = .vscan fn q hf excl →
          let head := fun i => i % m == 0 || (hf.isSome && s.elem t 0#16 c.opB i != 0)
          ∃ y : Nat → Machine.Num, ∀ i, i < c.opD.sh.n →
            y i = (if head i then v32 i else (combine32 fn c.intRed (y (i - 1)) (v32 i)).1)
            ∧ dst i = (c.round c.pfx.fd false i (if !excl then y i else if head i then identity32 fn c.intRed else y (i - 1))).1
                % 2 ^ c.opD.bits)
        ∧ (∀ q, c.ins = .vscat q → let at_ := fun i => sgnVal 32 (s.elem t 0#16 c.opB i)
          ∀ j, j < c.opD.sh.n →
            ((∀ i, i < c.opA.sh.n → at_ i ≠ j) → dst j = s.elem t 0#16 c.opD j)
            ∧ ∀ i, i < c.opA.sh.n → at_ i = j → (∀ k, i < k → k < c.opA.sh.n → at_ k ≠ j) → dst j = bits i)
        ∧ (∀ q, c.ins = .vpack q → (c.opC.sh.spc = 3 ∨ c.opC.sh.spc = 4) → c.opC.spc ≠ c.opD.spc →
          let sel := (List.range c.opA.sh.n).filter (fun i => s.elem t 0#16 c.opB i != 0)
          (∀ j, j < c.opD.sh.n → dst j = (match sel[j]? with | some i => bits i | none => s.elem t 0#16 c.opD j))
          ∧ u.elem t 0#16 c.opC 0 = sel.length % 2 ^ 32)
        ∧ (let bit := fun (b : Bool) (k : Nat) => if b then 2 ^ k else 0
          let record := fun (tok ver val : Nat) (nover empty tie nan : Bool) =>
            (tok % 2 ^ 24 * 2 ^ 40 + ver * 2 ^ 24 + val * 2 ^ 8 + bit nover 3 + bit empty 2 + bit tie 1 + bit nan 0) % 2 ^ c.opD.bits
          (∀ vd va r temp tk, c.ins = .vsamp vd va r temp tk → ∀ i, i < c.opD.sh.n →
            let v := fun k => s.elemNum t c c.opA c.pfx.fa (i * m + k)
            let z := fun k => fp32 (divNum (fp32 (v k)) (decodeNum 0 temp.toNat)).1
            let sc := fun k => fp32 (sumNum .rne [z k, gumbel (c.drawAt (i * m + k) / 2 ^ 40)]).1
            let el := (List.range m).filter (fun k => !(sc k).isNan)
            let nan := (List.range m).any (fun k => (v k).isNan)
            let ver := (c.ver.getD 0#16).toNat
            let mx := (tree32 (combine32 .max false) 33 (el.map z)).1
            let sum := (tree32 (combine32 .add false) 33
              (el.map (fun k => decodeNum 0 (specFp32 .exp false (fp32 (sumNum .rne [z k, mx.neg]).1)).1))).1
            let lp := fun b => (sumNum .rne [fp32 (sumNum .rne [z b, mx.neg]).1, (decodeNum 0 (specFp32 .log false sum).1).neg]).1
            (el = [] → dst i = record 0xFFFFFF ver 0x7FC0 false true false nan)
            ∧ ∀ b ∈ el, (∀ k ∈ el, 0 ≤ cmpNum (sc b) (sc k) ∧ (k < b → cmpNum (sc k) (sc b) < 0)) →
              dst i = record (field c.regs[r] 0 24 + b) ver (roundNum 1 .rne 0 false false (lp b)).1 false false
                (el.any (fun k => k != b && cmpNum (sc k) (sc b) == 0)) nan)
          ∧ (∀ vd va r kk tk, c.ins = .vtopk vd va r kk tk → ∀ i, i < c.opD.sh.n →
            let v := fun k => s.elemNum t c c.opA c.pfx.fa (i / kk.toNat * m + k)
            let el := (((List.range m).filter (fun k => !(v k).isNan)).map (fun k => (k, v k))).mergeSort rankBefore
            let nan := (List.range m).any (fun k => (v k).isNan)
            let ver := match c.ver with | some w => w.toNat | none => 0xFFFF
            dst i = (match el[i % kk.toNat]? with
              | none => record 0xFFFFFF ver 0x7FC0 c.ver.isNone true false nan
              | some x => record (field c.regs[r] 0 24 + x.1) ver (roundNum 1 .rne 0 (c.fr 1) false x.2).1 c.ver.isNone false
                  (el.any (fun y => y.1 != x.1 && !ltNum x.2 y.2 && !ltNum y.2 x.2)) nan)))
        ∧ ∀ i, i < c.opD.sh.n →
          let a := s.elem t 0#16 c.opA i
          let b := s.elem t 0#16 c.opB i
          let va := s.elemNum t c c.opA c.pfx.fa i
          let vb := s.elemNum t c c.opB c.pfx.fb i
          let is := fun (code : Nat) => dst i = code % 2 ^ c.opD.bits
          let rounds := fun (v : Machine.Num) => is (c.round c.pfx.fd (vecWrap c.ins) i v).1
          let special := fun (fn : SpecFn) => let x := (specFp32 fn (c.fr 0) va).1
            if c.pfx.fd = 0 then is x else rounds (decodeNum 0 x)
          let w := fwidth c.pfx.fd
          let sh := ((if c.pfx.fb = 8 then (b : Int) else sgnVal (fwidth c.pfx.fb) b) % w).toNat
          let ints := c.pfx.fa = c.pfx.fd ∧ (c.pfx.fb = 7 ∨ c.pfx.fb = 8 ∨ c.pfx.fb = 9)
          match c.ins with
          | .vadd _ => rounds (sumNum c.mode [va, vb]).1
          | .vsub _ => rounds (sumNum c.mode [va, vb.neg]).1
          | .vmul _ => rounds (mulNum va vb).1
          | .vfma _ => rounds (fmaNum c.mode va vb (s.elemNum t c c.opC c.pfx.fd i)).1
          | .vmin _ => rounds (minmaxNum false va vb).1
          | .vmax _ => rounds (minmaxNum true va vb).1
          | .vcvt _ => rounds va
          | .vcmp r _ => is (if (relNum r va vb).1 then 1 else 0)
          | .vsel _ => is (if s.elem t 0#16 c.opC i = 0 then b else a)
          | .vand _ => is (a &&& b)
          | .vor _ => is (a ||| b)
          | .vxor _ => is (a ^^^ b)
          | .vabs _ => isInt c.pfx.fd = false → is (a % 2 ^ (fwidth c.pfx.fd - 1))
          | .vneg _ => (isInt c.pfx.fd = false → is (a ^^^ 2 ^ (fwidth c.pfx.fd - 1))) ∧ (isInt c.pfx.fd = true → rounds va.neg)
          | .vshl _ _ (.imm e) _ => is (a * 2 ^ e.toNat)
          | .vshr _ _ (.imm e) ar _ => is (if ar then ((sgnVal c.opD.bits a / (2 ^ e.toNat : Nat)) % (2 ^ c.opD.bits : Nat)).toNat else a / 2 ^ e.toNat)
          | .vshl _ _ (.shape _) _ => ints → is (a * 2 ^ sh)
          | .vshr _ _ (.shape _) ar _ => ints → is (if ar then ((sgnVal w a / (2 ^ sh : Nat)) % (2 ^ w : Nat)).toNat else a / 2 ^ sh)
          | .vexp _ => special .exp
          | .vlog _ => special .log
          | .vrcp _ => special .rcp
          | .vrsqrt _ => special .rsqrt
          | .vtanh _ => special .tanh
          | .vsigm _ => special .sigm
          | .vdraw _ raw _ => let x := c.drawAt i
            is (if raw then x else if c.pfx.fd = 9 then x / 2 ^ 32
              else (roundNum c.pfx.fd .rtz 0 false false (.fin false (2 * (x / 2 ^ 40) + 1) (-25))).1)
          | .vmov _ => is a
          | .vbcast v q => is (if q then c.raw.getD 0#64 else c.regs[v.a]).toNat
          | .vgath _ => is (if sgnVal 32 b < 0 ∨ (c.opA.sh.n : Int) ≤ sgnVal 32 b then 0 else s.elem t 0#16 c.opA (sgnVal 32 b).toNat)
          | .viota _ st _ _ => rounds (.ofInt (st.toInt + i))
          | _ => True))

/-- The matrix engine. Commands start in issue order once the array is released; a drain takes its values, rounded into FD, out of the
array, which goes back to the additive identity without `.keep`. MCFG, MZERO, MLOAD and MMUL, in RS mode on the array and in WS mode on
its destination (06 R169 to R171), act when they finish; a local drain writes its values at its completion (R172), a remote drain completes
when every store is answered, and then sends its wake message (R173), and one to the tree when its router has accepted it (R175). That a
command acts at its completion, as one step, is the model's choice (log 8), and so is that the stores of a remote drain leave at its start
(log 42). Elements of a destination that share bytes are left out (log 63). -/
def Obligations.MatrixOperations : Prop :=
  ∀ (s : State) (t : TileId) (c : Cmd) (l : List QEntry), let x := s.tile t
    let fresh : MRun := { cmd := c, done := false, failed := false, drain := none, flags := 0#5 }
    let zero := fun (int : Bool) => if int then 0#32 else 0x80000000#32
    let vals := (List.range 256).map (fun i => c.drainVal x.mat.iacc i ((x.mat.acc)[i]!).toNat)
    (startHead x.cmdq[(0 : Fin 4)] = (some c, l) → s.goesOn t c.id = true → s.heldNow = false → x.mat.run.all MRun.released = true →
      (c.drainDst = none → exec (.matrixCommandStart t) s = .next (s.setTile t { x with
        cmdq := x.cmdq.set 0 l, mat := { x.mat with run := x.mat.run ++ [fresh] } }))
      ∧ (x.mat.run.any MRun.buffered = false → (∀ d keep tk, c.ins = .mdrain d keep tk → ∃ u r, exec (.matrixCommandStart t) s = .next u
          ∧ (u.tile t).mat.run = x.mat.run ++ [r] ∧ r.cmd = c ∧ r.done = false ∧ r.drain = some (vals.map (·.1))
          ∧ (u.tile t).mat.acc = (if keep then x.mat.acc else Vector.replicate 256 (zero x.mat.iacc))
          ∧ (u.tile t).cmdq[(0 : Fin 4)] = l ∧ ∀ v, v ≠ t → u.tile v = s.tile v)
        ∧ (∀ m, c.ins = .mdrainRem m → ∃ u r rs, exec (.matrixCommandStart t) s = .next u
          ∧ (u.tile t).mat.run = x.mat.run ++ [r] ∧ r.cmd = c ∧ r.drain = some (vals.map (·.1)) ∧ u.plane = s.plane ++ rs
          ∧ rs.map (·.id) = c.posted ∧ (∀ q ∈ rs, q.post = true ∧ q.drain = some c.id ∧ q.tile = t ∧ gTile q.addr = c.dest % 65536))
        ∧ (∀ slot keep tk, c.ins = .mdrainTree slot keep tk → ∃ u r, exec (.matrixCommandStart t) s = .next u
          ∧ (u.tile t).mat.run = x.mat.run ++ [r] ∧ r.cmd = c
          ∧ (u.tile t).contribs = x.contribs ++ [⟨c, Fin.ofNat 32 slot.toNat, ⟨some .add, (vals.map (·.1)).map (BitVec.ofNat 32)⟩⟩])))
    ∧ (∀ r rest, x.mat.run = r :: rest → r.cmd = c → r.done = false → rest.all (fun q => !q.done && q.cmd.id != c.id) = true → s.goesOn t c.id = true →
      x.poison = [] → c.ctx = 0#16 →
      (∀ rs ia tk, c.ins = .mcfg rs ia tk → ∃ u, exec (.matrixCompletion t) s = .next u ∧ (u.tile t).mat.run = rest
        ∧ (u.tile t).mat.rs = rs ∧ (u.tile t).mat.iacc = ia ∧ (u.tile t).mat.blk = none
        ∧ (u.tile t).mat.acc = Vector.replicate 256 (zero ia))
      ∧ (∀ tk, c.ins = .mzero tk → ∃ u, exec (.matrixCompletion t) s = .next u ∧ (u.tile t).mat.run = rest
        ∧ (u.tile t).mat.acc = Vector.replicate 256 (zero x.mat.iacc))
      ∧ (∀ a w tk, c.ins = .mload a w tk → ∃ u, exec (.matrixCompletion t) s = .next u ∧ (u.tile t).mat.run = rest
        ∧ (u.tile t).mat.blk = some (s.loadBlock t c w) ∧ (u.tile t).mat.acc = x.mat.acc)
      ∧ (∀ a b tk, c.ins = .mmulRs a b tk → ∃ u, exec (.matrixCompletion t) s = .next u ∧ (u.tile t).mat.run = rest
        ∧ ∀ i : Fin 256, (u.tile t).mat.acc[i] = BitVec.ofNat 32 (c.accumulate x.mat.iacc (mxGroup c.pfx.fb) ((x.mat.acc)[i]).toNat
            ((List.range ((c.mxAt 0).sh.extAt 1)).map (fun k =>
              mulNum (s.elemNum t c (c.mxAt 0) c.pfx.fa (i.val / 16 + 16 * k)) (s.elemNum t c (c.mxAt 1) c.pfx.fb (i.val % 16 + 16 * k))))).1))
    ∧ (∀ r rest, x.mat.run = r :: rest → r.cmd = c → r.done = false → r.failed = false → rest.all (fun q => !q.done && q.cmd.id != c.id) = true →
      s.goesOn t c.id = true → x.poison = [] → c.ctx = 0#16 → s.memOk →
      let d := c.mxAt 0
      let g := mxGroup c.pfx.fb
      let apart := ∀ i j, i < j → j < d.sh.n → d.at_ i + elemBytes d.bits ≤ d.at_ j ∨ d.at_ j + elemBytes d.bits ≤ d.at_ i
      let ends := fun (u : State) => (u.tile t).mat.run = rest ∧ u.hbm = s.hbm ∧ (∀ v, v ≠ t → u.tile v = s.tile v)
        ∧ (∀ n ∈ dstBlanks c.mxOpds, ((u.tile t).blanks[n]).st = .ready ∧ ((u.tile t).blanks[n]).hold = 0)
        ∧ (u.tile t).tokq[(0 : Fin 4)] = x.tokq[(0 : Fin 4)] ++ (if c.tok.n then [c.tok.tok] else [])
        ∧ (∀ sp a, sp ≠ .ctl → (d.spc = sp → ∀ i, i < d.sh.n → ¬ (d.at_ i ≤ a ∧ a < d.at_ i + elemBytes d.bits)) →
          u.byteAt t sp a = s.byteAt t sp a)
      (∀ dr ar acc tk b, c.ins = .mmul dr ar acc tk → x.mat.blk = some b → c.pfx.fd = 0 ∨ c.pfx.fd = 9 → d.sh.spc = 4 → (c.mxAt 1).sh.spc = 3 →
        apart → ∃ u, exec (.matrixCompletion t) s = .next u ∧ ends u ∧ (u.tile t).mat.acc = x.mat.acc ∧ (u.tile t).mat.blk = x.mat.blk
          ∧ ∀ i, i < d.sh.n → u.elem t 0#16 d i = (c.accumulate x.mat.iacc g (if acc then s.elem t 0#16 d i else if x.mat.iacc then 0 else 0x80000000)
              ((List.range (16 * g)).map (fun k =>
                mulNum (s.elemNum t c (c.mxAt 1) c.pfx.fa (k + 16 * g * (i / 16))) (b.weight c k (i % 16))))).1 % 2 ^ 32)
      ∧ (∀ dr keep tk vs, c.ins = .mdrain dr keep tk → r.drain = some vs → vs.length = d.sh.n → 8 ≤ d.bits → (d.sh.spc = 3 ∨ d.sh.spc = 4) →
        apart → ∃ u, exec (.matrixCompletion t) s = .next u ∧ ends u ∧ (u.tile t).mat.acc = x.mat.acc
          ∧ ∀ i, i < d.sh.n → u.elem t 0#16 d i = vs[i]! % 2 ^ d.bits)
      ∧ (∀ slot keep tk rd l, c.ins = .mdrainTree slot keep tk → x.contribs = ⟨c, Fin.ofNat 32 slot.toNat, rd⟩ :: l →
        ((x.tree[Fin.ofNat 32 slot.toNat]).own).length < 2 → (∀ q ∈ l, q.cmd.id ≠ c.id) → ∃ u, exec (.contributionAccepted t) s = .next u
          ∧ ends u ∧ (u.tile t).contribs = l
          ∧ ((u.tile t).tree[Fin.ofNat 32 slot.toNat]).own = (x.tree[Fin.ofNat 32 slot.toNat]).own ++ [rd]))
    ∧ (∀ r rest m, x.mat.run = r :: rest → r.cmd = c → c.ins = .mdrainRem m → r.done = false → r.failed = false →
      rest.all (fun q => !q.done && q.cmd.id != c.id) = true → s.goesOn t c.id = true → s.storesOpen t c.id = false → s.msgs.any (fun q => q.src == .wake t) = false →
      ∃ u, exec (.remoteDrainCompletion t) s = .next u ∧ (u.tile t).mat.run = rest
        ∧ u.msgs = s.msgs ++ (if m.wk then [wakeMsg s.fresh t x.img c m] else []))

/-- The copy engine. The head of q4 starts while fewer than four operations run; a copy moves its elements, any number of them in a
step, and completes with the last; one that meets a refusal fails: the blank empty with ERR, no token, the cause at the strand. What a
local copy leaves: each byte of destination element i is that of source element i (CPY), of the pattern (CPYF), or of the element that the
index names, zero where it is out of range (CPYG), and no other byte has changed (10 R260). An
EGEMV that has arrived takes its place in its stack's order; each element of its result is the join, in ascending order, of the sums of the
channels that hold weights of its row (R267), flushed as log 54 says; EPREF ends with its token. Which elements a step moves, and that a
pass is one step, are the model's choice (log 8). -/
def Obligations.CopyOperations : Prop :=
  ∀ (s : State) (t : TileId) (c : Cmd) (l : List QEntry), let x := s.tile t
    (startHead x.cmdq[(2 : Fin 4)] = (some c, l) → s.goesOn t c.id = true → s.heldNow = false → x.copies.length < 4 →
      exec (.copyStart t) s = .next (s.setTile t { x with
        cmdq := x.cmdq.set 2 l, copies := x.copies ++ [{ cmd := c, phase := .running }] }))
    ∧ (∀ q, s.copyRun t c.id = some q → q.cmd = c → s.goesOn t c.id = true →
      (∀ r, c.rc = .copy r → q.phase = .running → q.pos = 0 → s.copyMayWrite t c = true → x.poison = [] →
        (∀ s1 v, State.copyElems t c r false r.n 0 s = (r.n, .ok s1 v) → ∃ u, exec (.copyCompletion t ⟨c.id, r.n⟩) s = .next u
          ∧ (u.tile t).copies = (s1.tile t).copies.filter (fun q => q.cmd.id != c.id)
          ∧ (u.tile t).posted = (s1.tile t).posted.filter (fun q => !c.posted.contains q.id)
          ∧ (∀ b ∈ dstBlanks c.cpOpds, ((u.tile t).blanks[b]).st = .ready ∧ ((u.tile t).blanks[b]).fw = false)
          ∧ (∀ k ∈ (u.tile t).lockList, k.owner ≠ c.id) ∧ u.hbm = s1.hbm ∧ (∀ v, v ≠ t → u.tile v = s1.tile v)
          ∧ (∀ sp a, sp ≠ .ctl → u.byteAt t sp a = s1.byteAt t sp a)
          ∧ (u.tile t).tokq[(2 : Fin 4)] = (s1.tile t).tokq[(2 : Fin 4)] ++ (if c.tok.n then [c.tok.tok] else []))
        ∧ (∀ n i s1 v, State.copyElems t c r false (min n r.n) 0 s = (i, .ok s1 v) → i < r.n → ∃ u, exec (.copyCompletion t ⟨c.id, n⟩) s = .next u
          ∧ u.hbm = s1.hbm ∧ (∀ z ∈ (u.tile t).copies, z.cmd.id = c.id → z.pos = i ∧ z.phase = .running)
          ∧ (∀ v sp a, sp ≠ .ctl → u.byteAt v sp a = s1.byteAt v sp a))
        ∧ (∀ i k v s1, State.copyElems t c r false r.n 0 s = (i, .refuse k v s1) → ∃ u, exec (.copyFailure t c.id) s = .next u
          ∧ (u.tile t).copies.any (fun q => q.cmd.id == c.id) = false
          ∧ (∀ b ∈ dstBlanks c.cpOpds, ((u.tile t).blanks[b]).st = .empty ∧ ((u.tile t).blanks[b]).err = true)
          ∧ (∀ k ∈ (u.tile t).lockList, k.owner ≠ c.id)))
      ∧ (∀ r dsp ssp, c.rc = .copy r → q.phase = .running → q.pos = 0 → c.posted = [] → x.poison = [] → c.ctx = 0#16 → s.memOk →
        r.dk = 0 → spcOf r.dspc = some dsp → dsp ≠ .ctl →
        let e := r.esize
        let dst := fun i => (BitVec.ofInt 64 ((r.daddr.toNat : Int) + elemOfs r.ext r.dstr i)).toNat
        let apart := ∀ i j, i < j → j < r.n → dst i + e ≤ dst j ∨ dst j + e ≤ dst i
        let clear := fun (a : Nat) => ssp = dsp → ∀ i, i < r.n → a + e ≤ dst i ∨ dst i + e ≤ a
        let moves := fun (byte : Nat → Nat → Byte) => ∃ u, exec (.copyCompletion t ⟨c.id, r.n⟩) s = .next u
          ∧ (∀ i j, i < r.n → j < e → u.byteAt t dsp (dst i + j) = byte i j)
          ∧ (∀ sp a, sp ≠ .ctl → (sp = dsp → ∀ i, i < r.n → ¬(dst i ≤ a ∧ a < dst i + e)) → u.byteAt t sp a = s.byteAt t sp a)
          ∧ (u.tile t).copies = x.copies.filter (fun q => q.cmd.id != c.id) ∧ u.hbm = s.hbm ∧ ∀ v, v ≠ t → u.tile v = s.tile v
        apart →
        (∀ m raw, c.ins = .cpyf m raw → moves (fun _ j => (if raw then c.raw.getD 0#64 else c.regs[m.b]).extractLsb' (8 * j) 8))
        ∧ (∀ m, c.ins = .cpy m → r.sk = 0 → spcOf r.sspc = some ssp → ssp ≠ .ctl →
          let src := fun i => (BitVec.ofInt 64 ((r.saddr.toNat : Int) + elemOfs r.ext r.sstr i)).toNat
          (∀ i, i < r.n → clear (src i)) → moves (fun i j => s.byteAt t ssp (src i + j)))
        ∧ (∀ m, c.ins = .cpyg m → r.sk = 0 → spcOf r.sspc = some ssp → ssp ≠ .ctl →
          let k := fun i => i / (r.ext.take r.rank).foldl (· * ·) 1
          let ix := fun i => c.idx.getD (k i) 0
          let none_ := fun i => ix i < 0 ∨ (r.glim : Int) ≤ ix i
          let src := fun i => (BitVec.ofInt 64 ((r.saddr.toNat : Int) + elemOfs r.ext r.sstr i + r.sstr.getLastD 0 * (ix i - k i))).toNat
          (∀ i, i < r.n → ¬none_ i → clear (src i)) → moves (fun i j => if none_ i then 0#8 else s.byteAt t ssp (src i + j))))
      ∧ (∀ r, c.rc = .edge r → q.phase = .running → s.power.hotStacks.contains r.mep = false → s.boot.noStack.contains r.mep = false → rowsRefused (s.wins t) r.wva.toNat (r.last c.pfx.fb).toNat = false → s.stampSlot t c r = none →
        ∃ u, exec (.egemvAccept t c.id) s = .next u ∧ u.passSeq = s.passSeq + 1
          ∧ (∀ z ∈ (u.tile t).copies, z.cmd.id = c.id → z.phase = .accepted s.passSeq)
          ∧ (∀ z ∈ x.copies, z.cmd.id ≠ c.id → z ∈ (u.tile t).copies))
      ∧ (∀ a n tk, c.ins = .epref a n tk → ∃ u, exec (.eprefWarmingEnd t c.id) s = .next u
          ∧ (u.tile t).copies = x.copies.filter (fun q => q.cmd.id != c.id)
          ∧ (u.tile t).tokq[(2 : Fin 4)] = x.tokq[(2 : Fin 4)] ++ (if c.tok.n then [c.tok.tok] else [])
          ∧ (∀ v sp a, sp ≠ .ctl → u.byteAt v sp a = s.byteAt v sp a)))
    ∧ (∀ (k : Fin 24) seq q r, firstPass (s.passesAt k.val) = some (seq, t, q) → q.cmd = c → c.rc = .edge r → q.phase = .accepted seq →
      x.poison = [] → c.ctx = 0#16 →
      let o := (List.range r.n).foldl (fun (o : PassOut) n => o.row t c r false n) { acc := { s := s } }
      o.acc.away = false → o.acc.bad = none → ∃ u, exec (.egemvPass k) s = .next u
        ∧ (∀ z ∈ (u.tile t).copies, z.cmd.id ≠ c.id)
        ∧ (∀ b ∈ dstBlanks c.cpOpds, ((u.tile t).blanks[b]).st = .ready)
        ∧ u.hbm = o.acc.s.hbm ∧ (∀ v, v ≠ t → u.tile v = o.acc.s.tile v)
        ∧ (let d := c.cpOpds.getD 1 default
          let act := c.cpOpds.getD 0 default
          let fb := c.pfx.fb
          let rows := fun n => (List.range n).foldl (fun (o : PassOut) n => o.row t c r false n) { acc := { s := s } }
          let bytes := fun n => PassAcc.read t c r.mep false (r.rowBytes fb / 64 + 2) (r.rowBytes fb) (r.rowAt n)
            { (rows n).acc with bytes := [], chans := [] }
          let scales := fun n => (PassAcc.read t c r.mep false (r.rowScales / 64 + 2) r.rowScales
            (r.sva + BitVec.ofNat 64 (n * r.rowScales)) { bytes n with bytes := [], chans := [] }).bytes
          let weight := fun n k => let v := readNum fb (c.fi fb) (weightCode fb (bytes n).bytes k)
            if c.pfx.bsb then scaleNum ((scales n).getD (k / 32) 0#8).toNat v else v
          let sums := fun n b => (rowChannels fb r.k (bytes n).chans).map (fun l => (c.accumulate false (mxGroup fb) 0
            (l.map (fun k => mulNum (weight n k) ((rows n).acc.s.elemNum t c act c.pfx.fa (k + r.k * b))))).1)
          let join := fun x y => (roundNum 0 .rne 0 (c.fr 0) false (sumNum .rne [decodeNum 0 x, decodeNum 0 y]).1).1
          s.memOk → d.sh.spc = 4 → r.n * act.sh.extAt 1 = d.sh.n →
          (∀ i j, i < j → j < d.sh.n → d.at_ i + elemBytes d.bits ≤ d.at_ j ∨ d.at_ j + elemBytes d.bits ≤ d.at_ i) →
          ∀ n b, n < r.n → b < act.sh.extAt 1 → u.elem t 0#16 d (n + r.n * b) = (match sums n b with
            | [] => 0
            | x :: l => l.foldl join x) % 2 ^ 32))

/-! ## The reduction tree and the network (10 R271 to R285, 13 R325) -/

/-- A router that holds a round of every child and of its own tile combines them in the order north, west, south, east, own, and sends
the result to its parent, or as the total to the root's receivers: the root itself, every participant, or to participant i the i-th of as
many equal parts as there are participants (10 R273, R274); a delivery writes its elements at DOFS of ACC, counts, and puts
DTOK into q7 where there is room. -/
def Obligations.ReductionTree : Prop :=
  ∀ (s : State) (t : TileId) (k : Fin 32), let x := s.tile t
    (∀ (e : RedEnt) (p : Fin 24) (ps : List TileId) (own : Round) (rest rs : List Round), s.treeAt t k.val = some (e, p, ps) →
      let root := s.rootOf p e
      let kids := treeChildren ps root t
      let r := match rs with
        | [] => own
        | a :: l => (l.foldl Round.join a).join own
      (x.tree[k]).own = own :: rest → kids.mapM (fun u => ((x.tree[k]).from_ u).head?) = some rs →
      (∀ u, treeParent ps root t = some u → u ≠ t → (((s.tile u).tree[k]).from_ t).length < 2 →
        ∃ z, exec (.roundCombine t k) s = .next z ∧ ((z.tile u).tree[k]).from_ t = ((s.tile u).tree[k]).from_ t ++ [r]
          ∧ ((z.tile t).tree[k]).own = rest ∧ z.hbm = s.hbm ∧ ∀ v, v ≠ t → v ≠ u → z.tile v = s.tile v)
      ∧ (treeParent ps root t = none → e.mode = 0 → root = t →
        ∃ z, exec (.roundCombine t k) s = .next z ∧ ((z.tile t).tree[k]).deliv = (x.tree[k]).deliv ++ [r.total]
          ∧ ((z.tile t).tree[k]).own = rest ∧ ∀ v, v ≠ t → z.tile v = s.tile v)
      ∧ (treeParent ps root t = none → ps.Nodup → (e.mode = 1 ∨ e.mode = 2) →
        let n := r.total.length / ps.length
        ∃ z, exec (.roundCombine t k) s = .next z ∧ ((z.tile t).tree[k]).own = rest ∧ z.hbm = s.hbm
          ∧ (∀ i v, ps[i]? = some v → ((z.tile v).tree[k]).deliv = ((s.tile v).tree[k]).deliv
              ++ [if e.mode = 1 then r.total else (r.total.drop (i * n)).take n])
          ∧ ∀ v, v ≠ t → v ∉ ps → z.tile v = s.tile v))
    ∧ (∀ (e : RedEnt) (v : List (BitVec 32)) (l : List (List (BitVec 32))), s.redEnt t k.val = some e → (x.tree[k]).tokPending = false →
      (x.tree[k]).deliv = v :: l → x.guarded .acc e.dofs (4 * v.length) true = false → x.poison = [] →
      ∃ z, exec (.treeDelivery t k) s = .next z ∧ ((z.tile t).tree[k]).deliv = l ∧ ((z.tile t).tree[k]).count = (x.tree[k]).count + 1
        ∧ (s.memOk → ∀ i, i < 4 * v.length → z.byteAt t .acc (e.dofs + i) = ((v[i / 4]!).extractLsb' (8 * (i % 4)) 8))
        ∧ (∀ a, (a < e.dofs ∨ e.dofs + 4 * v.length ≤ a) → z.byteAt t .acc a = s.byteAt t .acc a)
        ∧ (z.tile t).tokq[(3 : Fin 4)] = x.tokq[(3 : Fin 4)] ++ (if e.dn && decide (0 < x.tokFree 3) then [e.dtok] else [])
        ∧ ((z.tile t).tree[k]).tokPending = (e.dn && !decide (0 < x.tokFree 3)))
    ∧ (∀ j c l, x.contribs = j :: l → j.cmd = c → ((x.tree[j.slot]).own).length < 2 → s.goesOn t c.id = true →
      (∀ q ∈ l, q.cmd.id ≠ c.id) → ∃ z, exec (.contributionAccepted t) s = .next z ∧ (z.tile t).contribs = l
        ∧ ((z.tile t).tree[j.slot]).own = (x.tree[j.slot]).own ++ [j.round])

/-- The network engine: it takes the head of q6; an NRECV appends its buffer, an RTRE its contribution, an NGET sends its request, and
an NSEND or NPUT is cut into packets, each of which leaves through one port, at which its source bytes have been read. An acknowledgement
takes its packets out; "key refused" fails the operation; "not ready" has the message sent again after 14,000 clks; a packet is sent
again, its source read once more, RTO clks after its latest transmission. A peer's message takes the next buffer of its queue in its turn,
or is refused as not ready, and a peer's read of a region that grants it is acknowledged and answered packet by packet. Peers and packets
in flight, and when source bytes are read, are as logs 9 and 16 say. -/
def Obligations.NetworkOperations : Prop :=
  ∀ (s : State) (t : TileId) (p : Fin 24) (c : Cmd) (l : List QEntry) (ofs : Nat), let x := s.tile t
    let q := s.parts[p]
    (startHead x.cmdq[(3 : Fin 4)] = (some c, l) → s.goesOn t c.id = true → s.heldNow = false → s.partOf t = some p →
      let start := Instr.networkCommandStart { tile := t, ofs := ofs, n := 0 }
      (∀ fn a slot tk, c.ins = .rtre fn a slot tk → x.poison = [] → ∃ u, exec start s = .next u
        ∧ (u.tile t).contribs = x.contribs ++ [⟨c, Fin.ofNat 32 slot.toNat, s.treeRound t c fn⟩] ∧ (u.tile t).cmdq[(3 : Fin 4)] = l
        ∧ ∀ v, v ≠ t → u.tile v = s.tile v)
      ∧ (∀ a tk r, c.ins = .nrecv a tk → c.rc = .send r → (q.recvq[r.rq]).length < 256 → ∃ u, exec start s = .next u
        ∧ (u.parts[p]).recvq[r.rq] = q.recvq[r.rq] ++ [⟨t, c.uid, c.tok, r.laddr, r.len, r.ce, r.ctr⟩]
        ∧ (u.tile t).cmdq[(3 : Fin 4)] = l ∧ u.hbm = s.hbm)
      ∧ (∀ a col tk r, c.rc = .send r → (∀ o ∈ q.netBusy, o.id ≠ c.id) →
        (c.ins = .nget a col tk → ∃ u o, exec start s = .next u ∧ (u.parts[p]).netBusy = q.netBusy ++ [o] ∧ o.id = c.id ∧ o.cmd = c
          ∧ o.rc = r ∧ o.failing = false ∧ o.got = [] ∧ o.pkts.length = 1 ∧ (u.tile t).cmdq[(3 : Fin 4)] = l)
        ∧ ((c.ins = .nsend a col tk ∨ c.ins = .nput a col tk) → ∃ u o, exec start s = .next u ∧ (u.parts[p]).netBusy = q.netBusy ++ [o]
          ∧ o.id = c.id ∧ o.cmd = c ∧ o.rc = r ∧ o.failing = false ∧ o.sent = 0 ∧ o.pkts.length = (r.len + q.mtu - 1) / q.mtu
          ∧ (u.tile t).cmdq[(3 : Fin 4)] = l ∧ u.hbm = s.hbm)))
    ∧ (∀ op n o k j s0 s2 bs, s.partOf t = some p → n ≠ 0 → s.netOp p op = some o → o.tile = t → o.isGet = false → o.failing = false →
      o.phase = .going → o.pkts.find? (fun k => k.no == ofs / q.mtu) = some k → k.due = true → ofs + n ≤ o.rc.len →
      ofs + n ≤ q.mtu * (ofs / q.mtu + 1) → (∀ i, i < n → o.srcByte (ofs + i) = none) → s.pktPort p k = some (j, s0) →
      (s0.modNet p op (fun y => y.setPort k.no j)).netBuf p o j false ofs n none = .ok s2 bs →
      let s3 := s2.modNet p op (fun y => { y with phase := .going, src := (ofs, bs) :: y.src })
      ∀ o3, s3.netOp p op = some o3 → (s3.parts[p]).mtu = q.mtu → ∃ u,
        exec (.networkCommandStart { tile := t, ofs := ofs, n := n, op := op }) s = .next u
        ∧ (o3.readyPkt q.mtu = none → u = s3)
        ∧ (∀ k3 bs3 j3 s4, o.pkts = [k] → o3.readyPkt q.mtu = some (k3, bs3) → s3.pktPort p k3 = some (j3, s4) →
          u.hbm = s4.hbm ∧ ∃ w, u.notices = s4.notices ++ [.packet p w] ∧ w.peer = o3.rc.peer ∧ w.rod = o3.rc.rod
            ∧ w.msg = o3.msg ∧ w.ord = (if o3.isGet then o3.id else o3.ord) ∧ w.seq = k3.no ∧ w.count = o3.pkts.length ∧ w.len = o3.rc.len ∧ w.ofs = q.mtu * k3.no
            ∧ w.port = j3 ∧ w.body = o3.body ∧ w.bytes = bs3))
    ∧ (∀ op o, s.netOp p op = some o → o.failing = false → o.sent ≠ 0 → (o.isGet || !o.complete) = true →
      exec (.sackArrival p op .refusedKey) s = .next (s.netFail p op)
      ∧ (o.phase = .going → (∀ k ∈ o.pkts, k.resends + o.tries < q.rlim) → ∃ u, exec (.sackArrival p op .notReady) s = .next u
        ∧ u = s.modNet p op (fun o => { o with phase := .notReady (s.now + 14000) }))
      ∧ (∀ ns : List Nat, let o1 : NetOp := { o with
          pkts := o.pkts.map (fun k => if ns.contains k.no && decide (k.no < o.sent) then { k with acked := true } else k) }
        o1.complete = false → o1.missing = [] → ∃ u, exec (.sackArrival p op (.acked ns)) s = .next u ∧ u.netOp p op = some o1)
      ∧ (∀ k, o.pkts.find? (fun y => y.no == k.no) = some k → k.acked = false → k.no < o.sent → o.phase = .going →
        k.sentAt + q.rto ≤ s.now → k.due = false → k.resends + o.tries < q.rlim →
        (o.isGet = true → o.pkts = [k] → s.netPorts p ≠ [] →
          ∃ u o1, exec (.rtoExpiry p op k.no) s = .next u ∧ u.netOp p op = some o1 ∧ o1.sent = o.sent
            ∧ o1.pkts = [{ k with resends := k.resends + 1, sentAt := s.now, order := o.nextOrder, due := false, port := none }])
        ∧ (o.isGet = false → (o.again k.no).readyPkt q.mtu = none →
          ∃ u o1, exec (.rtoExpiry p op k.no) s = .next u ∧ u.netOp p op = some o1 ∧ u.notices = s.notices
            ∧ o1.pkts = o.pkts.map (fun y => if y.no = k.no then { y with due := true, port := none } else y)))
      ∧ (∀ due, o.phase = .notReady due → due ≤ s.now → ∃ u o1, exec (.notReadyRetry p op) s = .next u ∧ u.netOp p op = some o1
        ∧ o1.tries = o.tries + 1 ∧ o1.phase = .going ∧ (∀ k ∈ o1.pkts, k.acked = false)
        ∧ (o.isGet = false → o1.sent = 0 ∧ o1.src = [] ∧ ∀ k ∈ o1.pkts, k.due = true)))
    ∧ (∀ y : Packet, q.st = .assigned → (s.netPorts p).contains y.port = true → q.keeps y = false →
      (∀ (rq : Fin 16) (b : RBuf) (r : List RBuf), y.body = .send rq → q.inMsg y = none → s.netRunning p = true → q.heldPkts = [] →
        tget 0 q.netNext (2 * y.peer + b2n y.rod) = y.ord →
        (q.recvq[rq] = b :: r → ∃ u, exec (.packetArrival p y) s = .next u
          ∧ (u.parts[p]).recvq[rq] = r ∧ tget 0 (u.parts[p]).netNext (2 * y.peer + b2n y.rod) = y.ord + 1)
        ∧ (q.recvq[rq] = [] →
          exec (.packetArrival p y) s = .next (s.tell (.sack p y.peer y.rod y.msg .notReady))))
      ∧ (∀ (key : BitVec 32) (a : Word) (e : Rma), y.body = .getReq key a → y.rod = false → s.region p key a y.len false = some e →
        q.answers.any (fun z => z.o.rc.peer == y.peer && !z.o.rc.rod && z.o.msg == y.msg) = false → q.nextOpen = none →
        ∃ u z, exec (.packetArrival p y) s = .next u ∧ (u.parts[p]).answers = q.answers ++ [z] ∧ z.v = e.vdev ∧ z.o.rc.laddr = a
          ∧ z.o.rc.len = y.len ∧ z.o.pkts.length = (y.len + q.mtu - 1) / q.mtu ∧ z.o.sent = 0 ∧ u.hbm = s.hbm
          ∧ u.notices = s.notices ++ [.sack p y.peer y.rod y.msg (.acked [0])]))
    ∧ (∀ (z : NetAns) k j s0 s2 bs, z.o.phase = .going → z.o.nextDue = some k → s.pktPort p k = some (j, s0) →
      (s0.modAns p z.o.id (fun y => y.setPort k.no j)).netRead (netAsk p z.v j false true) (fun _ => none)
        (z.o.rc.laddr + BitVec.ofNat 64 (q.mtu * k.no)) (min q.mtu (z.o.rc.len - q.mtu * k.no)) true = .ok s2 bs →
      (s.ansStep p z).hbm = s2.hbm ∧ ∃ w, (s.ansStep p z).notices = s2.notices ++ [.packet p w] ∧ w.port = j ∧ w.bytes = bs ∧ w.seq = k.no
        ∧ w.body = .getData z.o.ord ∧ w.peer = z.o.rc.peer ∧ w.ofs = q.mtu * k.no)

/-! ## Tasks and messages (07 R178 to R201) -/

/-- A task starts in the lowest free slot with its registers as 01 R16 gives them; a message that comes to its tile waits there for its
turn, by the clk in which it came and the port (R180), and of one port by its number (log 1); an arrival that is not the last counts down,
the last one enqueues a task; a message that a tile cannot take is returned for a retry after 32 × 2^min(n−1, 5) clks, a SPAWN or MIGR to
its own tile; a tile applies one arriving message a clk (07 R180); what an acknowledgement frees. Stage queues and elastic stages: a
message is accepted below the queue's depth, else returned, which marks its stage as blocked; the head goes to a tile of the target
stage; the stream offers the next WID to the entry queue, one a clk; elastic moves are made once in 14,000 clks; a tile with room steals
from the next neighbour of its stage. The lowest free slot and inbox entry are the model's choice (log 21). -/
def Obligations.TaskPlaneSteps : Prop :=
  (∀ (s : State) (t : TileId) (m : Nat) (q : TMsg), let x := s.tile t
    (∀ l k r, s.launchAt t = some l → (l.st = .running ∨ l.st = .stopping) → x.sliceEnd = none → x.halted = false → x.stolenAt ≠ some s.now →
      x.freeSlot = some k → x.ready = [r] → r.resume = none → ∃ u, exec (.taskStart t) s = .next u
      ∧ (u.strand t k).live = true ∧ (u.strand t k).pc = r.pc ∧ (u.strand t k).ctx = r.ctx ∧ (u.strand t k).vpin = 0#17
      ∧ (u.strand t k).wid = r.wid ∧ (u.strand t k).sw = swStart l.hdr.dsw ∧ (u.strand t k).inbox = r.inbox
      ∧ (∀ g : Reg, (u.strand t k).regs[g] = if g = 0 then r.arg else if g = 1 then (match r.inbox with
          | some e => BitVec.ofNat 64 (0xF000 + 256 * e.val) | none => 0#64) else if g = 2 then r.s2 else if g = 15 then r.wid else 0#64)
      ∧ (u.tile t).ready = [] ∧ (∀ j, j ≠ k → u.strand t j = s.strand t j) ∧ (∀ v, v ≠ t → u.tile v = s.tile v))
    ∧ (s.msg m = some q → q.dst = t → q.applies = true → s.mayReach q = true → s.mayApply t = true →
      (q.came = none → q.sent = true → ∃ u, exec q.step s = .next u ∧ u.msg m = some { q with came := some s.now } ∧ u.tiles = s.tiles)
      ∧ (∀ y ∈ s.msgs, ∀ i j, y.dst = t → s.waiting y = true → y.came = some i → q.came = some j →
        (i < j ∨ i = j ∧ s.port y < s.port q ∨ i = j ∧ s.port y = s.port q ∧ y.id < q.id) → exec q.step s = .next s))
    ∧ (s.msg m = some q → q.phase = .out → q.dst = t → x.halted = false → s.mayReach q = true →
      (q.applies = true → q.came.isSome = true ∧ s.inOrder q = true) →
      let g := x.trigs[q.slot]
      let same := fun (u : State) => u.tile t = { x with appliedAt := some s.now }
      ((q.kind = .send ∨ q.kind = .wake ∨ q.kind = .stage) → q.stq = none →
        (1 < g.count → ∃ u, exec (.triggerArrival m) s = .next u ∧ u.msg m = some { q with phase := .ack }
          ∧ ((u.tile t).trigs[q.slot]).count = g.count - 1 ∧ (u.tile t).ready = x.ready
          ∧ ((u.tile t).trigs[q.slot]).drops = (if q.pay = [] then g.drops else min (g.drops + 1) 0xFFFF))
        ∧ (g.count = 1 → x.regular < 16 → q.pay = [] → ∃ u, exec (.triggerArrival m) s = .next u ∧ u.msg m = some { q with phase := .ack }
          ∧ ((u.tile t).trigs[q.slot]).count = g.reload ∧ ∃ r, (u.tile t).ready = x.ready ++ [r] ∧ r.pc = BitVec.ofNat 64 g.entry
          ∧ r.arg = q.arg ∧ r.s2 = BitVec.ofNat 64 (q.srow * 256 + q.scol) ∧ r.ctx = q.ctx ∧ r.wid = q.wid ∧ r.inbox = none ∧ r.stl = g.stl)
        ∧ ((g.count = 0 ∨ (g.count = 1 ∧ 16 ≤ x.regular)) → ∃ u, exec (.triggerArrival m) s = .next u
          ∧ u.msg m = some { q with phase := .nack, came := none } ∧ same u))
      ∧ (q.kind = .spawn → q.pay = [] →
        (x.role.isSome = true → q.img = x.img → x.regular < 16 → ∃ u r, exec (.spawnArrival m) s = .next u ∧ u.msg m = some { q with phase := .ack }
          ∧ (u.tile t).ready = x.ready ++ [r] ∧ r.pc = q.pc ∧ r.arg = q.arg ∧ r.stl = q.stl ∧ r.ret = false)
        ∧ (x.role = none ∨ q.img ≠ x.img ∨ 16 ≤ x.regular → ∃ u, exec (.spawnArrival m) s = .next u
          ∧ u.msg m = some { q with kind := .bounce, dst := (q.src.tile?).getD t, from_ := t, came := none } ∧ same u))
      ∧ (∀ z, q.kind = .migr → q.mig = some z → x.role.isSome = true → q.img = x.img → x.regular < 16 →
        ∃ u r, exec (.migrArrival m) s = .next u ∧ u.msg m = some { q with phase := .ack } ∧ (u.tile t).ready = x.ready ++ [r]
          ∧ r.resume = some { z with res := z.res.map (fun y => (y.1, 1#64)) })
      ∧ (q.kind = .bounce → q.post = none → q.mig = none → q.pay = [] → ∃ u r, exec (.bounceArrival m) s = .next u ∧ u.msg m = none
          ∧ (u.tile t).ready = x.ready ++ [r] ∧ r.ret = true ∧ r.pc = q.pc ∧ r.arg = q.arg)
      ∧ (∀ i r, q.kind = .stealReq → x.stage = (s.tile ((q.src.tile?).getD t)).stage → x.img = (s.tile ((q.src.tile?).getD t)).img →
          x.stealable = some i → x.ready[i]? = some r → r.inbox = none → ∃ u z, exec (.stealRequest m) s = .next u ∧ u.msg m = some z
          ∧ z.kind = .stolen ∧ z.dst = (q.src.tile?).getD t ∧ z.pc = r.pc ∧ z.arg = r.arg ∧ z.ctx = r.ctx ∧ z.wid = r.wid ∧ z.pay = []
          ∧ (u.tile t).ready = x.ready.eraseIdx i ∧ ∀ v, v ≠ t → u.tile v = s.tile v)
      ∧ (q.kind = .stealReq → x.stealable = none → ∃ u z, exec (.stealRequest m) s = .next u ∧ u.msg m = some z ∧ z.kind = .emptyReply
          ∧ u.tiles = s.tiles)
      ∧ (∀ k uid w, q.back = some (k, uid) → (x.strand k).live = true → (x.strand k).uid = uid → (x.strand k).wait = some w →
          w.req = some m → (q.kind = .emptyReply ∨ q.kind = .stolen) → ∃ u, exec (.stolenReply m) s = .next u ∧ u.msg m = none
          ∧ (u.strand t k).regs[q.dreg] = (if q.kind = .stolen then 1#64 else 0#64) ∧ (u.strand t k).wait = none
          ∧ (u.strand t k).pc = nextPc (x.strand k).pc
          ∧ (u.tile t).credits = (if q.kind = .stolen then x.credits else x.credits + 1)))
    ∧ (s.msg m = some q →
      (∀ v, q.phase = .ack → q.src = .tile v → (q.kind = .spawn ∨ q.kind = .migr) → ∃ u, exec (.taskMessageAck m) s = .next u
        ∧ u.msg m = none ∧ (u.tile v).credits = (s.tile v).credits + 1 ∧ (∀ e, q.resv = some e → (u.tile v).inbox[e] = false)
        ∧ (∀ i, q.post = some i → ∀ y ∈ (u.tile v).posted, y.id ≠ i))
      ∧ (q.phase = .nack → ∃ u, exec (.taskMessageNack m) s = .next u
        ∧ u.msg m = some { q with nacks := q.nacks + 1, phase := .retry (s.now + 32 * 2 ^ min q.nacks 5) } ∧ u.tiles = s.tiles)
      ∧ (∀ due, q.phase = .retry due → due ≤ s.now → ∃ u, exec (.taskMessageRetry m) s = .next u
        ∧ u.msg m = some { q with phase := .out } ∧ u.tiles = s.tiles)))
  ∧ (∀ (s : State) (p : Fin 24) (l : Launch), s.curLaunch p = some l →
    (∀ m q (n : Fin 16), s.msg m = some q → q.kind = .send → q.stq = some n → q.sent = true →
      s.mayReach q = true → s.streamed q.dst n = false → s.launchAt q.dst = some l → n.val < l.queues.length →
      ((l.queued n.val).length < l.depth n.val → ∃ u l1, exec (.stageQueueAccept m) s = .next u ∧ u.msg m = some { q with phase := .ack }
        ∧ u.launch l.id = some l1 ∧ l1.queued n.val = l.queued n.val ++ [q] ∧ u.tiles = s.tiles)
      ∧ (l.depth n.val ≤ (l.queued n.val).length → s.drainingAt q.dst = false → ∃ u l1, exec (.stageQueueAccept m) s = .next u
        ∧ u.msg m = some { q with phase := .nack } ∧ u.launch l.id = some l1 ∧ l1.queues = l.queues
        ∧ (s.tile ((q.src.tile?).getD q.dst)).stg ∈ l1.blocked))
    ∧ (∀ (n : Fin 16) e m rest t, l.st = .running → l.fp.queues[n.val]? = some e → l.queued n.val = m :: rest →
      s.dispatchTile l e.tstg (tileAt (s.parts[p]).row0 (s.parts[p]).col0) = some t →
      ∃ u q l1, exec (.stageDispatch p n) s = .next u ∧ u.msgs = s.msgs ++ [q] ∧ q.kind = .stage ∧ q.dst = t ∧ q.slot = e.dslot
        ∧ q.arg = m.arg ∧ q.pay = m.pay ∧ q.ctx = m.ctx ∧ q.wid = m.wid ∧ q.phase = .out
        ∧ u.launch l.id = some l1 ∧ l1.queued n.val = rest ∧ u.tiles = s.tiles)
    ∧ (l.st = .running → l.streamAt ≠ some s.now → l.cursor < l.hdr.wcnt → l.hdr.eq < l.queues.length → (l.queued l.hdr.eq).length < l.depth l.hdr.eq →
      ∃ u l1 q, exec (.streamDispatch p) s = .next u ∧ u.launch l.id = some l1 ∧ l1.cursor = l.cursor + 1
        ∧ l1.queued l.hdr.eq = l.queued l.hdr.eq ++ [q] ∧ q.arg = l.hdr.arg ∧ q.wid = l.hdr.wbase + BitVec.ofNat 64 l.cursor
        ∧ q.pay = [] ∧ l1.streamAt = some s.now ∧ u.tiles = s.tiles)
    ∧ (l.st = .running → l.fp.stages.length ≤ 256 → (s.parts[p]).elasticAt + 14000 ≤ s.now → (∀ t ∈ l.placed, s.mayApply t = true) →
      ∃ u l1, exec (.elasticReassignment p) s = .next u
        ∧ (u.parts[p]).elasticAt = s.now ∧ u.launch l.id = some l1 ∧ l1.blocked = [] ∧ u.hbm = s.hbm
        ∧ (∀ t, (u.tile t).set_ = (s.tile t).set_ ∧ (u.tile t).data = (s.tile t).data ∧ (u.tile t).strands = (s.tile t).strands)
        ∧ ((∀ e ∈ l.fp.stages, e.set = 0xFF) → u.tiles = s.tiles))
    ∧ (∀ t e d v f, s.launchAt t = some l → l.st = .running → l.fp.stages[(s.tile t).stg]? = some f → f.steal = true →
      (s.tile t).sliceEnd = none → l.placed.contains t = true → (s.tile t).freeSlot.isSome = true → (s.tile t).ready = [] →
      0 < (s.tile t).credits → (s.tile t).stealAt + 256 ≤ s.now → (s.tile t).freeInbox = some e →
      s.stealDir l t (s.tile t).stealDir = some (d, v) → ∃ u q, exec (.automaticSteal t) s = .next u ∧ u.msgs = s.msgs ++ [q]
        ∧ q.kind = .stealReq ∧ q.dst = v ∧ q.src = .tile t ∧ (u.tile t).credits = (s.tile t).credits - 1 ∧ (u.tile t).inbox[e] = true
        ∧ (u.tile t).stealDir = (d + 1) % 4 ∧ (u.tile t).stealAt = s.now))

/-! ## Strands seen from outside (01 R30, R40, 07 R203, 08 R211, 15 R362 to R366) -/

/-- What happens to a strand or a tile from outside its instruction stream: a wait that expires, a refusal that waits for the next
boundary, the repair of a code line, the island's action on a held strand, the slice-end signal, the report of a settled tile, the
yield deadline and the gang stop. What the island's resume leaves of the strand is the model's reading (log 23), and so is that an
expired NCTR withdraws its request and an expired VSW its arrival (log 50), where an expired ACQ leaves its request (log 22). -/
def Obligations.StrandEvents : Prop :=
  ∀ (s : State) (t : TileId) (k : Fin 4), let x := s.tile t
    let z := s.strand t k
    (∀ w, z.wait = some w → s.expires t k = true →
      let ends := fun (s1 : State) => exec (.waitExpired t k) s = .next ((s1.modStrand t k (fun z => { z with wait := none })).takeTrapAt t k
          (if w.kind = .tag then ⟨.tagExhaustion, z.pc, 0#64⟩ else ⟨.waitExpired, z.pc, w.tval⟩))
      (w.kind = .counter → ends (s.withdraw w.req) ∧ (s.withdraw w.req).plane = s.plane.filter (fun q => some q.id != w.req))
      ∧ (∀ n, w.kind = .vsw n → ends (s.modTile t (fun x => x.unarrive n)))
      ∧ (w.kind ≠ .counter → (∀ n, w.kind ≠ .vsw n) → ends s))
    ∧ (∀ c v, s.ready t k = true → z.late = some (c, v) → ∃ u, exec (.postedRefusalTrap t k) s = .next u
        ∧ u = (s.modStrand t k (fun z => { z with late := none })).takeTrapAt t k ⟨c, z.pc, v⟩)
    ∧ (∀ h, x.chold = some h → x.written.contains h.addr = false → ∃ u, exec (.codeLineRepair t) s = .next u
        ∧ (u.tile t).chold = none ∧ (s.memOk → ∀ i, i < 64 → u.byteAt t .code (h.addr + i) = (s.imageBytes t h.addr 64)[i]!)
        ∧ (∀ a, (a < h.addr ∨ h.addr + 64 ≤ a) → u.byteAt t .code a = s.byteAt t .code a)
        ∧ ∀ v, v ≠ t → u.tile v = s.tile v)
    ∧ (∀ h p, x.chold = some h → x.written.contains h.addr = true → s.partOf t = some p → ∃ u, exec (.codeLineRepair t) s = .next u
        ∧ ((u.parts[p]).stopDue).isSome = true ∧ u.tiles = s.tiles)
    ∧ (z.live = true → z.held.isSome = true →
      (∀ w, swMode z.sw = true → ∃ u, exec (.islandStrandAction t k (.resume w)) s = .next u ∧ (u.strand t k).held = none
          ∧ (u.strand t k).pc = z.pc ∧ (u.strand t k).sw = z.sw ∧ (u.tile t).cw.tepc = w.tepc ∧ (u.tile t).cw.tval = w.tval
          ∧ (u.tile t).cw.tcause = w.tcause &&& 0xFF#64 ∧ (u.tile t).cw.tpxl = w.tpxl.setWidth 64 ∧ ∀ v, v ≠ t → u.tile v = s.tile v)
      ∧ (∃ u, exec (.islandStrandAction t k .free) s = .next u ∧ (u.strand t k).live = false
          ∧ (∀ e, z.inbox = some e → (u.tile t).inbox[e] = false) ∧ (∀ q : Fin 4, (u.tile t).hold[q] ≠ some k)
          ∧ ∀ v, v ≠ t → u.tile v = s.tile v))
    ∧ (s.stoppingAt t = true →
      (x.sliceEnd = none → exec (.sliceEndSignal t) s = .next (s.modTile t (fun x => { x with sliceEnd := some s.now })))
      ∧ (x.sliceEnd.isSome = true → x.settled = false → x.halted = false → s.settledTile t = true →
        exec (.settledReport t) s = .next (s.modTile t (fun x => { x with settled := true })))
      ∧ (∀ p c, s.partOf t = some p → x.sliceEnd = some c → x.halted = false → c + x.cw.ydl.toNat ≤ s.now →
        ∃ u, exec (.yieldDeadline t) s = .next u ∧ (u.tile t).halted = true ∧ u.hbm = s.hbm
          ∧ (∀ j, (u.strand t j).regs = (s.strand t j).regs ∧ (u.strand t j).pc = (s.strand t j).pc ∧ (u.strand t j).sw = (s.strand t j).sw)
          ∧ ∀ v, v ≠ t → u.tile v = s.tile v))
    ∧ (∀ p l, s.curLaunch p = some l → l.st = .stopping → (s.parts[p]).gangStop = false → (s.parts[p]).draining = false →
      l.placed.all (fun t => (s.tile t).settled) = true → ∃ u, exec (.gangStop p) s = .next u
        ∧ (∀ t ∈ l.placed, (u.tile t).halted = true) ∧ (u.parts[p]).gangStop = true ∧ (u.parts[p]).draining = true ∧ u.hbm = s.hbm)

/-! ## The memory plane and the contexts (08 R220, 13 R330 to R333, 14 R346, R357) -/

/-- A response of the island lets the accesses that wait under its ID walk again, or refuses them; FPTAIL is written; a shootdown takes
its range out of all 56 ETUs, has the gate requests held under it walk again (log 57), and GO then reads 0; an old entry of a read
buffer is discarded; a retired tag's beads are freed, at a home once what it had received when the retirement began is
performed (log 67), and behind the last home the tag goes to the oldest request, or is free; a switch passes when every
participant has arrived. -/
def Obligations.PlaneSteps : Prop :=
  ∀ (s : State) (p : Fin 24) (e : Fin 56),
    (∀ (id : BitVec 32) (walk : Bool),
      (∀ q : Fin 24, (s.parts[q]).netBusy = [] ∧ (s.parts[q]).inMsgs = [] ∧ (s.parts[q]).heldPkts = [] ∧ (s.parts[q]).answers = []) →
      ∃ u, exec (.translationResponse id walk) s = .next u ∧ u.hbm = s.hbm
        ∧ u.plane = s.plane.map (fun r => if r.phase = .event id
            then { r with phase := if walk then .again else .refused .virtualRefused r.addr } else r)
        ∧ (∀ t c, c ∈ (u.tile t).copies → ∀ va a, c.phase ≠ .event id va a)
        ∧ u.launches = s.launches.map (fun l => if l.wait = some id then { l with wait := none, denied := l.denied || !walk } else l))
    ∧ (∀ v, (s.parts[p]).netBusy = [] → (s.parts[p]).inMsgs = [] → (s.parts[p]).heldPkts = [] → (s.parts[p]).answers = [] →
      exec (.fptailWrite p v) s = .next (s.modPart p (fun q => { q with fptail := v })))
    ∧ (∃ u, exec (.shootdownGo e) s = .next u ∧ ((u.etus[e]).box).go = true ∧ u.tiles = s.tiles ∧ u.hbm = s.hbm)
    ∧ (((s.etus[e]).box).go = true → ∃ u, exec (.shootdownComplete e) s = .next u ∧ ((u.etus[e]).box).go = false
        ∧ (∀ i : Fin 56, ∀ x ∈ (u.etus[i]).tlb, ((s.etus[e]).box).hits x = false ∧ x ∈ (s.etus[i]).tlb)
        ∧ u.plane = s.plane.map (fun r => r.shoot (s.etus[e]).box) ∧ u.hbm = s.hbm)
    ∧ (∀ g, ∃ u, exec (.readBufferEntryAgeOut e g) s = .next u ∧ (∀ x ∈ (u.etus[e]).buf, x.gran = g → s.now < x.clk + 14000)
        ∧ (∀ i : Fin 56, i ≠ e → u.etus[i] = s.etus[i]) ∧ u.hbm = s.hbm)
    ∧ (∀ l (t : Half) r, s.curLaunch p = some l → (s.parts[p]).retire.find? (fun r => r.tag == t) = some r → t ≠ 0#16 →
      r.waits (s.tagPending p t) ≠ [] →
      let left := r.waits (s.tagPending p t)
      ∃ u, exec (.tagRetirementComplete p t) s = .next u ∧ u.launches = s.launches ∧ u.hbm = s.hbm
        ∧ (∀ x ∈ (u.parts[p]).retire, x.tag = t → x.left = some left)
        ∧ (∀ b, b ∈ u.beads1 ↔ b ∈ s.beads1 ∧ (b.launch = l.id → b.tag = t →
            (s.parts[p]).tagFreed (.etu b.home) t = true ∨ left.any (fun x => x.1 == .etu b.home) = true)))
    ∧ (∀ l (t : Half) r, s.curLaunch p = some l → (s.parts[p]).retire.find? (fun r => r.tag == t) = some r →
      r.waits (s.tagPending p t) = [] → t ≠ 0#16 →
      (s.tagWaiters p = [] → ∃ u l1, exec (.tagRetirementComplete p t) s = .next u ∧ u.launch l.id = some l1
        ∧ l1.tag t = .free ∧ (∀ k : Half, k ≠ t → l1.tag k = l.tag k)
        ∧ (∀ b, b ∈ u.beads1 ↔ b ∈ s.beads1 ∧ (b.launch = l.id → b.tag = t → (s.parts[p]).tagFreed (.etu b.home) t = true))
        ∧ (u.parts[p]).retire = (s.parts[p]).retire.filter (fun x => x.tag != t))
      ∧ (∀ v k w, oldest (s.tagWaiters p) = some (v, k) → (s.strand v k).wait = some w → ∃ u l1, exec (.tagRetirementComplete p t) s = .next u
        ∧ u.launch l.id = some l1 ∧ l1.tag t = .live ∧ (u.strand v k).regs[w.dst] = t.setWidth 64
        ∧ (u.strand v k).wait = none ∧ (u.strand v k).pc = nextPc (s.strand v k).pc))
    ∧ (∀ l (w : Fin 64) we d i g, s.curLaunch p = some l → l.placed.Nodup → l.wins[w.val]? = some we → we.type = 3 → we.wr = true →
      s.dir we.key = some d → d.slotFor g = some i →
      let ts := s.participants l we
      ts ≠ [] → (∀ t ∈ ts, (s.tile t).arrivedAt w = true) → s.switchers w ts ≠ [] → (∀ x ∈ s.switchers w ts, x.2.2 = some g) →
      ∃ u, exec (.versionSwitchPass p w) s = .next u ∧ u.hbm = s.hbm ∧ u.dirs = s.dirs
        ∧ (∀ t ∈ ts, tget 0#16 (u.tile t).tcv w.val = g)
        ∧ (∀ x ∈ s.switchers w ts, (u.strand x.1 x.2.1).wait = none ∧ (u.strand x.1 x.2.1).pc = nextPc (s.strand x.1 x.2.1).pc))

/-! ## Launches (12 R298, R303 to R311, 13 R335, 15 R378) -/

/-- The deficits are settled once a period; the choice takes a launch from the head of a queue of the highest class that offers one;
the end of a slice keeps or stops the launch; the start reads, verifies and checks what the header names, and fails with status 1 or 2
where it must; the stream loads the tiles beat by beat; the first tasks fire; quiescence, a stop and the watchdog end the launch; a
stop that names no owned partition is recorded and delivered at one island (18 R402); an event is written to the ring of its device.
Statuses of refused reads and the treatment of a deferred slice end are the model's
readings (log 25), and so are that a slice begins at the choice (log 43) and that exactly one island records and delivers such a stop
(log 51). -/
def Obligations.LaunchSteps : Prop :=
  ∀ (s : State) (p : Fin 24), let q := s.parts[p]
    (q.st = .assigned → q.deficitAt + 14000 ≤ s.now →
      let back := fun v : Fin 64 => s.backlogged v && (s.vdevs[v]).wgt != 0
      let sum := (((s.devsOf p).filter back).map (fun v => (s.vdevs[v]).wgt)).sum
      ∃ u, exec (.deficitUpdate p) s = .next u ∧ (u.parts[p]).charge = [] ∧ (u.parts[p]).deficitAt = q.deficitAt + 14000
        ∧ u.tiles = s.tiles ∧ u.hbm = s.hbm ∧ ∀ v : Fin 64, let d := s.vdevs[v]
          (d.part.val ≠ p.val → u.vdevs[v] = d)
          ∧ (d.part.val = p.val → back v = true → (u.vdevs[v]).deficit =
              clampDef (d.deficit + ((d.wgt * (s.presentCount p * 14000 / sum) : Nat) : Int) - ((tget (0 : Nat) q.charge v.val : Nat) : Int)))
          ∧ (d.part.val = p.val → back v = false → (u.vdevs[v]).deficit =
              clampDef (min (d.deficit - ((tget (0 : Nat) q.charge v.val : Nat) : Int)) 0)))
    ∧ (q.st = .assigned → q.cur = none →
      (s.best p none = none → exec (.launchChoice p) s = .next s)
      ∧ ∀ l, s.best p none = some l →
        (∃ c v, v ∈ s.devsOf p ∧ ((s.vdevs[v]).queues[c]).head? = some l.id ∧ (s.vdevs[v]).wgt ≠ 0 ∧ (s.vdevs[v]).st ≠ .paused
          ∧ ∀ c' : Fin 4, c < c' → s.bestOf p none c' = none)
        ∧ ∃ u l1, exec (.launchChoice p) s = .next u ∧ (u.parts[p]).cur = some l.id ∧ (u.parts[p]).sliceAt = s.now
          ∧ u.launch l.id = some l1 ∧ l1.st = (if l.st = .queued then .starting else l.st)
          ∧ (u.vdevs[l.vdev]).queues[l.hdr.pri] = ((s.vdevs[l.vdev]).queues[l.hdr.pri]).erase l.id
          ∧ u.tiles = s.tiles ∧ u.hbm = s.hbm)
    ∧ (∀ l, s.curLaunch p = some l →
      (s.sliceOver p l = true →
        (∀ b, l.st = .running → s.best p (some l) = some b → b.id = l.id →
          exec (.sliceExpiry p) s = .next (s.modPart p (fun q => { q with sliceAt := s.now })))
        ∧ (l.st = .running → (s.best p (some l)).all (fun b => b.id != l.id) = true → ∃ u l1, exec (.sliceExpiry p) s = .next u
          ∧ u.launch l.id = some l1 ∧ l1.st = .stopping ∧ u.tiles = s.tiles ∧ u.hbm = s.hbm)
        ∧ (l.st = .starting → exec (.sliceExpiry p) s = .next (s.modPart p (fun q => { q with deferred := true }))))
      ∧ (l.st = .starting → l.container = [] → l.wait = none →
        (l.denied = true → ∃ u, exec (.launchStart p) s = .next u ∧ Ended s u p l 1)
        ∧ (∀ s1 s2 h b n, l.denied = false → s.unitRead p l l.hdr.imgva 64 = .ok s1 h → containerLen h = some n →
          s1.unitRead p l (l.hdr.imgva + 64#64) (n - 64) = .ok s2 b →
          (parseContainer (h ++ b) = none → ∃ u, exec (.launchStart p) s = .next u ∧ Ended s2 u p l 1)
          ∧ (∀ c, parseContainer (h ++ b) = some c → s2.verify p l (h ++ b) c = none →
            ∃ u, exec (.launchStart p) s = .next u ∧ Ended s2 u p l 1)
          ∧ (∀ c s3, parseContainer (h ++ b) = some c → s2.verify p l (h ++ b) c = some s3 →
            (s3.faceplateOk p l.hdr c.fp = false → ∃ u, exec (.launchStart p) s = .next u ∧ Ended s3 u p l 2)
            ∧ (∀ s4 wb, s3.faceplateOk p l.hdr c.fp = true → s3.unitRead p l l.hdr.wtab (64 * l.hdr.nwin) = .ok s4 wb →
              (parseWins (s4.parts[p]) l.hdr.nwin wb = none → ∃ u, exec (.launchStart p) s = .next u ∧ Ended s4 u p l 2)
              ∧ (∀ ws x, parseWins (s4.parts[p]) l.hdr.nwin wb = some ws → s4.launch l.id = some x →
                ∃ u l1, exec (.launchStart p) s = .next u ∧ u.launch l.id = some l1 ∧ l1.container = h ++ b ∧ l1.wins = ws
                  ∧ l1.roles = c.roles ∧ l1.fp = c.fp ∧ l1.cursor = x.cursor ∧ l1.st = x.st ∧ u.hbm = s4.hbm)))))
      ∧ (∀ t f, s.partOf t = some p → l.st = .starting → (s.tile t).beats < l.container.length / 64 →
        l.feeds.find? (fun f => f.1 == t) = some f → (f.2 = t ∨ (s.tile t).beats < (s.tile f.2).beats) →
        ∃ u, exec (.loadBeat t) s = .next u ∧ (u.tile t).beats = (s.tile t).beats + 1 ∧ u.hbm = s.hbm
          ∧ (∀ v, v ≠ t → u.tile v = s.tile v)
          ∧ (l.fp.rectAt (rowOf t - q.row0) (colOf t - q.col0) = none → ∀ sp o, u.byteAt t sp o = s.byteAt t sp o))
      ∧ (l.st = .starting → l.container ≠ [] → l.feeds.any (fun f => decide ((s.tile f.1).beats < l.container.length / 64)) = false →
        (l.placed.any (fun t => !l.feeds.any (fun f => f.1 == t)) = true →
          ∃ u, exec (.firstTasksFire p) s = .next u ∧ Ended s u p l 3)
        ∧ (l.placed.any (fun t => !l.feeds.any (fun f => f.1 == t)) = false → q.deferred = false →
          ∃ u l1, exec (.firstTasksFire p) s = .next u ∧ u.launch l.id = some l1 ∧ l1.st = .running ∧ l1.placed = l.placed
            ∧ (u.parts[p]).dog = 0 ∧ u.hbm = s.hbm ∧ ∀ v, v ∉ l.placed → u.tile v = s.tile v))
      ∧ (l.st = .running → s.quiescent p l = true → ∃ u, exec (.quiescenceDetected p) s = .next u ∧ Ended s u p l 0)
      ∧ (2 ^ 33 ≤ q.dog → ∃ u, exec (.watchdogExpiry p) s = .next u ∧ Ended s u p l 4)
      ∧ (∀ c, q.owns = true → stopKind c.kind.val = true → ∃ u, exec (.partitionStop p c) s = .next u ∧ Ended s u p l 4))
    ∧ (∀ c, (stopKind c.kind.val = false → exec (.partitionStop p c) s = .next (s.modPart p (fun q => { q with stopDue := none })))
      ∧ (stopKind c.kind.val = true → q.owns = false → ∃ u i, exec (.partitionStop p c) s = .next u ∧ u.launches = s.launches
        ∧ u.notices = s.notices ++ [.check i none c.kind.val] ∧ (u.boxes[i]).wptr = (s.boxes[i]).wptr + 1#32
        ∧ ∀ j : Fin 48, j ≠ i → u.boxes[j] = s.boxes[j]))
    ∧ (∀ (v : Fin 64) (e : EvRec) (r : List EvRec), (s.vdevs[v]).events = e :: r → let d := s.vdevs[v]
      let filled := (d.pi - (s.hdw d.cipa.toNat).truncate 32).toNat
      (e.gen ≠ d.gen → exec (.eventDelivery v) s = .next (s.modVdev v (fun d => { d with events := r })))
      ∧ (e.gen = d.gen → 2 ^ d.rlog ≤ filled → s.hbmPoison d.cipa.toNat 16 false = false → exec (.eventDelivery v) s = .next s)
      ∧ (s.memOk → e.gen = d.gen → filled < 2 ^ d.rlog → s.hbmPoison d.cipa.toNat 16 false = false → d.st ≠ .running →
        let a := d.rpa.toNat + 32 * (d.pi.toNat % 2 ^ d.rlog)
        s.hbmPoison a 32 true = false → ∃ u, exec (.eventDelivery v) s = .next u ∧ (u.vdevs[v]).events = r
          ∧ (u.vdevs[v]).pi = d.pi + 1#32 ∧ (u.vdevs[v]).ip = true
          ∧ u.hdw a = BitVec.ofNat 64 (e.gen.toNat * 2 ^ 48 + 2 ^ 40 + e.status * 2 ^ 32 + e.seq) ∧ u.hdw (a + 8) = e.utag
          ∧ u.hdw (a + 16) = e.clks ∧ u.hdw (a + 24) = BitVec.ofNat 64 ((d.pi.toNat / 2 ^ d.rlog + 1) % 2)
          ∧ u.tiles = s.tiles ∧ u.notices = s.notices))

/-! ## Saving and restoring (15 R366 to R377) -/

/-- A drain that has ended is checked and sealed with the next value of the key unit's counter; the image is written and the launch is
suspended at the head of its queue, or keeps the frames that there were where the ring has no more, and waits (R375); a restore that verifies loads the tiles where the partition now lies, and the release lets all of
them go on; a count that does not add up, a key unit without a key and an image that does not verify end the launch with status 4. How
a kept wait ends at the end of a drain is the model's reading (log 26), and so are the order of an image's frames (log 44) and the 3 that
a parked YIELD gives where the origin has moved (log 60). -/
def Obligations.SaveSteps : Prop :=
  ∀ (s : State) (p : Fin 24) (l : Launch), s.curLaunch p = some l → let q := s.parts[p]
    (q.draining = true → q.saving = false → q.restoring = false → l.st = .stopping → s.drainOver p l = true →
      let w := s.endWaits l
      (w.sentSum l ≠ w.recvSum l → ∃ u, exec (.drainEnd p) s = .next u ∧ Ended s u p l 4)
      ∧ (w.sentSum l = w.recvSum l → w.quiescent p l = true → ∃ u, exec (.drainEnd p) s = .next u ∧ Ended s u p l 0)
      ∧ (w.sentSum l = w.recvSum l → w.quiescent p l = false →
        ((s.keys[l.vdev]).key = none ∨ (s.keys[l.vdev]).ctr = 2 ^ 64 - 1) → ∃ u, exec (.drainEnd p) s = .next u ∧ Ended s u p l 4)
      ∧ (∀ key, w.sentSum l = w.recvSum l → w.quiescent p l = false → (s.keys[l.vdev]).key = some key →
        (s.keys[l.vdev]).ctr ≠ 2 ^ 64 - 1 → w.savePoison l = none →
        ∃ u l1 x, exec (.drainEnd p) s = .next u ∧ u.launch l.id = some l1 ∧ l1.saved = some x ∧ x.key = key
          ∧ x.nctr = (s.keys[l.vdev]).ctr ∧ (u.keys[l.vdev]).ctr = (s.keys[l.vdev]).ctr + 1 ∧ (u.keys[l.vdev]).key = some key
          ∧ x.part = p ∧ x.tiles.length = l.placed.length ∧ (u.parts[p]).saving = true ∧ u.hbm = s.hbm
          ∧ ∀ t ∈ l.placed, ∃ y ∈ x.tiles, y.row = rowOf t - q.row0 ∧ y.col = colOf t - q.col0
            ∧ (∀ sp o, sp ≠ .ctl → y.tile.byte sp o = s.byteAt t sp o)
            ∧ ∀ k, (y.tile.strand k).regs = (w.strand t k).regs ∧ (y.tile.strand k).pc = (w.strand t k).pc
              ∧ (y.tile.strand k).sw = (w.strand t k).sw))
    ∧ (∀ x fs s1, l.saved = some x → q.saving = true →
      s.moreFrames p l.vdev (s.mepOf (tileAt q.row0 q.col0)).val (framesFor x.blen - l.frames.length) l.frames = .got fs s1 →
      fs.any s.heldPa = false → s1.savePoisonAt fs x.blen = none →
      ∃ u l1 y, exec (.launchSuspended p) s = .next u ∧ u.launch l.id = some l1 ∧ l1.st = .suspended ∧ l1.saved = some y
        ∧ y = { x with frame := fs.headD 0 } ∧ l1.frames = fs ∧ l1.placed = [] ∧ (u.parts[p]).cur = none
        ∧ (u.vdevs[l.vdev]).queues[l.hdr.pri] = l.id :: (s.vdevs[l.vdev]).queues[l.hdr.pri]
        ∧ ∀ t, q.covers t = true → ∀ k, (u.strand t k).live = false)
    ∧ (∀ x fs s1, l.saved = some x → q.saving = true →
      s.moreFrames p l.vdev (s.mepOf (tileAt q.row0 q.col0)).val (framesFor x.blen - l.frames.length) l.frames = .dry fs s1 →
      ∃ u l1, exec (.launchSuspended p) s = .next u ∧ u.launch l.id = some l1 ∧ l1.frames = fs ∧ l1.st = l.st ∧ l1.saved = l.saved
        ∧ u.tiles = s.tiles)
    ∧ (∀ x, l.saved = some x → l.st = .suspended → q.restoring = false → (s.imageFrames x).any s.heldPa = false →
      s.imagePoison x.frame x.blen = none →
      (s.imageOk l x = false → ∃ u, exec (.restore p) s = .next u ∧ Ended s u p l 4)
      ∧ (s.imageOk l x = true → x.unitBuf = [] → (∀ y ∈ x.tiles, y.tile.stopBuf = []) →
        let dst := fun y : SavedTile => tileAt (q.row0 + y.row) (q.col0 + y.col)
        (x.tiles.map dst).Nodup →
        ∃ u l1, exec (.restore p) s = .next u ∧ u.launch l.id = some l1 ∧ l1.placed = x.tiles.map dst ∧ (u.parts[p]).restoring = true
          ∧ ∀ y ∈ x.tiles, (u.tile (dst y)).halted = true
            ∧ (∀ k, (u.strand (dst y) k).regs = (y.tile.strand k).regs ∧ (u.strand (dst y) k).pc = (y.tile.strand k).pc
              ∧ (u.strand (dst y) k).sw = (y.tile.strand k).sw)
            ∧ (y.only = none → ∀ sp o, sp = .data ∨ sp = .wgt ∨ sp = .act ∨ sp = .acc → u.byteAt (dst y) sp o = y.tile.byte sp o)))
    ∧ (l.st = .suspended → q.restoring = true → q.deferred = false →
      ∃ u l1, exec (.restoreRelease p) s = .next u ∧ u.launch l.id = some l1 ∧ l1.st = .running ∧ l1.saved = none
        ∧ (u.parts[p]).restoring = false ∧ u.hbm = s.hbm ∧ (∀ t, t ∉ l.placed → u.tile t = s.tile t)
        ∧ ∀ t ∈ l.placed, (u.tile t).halted = false ∧ (u.tile t).sliceEnd = none
          ∧ (∀ sp o, u.byteAt t sp o = s.byteAt t sp o)
          ∧ (l.placed.Nodup → ∀ k d x, (s.strand t k).parked = some d → l.saved = some x → (u.strand t k).parked = none
            ∧ (u.strand t k).regs[d] = (if x.row0 ≠ q.row0 ∨ x.col0 ≠ q.col0 then 3#64 else 1#64)))

/-! ## Partitions, virtual devices and the configuration space (13 R313 to R325, R336) -/

/-- A partition is assigned on a node of its own, with its tiles scrubbed and its network set up (log 16), or refused; its release ends
its launch, and the scrub frees it; a device's STATE is written, and RST ends or discards its launches; a doubleword of the configuration space is stored in
the register at its address; that a store at no multiple of 8 does nothing is the model's choice (log 10). -/
def Obligations.TenancySteps : Prop :=
  ∀ (s : State) (p : Fin 24) (v : Fin 64), let q := s.parts[p]
    (∀ net : NetSetup, q.owns = false → q.nodeOk = true → s.bayTaken p = false →
      ∃ u, exec (.partitionEnable ⟨p, net⟩) s = .next u ∧ (u.parts[p]).st = .assigned
      ∧ (u.parts[p]).en = true ∧ (u.parts[p]).cur = none ∧ u.hbm = s.hbm ∧ (u.parts[p]).ports = net.ports
      ∧ (u.parts[p]).mtu = 1024 * 2 ^ net.mtu.val ∧ (u.parts[p]).rto = net.rto ∧ (u.parts[p]).rlim = net.rlim
      ∧ (u.parts[p]).noPeer = net.noPeer
      ∧ ∀ t, u.tile t = if (u.parts[p]).covers t then {} else s.tile t)
    ∧ (∀ net : NetSetup, q.owns = false → (q.nodeOk = false ∨ s.bayTaken p = true) → exec (.partitionEnable ⟨p, net⟩) s = .next
        ((s.modPart p (fun q => q.setNet net)).modPart p (fun q => { q with st := .refused, en := false })))
    ∧ (q.st = .assigned → ∃ u, exec (.partitionRelease p) s = .next u ∧ (u.parts[p]).st = .releasing ∧ (u.parts[p]).en = false
      ∧ ∀ l, s.curLaunch p = some l → Ended s u p l 4)
    ∧ (q.st = .releasing → ∃ u, exec (.scrubComplete p) s = .next u ∧ (u.parts[p]).st = .free ∧ (u.parts[p]).reserve = [] ∧ u.hbm = s.hbm
      ∧ (∀ t, u.tile t = if q.covers t then {} else s.tile t) ∧ ∀ e : Fin 56, ∀ g ∈ (u.etus[e]).buf, g.part ≠ p)
    ∧ exec (.stateDescheduled v) s = .next (s.modVdev v (fun d => { d with st := .descheduled }))
    ∧ exec (.statePaused v) s = .next (s.modVdev v (fun d => { d with st := .paused }))
    ∧ ((s.vdevs[v]).ip = false → exec (.stateRunning v) s = .next (s.modVdev v (fun d => { d with st := .running })))
    ∧ (s.memOk → (s.vdevs[v]).ip = true → s.hdw ((s.vdevs[v]).cipa.toNat + 8) = 1#64 →
      s.hbmPoison ((s.vdevs[v]).cipa.toNat + 8) 8 false = false → ∃ u n, exec (.stateRunning v) s = .next u
      ∧ (u.vdevs[v]).st = .running ∧ (u.vdevs[v]).ip = false ∧ u.hdw ((s.vdevs[v]).cipa.toNat + 8) = 0#64 ∧ u.notices = s.notices ++ [n]
      ∧ u.tiles = s.tiles)
    ∧ (∃ u, exec (.vdevReset v) s = .next u ∧ (∀ l ∈ u.launches, l.vdev ≠ v) ∧ (u.vdevs[v]).gen = (s.vdevs[v]).gen + 1#16
      ∧ (u.vdevs[v]).deficit = 0 ∧ (u.vdevs[v]).pi = 0#32 ∧ (u.vdevs[v]).ip = false)
    ∧ (∀ a w, let at_ := fun (o : Nat) => a = BitVec.ofNat 64 (0x3F000000000 + o)
      (a.toNat % 8 ≠ 0 → exec (.configWrite a w) s = .next s)
      ∧ (at_ (64 * p.val + 8) → exec (.configWrite a w) s = .next (s.modPart p (fun q => { q with stk := w.extractLsb' 0 24 })))
      ∧ (at_ (64 * p.val + 24) → exec (.configWrite a w) s = .next (s.modPart p (fun q => { q with fpbase := w })))
      ∧ (at_ (64 * p.val + 48) → exec (.configWrite a w) s = .next (s.modPart p (fun q => { q with tqbase := w })))
      ∧ (at_ (0x2000 + 64 * v.val) → exec (.configWrite a w) s = .next (s.modVdev v (fun d => { d with
          sv57 := w.extractLsb' 60 4 == 10#4, asid := w.extractLsb' 44 16, ppn := w.extractLsb' 0 44 })))
      ∧ (at_ (0x2000 + 64 * v.val + 8) → exec (.configWrite a w) s = .next (s.modVdev v (fun d => { d with rpa := w })))
      ∧ (at_ 0x50000 → ∃ u, exec (.configWrite a w) s = .next u ∧ u.power.pcap = max 5000 (min 30000 (field w 16 16))))

/-! ## Boot, reset and power (00 R2, R3, 17 R385 to R398) -/

/-- A cold boot begins with the clk count at 0 and a new BOOTID and waits for its image; a warm reset keeps SEQ, BOOTID and the black
boxes, whose counts of resets rise; the loss of power leaves nothing; an accepted image starts the harts of the present islands at its
ENTRY, and a fetch that fails is made again after a second, but the third with the backup pair stops boot (R387); the floor of security
versions rises to at most the running image's. A warm reset also keeps the meter counters, with what their shadows hold (R391); in a
reset hold it goes no further until the hold ends (log 65). That
tiles are zero after power-on (log 5) and that a step which is not enabled changes nothing (log 10) are the model's choices. -/
def Obligations.BootSteps : Prop :=
  ∀ s : State,
    (s.coldReady = true → ∃ u, exec .coldBoot s = .next u ∧ u.now = 0 ∧ u.boot.phase = 4 ∧ u.hartsOn = false ∧ u.power.on = true
      ∧ u.tiles = [] ∧ u.launches = [] ∧ u.plane = [] ∧ u.msgs = [] ∧ u.meters.bootid = Config.randomWord s.free ∧ u.meters.dev = []
      ∧ u.meters.tenant = [] ∧ u.fuses = s.fuses ∧ ∀ i : Fin 48, (u.boxes[i]).bootid = Config.randomWord s.free)
    ∧ (s.coldReady = false → exec .coldBoot s = .next s)
    ∧ (∃ u, exec .warmReset s = .next u ∧ exec .managementReset s = .next u ∧ u.now = s.now ∧ u.hartsOn = false
      ∧ (s.power.hold = false → s.power.holdV = false → u.boot.phase = 4)
      ∧ ((s.power.hold = true ∨ s.power.holdV = true) → u.boot.phase = 0 ∧ u.power.hold = s.power.hold ∧ u.power.holdV = s.power.holdV)
      ∧ ((s.meters.shDev.map (·.1)).Nodup → ∀ i, tget 0#64 u.meters.dev i = tget 0#64 s.meters.dev i + tget 0#64 s.meters.shDev i)
      ∧ ((s.meters.shTen.map (·.1)).Nodup → ∀ i, tget 0#64 u.meters.tenant i = tget 0#64 s.meters.tenant i + tget 0#64 s.meters.shTen i)
      ∧ u.tiles = [] ∧ u.launches = [] ∧ u.plane = [] ∧ u.msgs = [] ∧ u.meters.seq = s.meters.seq ∧ u.meters.bootid = s.meters.bootid
      ∧ u.fuses = s.fuses ∧ ∀ i : Fin 48, (u.boxes[i]).wrst = (if (s.boxes[i]).wrst = 0xFFFF#16 then 0xFFFF#16 else (s.boxes[i]).wrst + 1#16)
        ∧ (u.boxes[i]).bootid = (s.boxes[i]).bootid ∧ (u.boxes[i]).cehbm = (s.boxes[i]).cehbm)
    ∧ (∃ u, exec .powerLoss s = .next u ∧ u.power.on = false ∧ u.tiles = [] ∧ u.launches = [] ∧ u.plane = [] ∧ u.msgs = []
      ∧ u.hartsOn = false ∧ u.fuses = s.fuses)
    ∧ (s.boot.phase = 4 → s.boot.stopped = false → s.boot.retryAt = none → ∀ (c : BitVec 16) (b : List Byte),
      (∀ svn sig key entry, c.toNat < 0xFFF → s.imageAccepted b = some (svn, sig, key, entry) →
        ∃ u, exec (.bootImageFetched (some c) b) s = .next u ∧ u.boot.phase = 7 ∧ u.boot.chip = c.truncate 12 ∧ u.boot.svn = svn
          ∧ u.boot.keyId = key ∧ u.boot.entry = entry ∧ u.hartsOn = true
          ∧ ∀ h : Fin 384, u.boot.noIsland.contains (h.val / 8) = false → (u.harts[h]).pc = entry ∧ (u.harts[h]).mode = .m)
      ∧ ((s.boot.pairB = false ∨ s.boot.fails < 2) →
        (∃ u, exec (.bootImageFetched none b) s = .next u ∧ u.boot.fails = s.boot.fails + 1
          ∧ u.boot.retryAt = some (s.now + 1400000000) ∧ u.boot.phase = 4 ∧ u.boot.stopped = false)
        ∧ (s.imageAccepted b = none → ∃ u, exec (.bootImageFetched (some c) b) s = .next u ∧ u.boot.fails = s.boot.fails + 1
          ∧ u.boot.retryAt = some (s.now + 1400000000) ∧ u.boot.phase = 4 ∧ u.hartsOn = s.hartsOn))
      ∧ (s.boot.pairB = true → 2 ≤ s.boot.fails →
        let stops := fun (i : Instr) => ∃ u n, exec i s = .next u ∧ u.boot.stopped = true ∧ u.boot.retryAt = none ∧ u.boot.phase = 4
          ∧ u.hartsOn = s.hartsOn ∧ u.notices = s.notices ++ [.boot 4 n]
        stops (.bootImageFetched none b) ∧ (0xFFF ≤ c.toNat → stops (.bootImageFetched (some c) b))
        ∧ (s.imageAccepted b = none → stops (.bootImageFetched (some c) b))))
    ∧ (s.boot.stopped = true → ∀ c b, exec (.bootImageFetched c b) s = .next s)
    ∧ (∀ t, s.boot.retryAt = some t → t ≤ s.now → s.boot.stopped = false →
      (s.boot.fails < 3 → ∃ u, exec .bootFetchRetry s = .next u ∧ u.boot.retryAt = none ∧ u.boot.pairB = s.boot.pairB
        ∧ u.boot.fails = s.boot.fails)
      ∧ (3 ≤ s.boot.fails → s.boot.pairOk s.fuses.backup = true → ∃ u, exec .bootFetchRetry s = .next u ∧ u.boot.retryAt = none
        ∧ u.boot.pairB = true ∧ u.boot.fails = 0)
      ∧ (3 ≤ s.boot.fails → s.boot.pairOk s.fuses.backup = false → ∃ u, exec .bootFetchRetry s = .next u ∧ u.boot.stopped = true))
    ∧ (∀ v, s.boot.phase = 7 → ∃ u, exec (.securityVersionFloorRaise v) s = .next u
      ∧ u.fuses.svf.toNat = max s.fuses.svf.toNat (min v.toNat s.boot.svn.toNat) ∧ u.fuses.digests = s.fuses.digests ∧ u.tiles = s.tiles)

/-! ## Meters, reports, keys and the service (18 R408 to R412) -/

/-- The shadows are added to the counters once a period; a report holds the counters as they stood at the start of its clk, and its
record gets the signature and the next SEQ at its end; a key is generated by a store of M-mode with a new ID, or deferred while the device is saved or restored;
a call is answered, its checks in the order of log 46, and a request for a key is done in two further steps of the service; a call whose
record exists repeats no effect: status 1 where the request differs, 4 while the record is in progress, then the stored reply, with the
stored report, or status 5 where that is no longer held (R412); a restart of
the service takes up again what was in progress. Keys are uninterpreted random values (log 7); a step that is not enabled changes nothing
(log 10), nor does a key store of a lower mode (log 29). -/
def Obligations.ServiceSteps : Prop :=
  ∀ s : State, let m := s.meters
    (m.addedAt + 14000 ≤ s.now → (m.shDev.map (·.1)).Nodup → (m.shTen.map (·.1)).Nodup →
      ∃ u, exec .meterShadowAdd s = .next u ∧ u.meters.shDev = [] ∧ u.meters.shTen = [] ∧ u.meters.addedAt = m.addedAt + 14000
        ∧ ∀ i, tget 0#64 u.meters.dev i = tget 0#64 m.dev i + tget 0#64 m.shDev i
          ∧ tget 0#64 u.meters.tenant i = tget 0#64 m.tenant i + tget 0#64 m.shTen i)
    ∧ (m.busy.isSome = true → exec .attestationReport s = .next s ∧ exec .meterSnapshot s = .next s)
    ∧ (m.busy = none → ∀ k : Fin 4, k = 1 ∨ k = 2 → ∃ u r, exec (if k = 1 then .attestationReport else .meterSnapshot) s = .next u
      ∧ u.meters.busy = some r ∧ r.kind = k ∧ r.at_ = s.now ∧ r.dev = m.dev0 ∧ r.ten = m.ten0 ∧ r.tens = m.ten
      ∧ u.meters.seq = m.seq ∧ u.tiles = s.tiles ∧ u.hbm = s.hbm)
    ∧ (∀ r, m.busy = some r → ∃ u, exec .reportComplete s = .next u ∧ u.meters.seq = m.seq + 1#64 ∧ u.meters.report = s.signedReport r
      ∧ (s.svc.find? (fun r => !r.done && r.op != 3) = none → r.rec_ = none → u.meters.busy = none ∧ u.hbm = s.hbm))
    ∧ (∀ (v : Fin 64) (x : Word),
      exec (.keyGeneration v false x) s = .next s
      ∧ (x = 0#64 ∨ x = (s.keys[v]).last → exec (.keyGeneration v true x) s = .next s)
      ∧ (x ≠ 0#64 → x ≠ (s.keys[v]).last → (s.keys[v]).pend ≠ some x →
        (s.saveRestore v = false → ∃ u, exec (.keyGeneration v true x) s = .next u ∧ (u.keys[v]).key = some (Config.randomKey s.free)
          ∧ (u.keys[v]).ctr = 1 ∧ (u.keys[v]).last = x ∧ (∀ w : Fin 64, w ≠ v → u.keys[w] = s.keys[w]) ∧ u.free = s.free + 1)
        ∧ (s.saveRestore v = true → ∃ u, exec (.keyGeneration v true x) s = .next u ∧ (u.keys[v]).key = (s.keys[v]).key
          ∧ (u.keys[v]).pend = some x))
      ∧ ((s.keys[v]).pend = some x →
        (s.saveRestore v = true → exec (.deferredKeyGeneration v) s = .next s)
        ∧ (s.saveRestore v = false → ∃ u, exec (.deferredKeyGeneration v) s = .next u ∧ (u.keys[v]).key = some (Config.randomKey s.free)
          ∧ (u.keys[v]).ctr = 1 ∧ (u.keys[v]).last = x ∧ (u.keys[v]).pend = none)))
    ∧ (∀ r q : SvcReq, s.boot.phase = 7 → s.svcCall r = some q →
      let regs := fun (u : State) (a0 : Word) (a1 : Nat) => ∀ k, q.hart = some k →
        (u.harts[k]).reg 10 = a0 ∧ (u.harts[k]).reg 11 = BitVec.ofNat 64 a1 ∧ ∀ i, i ≠ 10 → i ≠ 11 → (u.harts[k]).reg i = (s.harts[k]).reg i
      (s.svcAddr q.caller q.repPa 64 = false → ∃ u, exec (.serviceCall r) s = .next u ∧ regs u (-5) 3 ∧ u.hbm = s.hbm ∧ u.svc = s.svc
        ∧ u.notices = s.notices ++ [.reply q.caller q.rid (-5) 3])
      ∧ (s.svcAddr q.caller q.repPa 64 = true → q.rid = 0#64 →
        ∃ u, exec (.serviceCall r) s = .next u ∧ regs u (-3) 1 ∧ u.notices = s.notices ++ [.reply q.caller q.rid (-3) 1]
          ∧ u.keys = s.keys ∧ u.svc = s.svc)
      ∧ (∀ bs y l, s.svcAddr q.caller q.repPa 64 = true → q.rid ≠ 0#64 → s.svcAddr q.caller q.reqPa 64 = true → s.svcRecord q = some bs →
        s.svcParse q bs = .inr y → s.svc.find? (fun x => x.is q.caller q.rid) = none → s.svcAdd y = some l →
        (y.op = 3 → exec (.serviceCall r) s = .next (({ s with svc := l }).svcStore y.caller y.rid) ∧ y.done = false ∧ y.keyed = false)
        ∧ (y.op ≠ 3 → m.busy = none → ∃ u z, exec (.serviceCall r) s = .next u ∧ u.meters.busy = some z
          ∧ z.kind = (if y.op = 1 then 1 else 2) ∧ z.rec_ = some (y.caller, y.rid) ∧ u.meters.nonce = y.nonce ∧ u.svc = l))
      ∧ (∀ bs, s.svcAddr q.caller q.repPa 64 = true → q.rid ≠ 0#64 → s.svcAddr q.caller q.reqPa 64 = true → s.svcRecord q = some bs →
        let answers := fun (a0 : Word) (status : Nat) (seq : Word) (more : State → Prop) => ∃ u, exec (.serviceCall r) s = .next u
          ∧ regs u a0 status ∧ u.svc = s.svc ∧ u.keys = s.keys ∧ u.meters = s.meters ∧ u.reports = s.reports ∧ u.free = s.free
          ∧ u.notices = s.notices ++ [.reply q.caller q.rid a0 (BitVec.ofNat 64 status)]
          ∧ (s.memOk → ∀ pa, s.svcPa q.caller q.repPa = some pa →
            u.hread pa 64 = leBytes 8 q.rid.toNat ++ leBytes 8 status ++ leBytes 8 seq.toNat ++ List.replicate 40 0#8) ∧ more u
        (∀ e, s.svcParse q bs = .inl e → answers (svcError e) e 0#64 (fun _ => True))
        ∧ ∀ y, s.svcParse q bs = .inr y →
          (s.svc.find? (fun x => x.is q.caller q.rid) = none → s.svcAdd y = none → answers (-1) 5 0#64 (fun _ => True))
          ∧ ∀ x, s.svc.find? (fun x => x.is q.caller q.rid) = some x →
            (x.digest ≠ y.digest → answers (-3) 1 0#64 (fun _ => True))
            ∧ (x.digest = y.digest → x.done = false → answers (-7) 4 0#64 (fun _ => True))
            ∧ (x.digest = y.digest → x.done = true → x.status = 0 →
              (x.op = 3 → answers 0 0 x.seq (fun _ => True))
              ∧ (x.op ≠ 3 → s.reports.find? (fun z => z.1 == x.seq) = none → answers (-1) 5 0#64 (fun _ => True))
              ∧ (∀ z, x.op ≠ 3 → s.reports.find? (fun z => z.1 == x.seq) = some z → answers 0 0 x.seq (fun u =>
                s.memOk → s.hbmBad = [] → q.caller = 0x40 → s.svcOut 0x40 y.out = true → z.2.length ≤ 20480 →
                (y.out.toNat + z.2.length ≤ q.repPa.toNat ∨ q.repPa.toNat + 64 ≤ y.out.toNat) →
                u.hread y.out.toNat z.2.length = z.2)))))
    ∧ (∀ r : SvcReq, s.svcCall r = none → exec (.serviceCall r) s = .next s)
    ∧ (∀ r : SvcRec, (s.svc.map (fun x => (x.caller, x.rid))).Nodup → r ∈ s.svc →
      (r.keyed = false → (s.svcKey r).keys = (s.keyStore (Fin.ofNat 64 r.dev) r.rid).keys ∧ (s.svcKey r).notices = s.notices
        ∧ { r with keyed := true } ∈ (s.svcKey r).svc)
      ∧ (r.keyed = true → (s.svcKey r).keys = s.keys ∧ { r with done := true, at_ := s.now } ∈ (s.svcKey r).svc
        ∧ (s.svcKey r).notices = s.notices ++ (if r.lost then [] else [.reply r.caller r.rid 0 0])))
    ∧ (∃ u, exec .serviceRestart s = .next u ∧ (∀ r ∈ u.svc, r.done = false → r.lost = true ∧ r.keyed = false) ∧ u.tiles = s.tiles
      ∧ u.keys = s.keys ∧ (s.svc.all (·.done) = true → u.svc = s.svc))

/-! ## The module and its records (18 R400 to R406, 20 R419 to R424) -/

/-- The power controller sets the hold level once a period; a hot stack is held above 95 °C and released below 90 °C; a thermal trip,
an undervoltage and a failed link stop the partitions they concern; a hold that ends is followed by a cold boot; errors are counted,
and poison that the scrubber finds is marked and recorded; the firmware's records are appended by M-mode only. Which partitions a failed link concerns beyond those its router serves is a free
choice (log 28); that the record of such poison goes to the box of the stack's island is the model's reading (log 51); a step that is not
enabled changes nothing (log 10). -/
def Obligations.ModuleSteps : Prop :=
  ∀ s : State, let w := s.power
    (∀ (x : Half) (tmax : Byte), w.periodAt + 14000 ≤ s.now → ∃ u, exec (.powerControlPeriod x tmax) s = .next u
      ∧ u.power.pwr = x ∧ u.power.tmax = tmax ∧ u.power.periodAt = w.periodAt + 14000 ∧ u.power.held = 14000 * u.power.h / 64
      ∧ (110 ≤ tmax.toNat → u.power.hold = true)
      ∧ (w.pcap < x.toNat → u.power.h = min 63 (w.h + (64 * (x.toNat - w.pcap) + x.toNat - 1) / x.toNat))
      ∧ (x.toNat ≤ w.pcap → u.power.h = w.h - 1)
      ∧ (tmax.toNat < 110 → u.tiles = s.tiles ∧ u.hbm = s.hbm ∧ u.power.hold = w.hold))
    ∧ (∀ (k : Fin 24) (c : Nat),
      (95 < c → ∃ u, exec (.stackThermalHold k c) s = .next u ∧ k.val ∈ u.power.hotStacks ∧ (∀ i ∈ u.power.hotStacks, i = k.val ∨ i ∈ w.hotStacks)
        ∧ u.tiles = s.tiles)
      ∧ (c ≤ 95 → exec (.stackThermalHold k c) s = .next s)
      ∧ (c < 90 → ∃ u, exec (.stackThermalRelease k c) s = .next u ∧ k.val ∉ u.power.hotStacks ∧ (∀ i ∈ w.hotStacks, i = k.val ∨ i ∈ u.power.hotStacks)
        ∧ u.tiles = s.tiles)
      ∧ (90 ≤ c → exec (.stackThermalRelease k c) s = .next s))
    ∧ (∀ (tmax : Byte) (outlet : Nat), (110 ≤ tmax.toNat ∨ 60 ≤ outlet) → ∃ u, exec (.thermalTrip tmax outlet) s = .next u
      ∧ u.power.hold = true ∧ ∀ p l, (s.parts[p]).owns = true → s.curLaunch p = some l → ∀ x ∈ u.launches, x.id ≠ l.id)
    ∧ (∀ (tmax : Byte) (outlet : Nat), tmax.toNat < 110 → outlet < 60 → exec (.thermalTrip tmax outlet) s = .next s)
    ∧ (∀ mv us, mv < 44000 → 1000 < us → ∃ u, exec (.undervoltage mv us) s = .next u
      ∧ u.power.holdV = true ∧ ∀ p l, (s.parts[p]).owns = true → s.curLaunch p = some l → ∀ x ∈ u.launches, x.id ≠ l.id)
    ∧ (∀ (tmax : Byte), w.hold = true → tmax.toNat < 80 → ∃ u, exec (.thermalResetRelease tmax) s = .next u ∧ u.power.hold = false
      ∧ (w.holdV = false → u.boot.phase = 0 ∧ u.agenda = ⟨0, .event .coldBoot⟩ :: s.agenda))
    ∧ (∀ mv us, w.holdV = true → 46000 < mv → 1000000 ≤ us → ∃ u, exec (.undervoltageRecovery mv us) s = .next u ∧ u.power.holdV = false
      ∧ (w.hold = false → u.boot.phase = 0 ∧ u.agenda = ⟨0, .event .coldBoot⟩ :: s.agenda))
    ∧ (∀ mv, 52000 < mv → ∃ u, exec (.overvoltage mv) s = .next u ∧ u.power.on = false ∧ u.tiles = [] ∧ u.launches = [])
    ∧ (∀ b, ∃ u, exec (.referenceInputChange b) s = .next u ∧ u.power.refclk = b ∧ u.now = s.now ∧ u.tiles = s.tiles ∧ u.parts = s.parts)
    ∧ (∀ (i : Fin 48) (r : TileId) (port : Fin 8) (plane : Bool) (n : Nat),
      ∃ u, exec (.linkBeatResend i r port plane n) s = .next u
        ∧ (n < 3 → (u.boxes[i]).celink = (s.boxes[i]).celink + 1#64 ∧ u.tiles = s.tiles ∧ u.parts = s.parts ∧ u.launches = s.launches
          ∧ ∀ j : Fin 48, j ≠ i → u.boxes[j] = s.boxes[j])
        ∧ (3 ≤ n → ∀ p l, (s.parts[p]).owns = true → (s.parts[p]).covers r = true → s.curLaunch p = some l →
          ∀ x ∈ u.launches, x.id ≠ l.id))
    ∧ (∀ (k : Fin 24) (g : Nat), exec (.patrolScrub k g .clean) s = .next s ∧ ∃ u, exec (.patrolScrub k g .corrected) s = .next u
      ∧ (u.boxes[k.val]).cehbm = (s.boxes[k.val]).cehbm + 1#64 ∧ u.hbm = s.hbm ∧ u.tiles = s.tiles
      ∧ (u.boxes[k.val]).wptr = (s.boxes[k.val]).wptr + (if ((s.boxes[k.val]).cehbm + 1#64).toNat % 2 ^ 16 = 0 then 1#32 else 0#32))
    ∧ (∀ (k : Fin 24) (g : Nat) (j : Fin 48), ∃ u, exec (.patrolScrub k g (.sram j)) s = .next u ∧ u.tiles = s.tiles ∧ u.hbm = s.hbm
      ∧ (u.boxes[j]).cesram = (s.boxes[j]).cesram + 1#64 ∧ ∀ i : Fin 48, i ≠ j → u.boxes[i] = s.boxes[i])
    ∧ (∀ (k : Fin 24) (g : Nat), paStack (64 * g) = k.val → s.paOk (64 * g) = true → s.hbmBad.contains g = false →
      ∃ u, exec (.patrolScrub k g .poisoned) s = .next u ∧ u.hbmBad = g :: s.hbmBad ∧ u.hbm = s.hbm ∧ u.parts = s.parts
        ∧ (u.boxes[k.val]).wptr = (s.boxes[k.val]).wptr + 1#32)
    ∧ (∀ (i : Fin 48) (d0 d1 d2 d3 : Word),
      exec (.firmwareRecord i false d0 d1 d2 d3) s = .next s
      ∧ ((field d1 56 8 < 0x50 ∨ 0x7F < field d1 56 8) → exec (.firmwareRecord i true d0 d1 d2 d3) s = .next s)
      ∧ (0x50 ≤ field d1 56 8 → field d1 56 8 ≤ 0x7F → ∃ u z, exec (.firmwareRecord i true d0 d1 d2 d3) s = .next u
        ∧ (u.boxes[i]).wptr = (s.boxes[i]).wptr + 1#32 ∧ (∀ z0, tget z0 (u.boxes[i]).recs ((s.boxes[i]).wptr.toNat % 2046) = z)
        ∧ z.time = s.now ∧ z.kind = field d1 56 8 ∧ z.d0 = d2 ∧ z.d1 = d3))

/-! ## The whole machine -/

/-- Every instruction and every step of a unit answers a next state in every state: an exception is taken, a wait waits, and a step
that is not enabled changes nothing. A step faults only where the wafer has no power, and it refuses only where a hart moves next, whose
word neither the spec nor the part of RISC-V that the model takes over gives (log 6). That a step which is not enabled changes nothing is
the model's choice (log 10), and so are the two stops of step (log 6). -/
def Obligations.EveryInstructionAnswers : Prop :=
  (∀ (i : Instr) (s : State), ∃ t, exec i s = .next t)
  ∧ (∀ (s : State) (f : Fault), step s = .fault f → f = .noPower ∧ s.begin.power.on = false)
  ∧ (∀ (s : State) (r : Refusal), step s = .refused r →
      r = .hartBase ∧ ∃ h u w, s.pick.who = some (.hart h) ∧ s.begin.fetchHart h = .base u w ∧ u.hartBase w = none)
end

