-- ==== Sys2Proof/Laws/State.lean ====
section
/-! SUPPORT. One lemma per field per update of the state record, so that no later proof unfolds a record update; the updates of a
tile come down to `setTile`. -/

namespace Sys2Proof
namespace Machine

/-! ## Every update of a tile is a `setTile` -/

@[simp] theorem State.modTile_eq (s : State) (t : TileId) (f : Tile → Tile) : s.modTile t f = s.setTile t (f (s.tile t)) := rfl
@[simp] theorem State.setStrand_eq (s : State) (t : TileId) (k : Fin 4) (r : Strand) :
    s.setStrand t k r = s.setTile t ((s.tile t).setStrand k r) := rfl
@[simp] theorem State.modStrand_eq (s : State) (t : TileId) (k : Fin 4) (f : Strand → Strand) :
    s.modStrand t k f = s.setTile t ((s.tile t).setStrand k (f (s.strand t k))) := rfl
@[simp] theorem State.modMe_eq (s : State) (f : Strand → Strand) :
    s.modMe f = s.setTile s.ct (s.my.setStrand s.ck (f s.me)) := rfl
@[simp] theorem State.modMy_eq (s : State) (f : Tile → Tile) : s.modMy f = s.setTile s.ct (f s.my) := rfl
@[simp] theorem State.setReg_eq (s : State) (r : Reg) (v : Word) :
    s.setReg r v = s.setTile s.ct (s.my.setStrand s.ck { s.me with regs := s.me.regs.set r v }) := rfl

/-! ## Tables -/

@[simp] theorem tget_tset_self {α : Type} (d : α) (l : List (Nat × α)) (i : Nat) (v : α) : tget d (tset l i v) i = v := by
  induction l with
  | nil => simp [tset, tget]
  | cons h r ih =>
    obtain ⟨k, x⟩ := h
    unfold tset
    split
    · simp [tget]
    · split
      · simp [tget]
      · simp [tget, ih, Ne.symm ‹¬i = k›]

theorem tget_tset_ne {α : Type} (d : α) (l : List (Nat × α)) {i j : Nat} (v : α) (h : j ≠ i) :
    tget d (tset l i v) j = tget d l j := by
  induction l with
  | nil => simp [tset, tget, h.symm]
  | cons e r ih =>
    obtain ⟨k, x⟩ := e
    unfold tset
    split
    · simp [tget, h.symm]
    · split
      · subst_vars; simp [tget, h.symm]
      · simp [tget, ih]

@[simp] theorem tset_tset {α : Type} (l : List (Nat × α)) (i : Nat) (v w : α) : tset (tset l i v) i w = tset l i w := by
  induction l with
  | nil => simp [tset]
  | cons e r ih =>
    obtain ⟨k, x⟩ := e
    by_cases h1 : i < k
    · simp [tset, h1]
    · by_cases h2 : i = k
      · subst h2; simp [tset]
      · simp [tset, h1, h2, ih]

/-- A table whose entry is set has that entry and no other new one. -/
theorem mem_tset {α : Type} {l : List (Nat × α)} {i : Nat} {v : α} {e : Nat × α} (h : e ∈ tset l i v) : e = (i, v) ∨ e ∈ l := by
  induction l with
  | nil => simpa [tset] using h
  | cons a r ih =>
    obtain ⟨k, x⟩ := a
    unfold tset at h
    split at h
    · simpa using h
    · split at h
      · rcases List.mem_cons.mp h with h | h <;> simp [h]
      · rcases List.mem_cons.mp h with h | h
        · simp [h]
        · rcases ih h with h | h <;> simp [h]

/-- An entry read from a table is the default or one of the table's. -/
theorem tget_mem {α : Type} (d : α) (l : List (Nat × α)) (i : Nat) : tget d l i = d ∨ (i, tget d l i) ∈ l := by
  induction l with
  | nil => simp [tget]
  | cons a r ih =>
    obtain ⟨k, x⟩ := a
    unfold tget
    split
    · subst_vars; simp
    · rcases ih with h | h
      · exact .inl h
      · exact .inr (List.mem_cons_of_mem _ h)

/-! ## Tiles and strands read back -/

@[simp] theorem State.tile_setTile (s : State) (t : TileId) (x : Tile) : (s.setTile t x).tile t = x := by
  simp [State.tile, State.setTile]
theorem State.tile_setTile_ne (s : State) {t u : TileId} (x : Tile) (h : u ≠ t) : (s.setTile t x).tile u = s.tile u := by
  simp [State.tile, State.setTile, tget_tset_ne _ _ _ h]
@[simp] theorem State.setTile_setTile (s : State) (t : TileId) (x y : Tile) : (s.setTile t x).setTile t y = s.setTile t y := by
  simp [State.setTile]
@[simp] theorem Tile.strand_setStrand (x : Tile) (k : Fin 4) (r : Strand) : (x.setStrand k r).strand k = r := by
  simp [Tile.strand, Tile.setStrand]
theorem Tile.strand_setStrand_ne (x : Tile) {k j : Fin 4} (r : Strand) (h : j ≠ k) : (x.setStrand k r).strand j = x.strand j := by
  have : (k : Nat) ≠ j := fun e => h (Fin.ext e.symm)
  simp [Tile.strand, Tile.setStrand, this]
@[simp] theorem Tile.setStrand_setStrand (x : Tile) (k : Fin 4) (r q : Strand) : (x.setStrand k r).setStrand k q = x.setStrand k q := by
  simp [Tile.setStrand]
@[simp] theorem State.ct_setTile (s : State) (t : TileId) (x : Tile) : (s.setTile t x).ct = s.ct := rfl
@[simp] theorem State.ck_setTile (s : State) (t : TileId) (x : Tile) : (s.setTile t x).ck = s.ck := rfl
@[simp] theorem State.my_setTile (s : State) (x : Tile) : (s.setTile s.ct x).my = x := by simp [State.my]
@[simp] theorem State.me_setTile (s : State) (x : Tile) : (s.setTile s.ct x).me = x.strand s.ck := by
  simp [State.me, State.strand]
@[simp] theorem State.strand_ct (s : State) : s.strand s.ct s.ck = s.me := rfl
@[simp] theorem State.strand_setTile (s : State) (t : TileId) (x : Tile) (k : Fin 4) : (s.setTile t x).strand t k = x.strand k := by
  simp [State.strand]
@[simp] theorem State.my_strand (s : State) : s.my.strand s.ck = s.me := rfl

/-! ## Fields of the machine under each update -/

@[simp] theorem State.agenda_setTile (s : State) (t : TileId) (x : Tile) : (s.setTile t x).agenda = s.agenda := rfl
@[simp] theorem State.steps_setTile (s : State) (t : TileId) (x : Tile) : (s.setTile t x).steps = s.steps := rfl
@[simp] theorem State.now_setTile (s : State) (t : TileId) (x : Tile) : (s.setTile t x).now = s.now := rfl
@[simp] theorem State.fresh_setTile (s : State) (t : TileId) (x : Tile) : (s.setTile t x).fresh = s.fresh := rfl
@[simp] theorem State.free_setTile (s : State) (t : TileId) (x : Tile) : (s.setTile t x).free = s.free := rfl
@[simp] theorem State.cur_setTile (s : State) (t : TileId) (x : Tile) : (s.setTile t x).cur = s.cur := rfl
@[simp] theorem State.ir_setTile (s : State) (t : TileId) (x : Tile) : (s.setTile t x).ir = s.ir := rfl
@[simp] theorem State.curHart_setTile (s : State) (t : TileId) (x : Tile) : (s.setTile t x).curHart = s.curHart := rfl
@[simp] theorem State.plane_setTile (s : State) (t : TileId) (x : Tile) : (s.setTile t x).plane = s.plane := rfl
@[simp] theorem State.msgs_setTile (s : State) (t : TileId) (x : Tile) : (s.setTile t x).msgs = s.msgs := rfl
@[simp] theorem State.parts_setTile (s : State) (t : TileId) (x : Tile) : (s.setTile t x).parts = s.parts := rfl
@[simp] theorem State.vdevs_setTile (s : State) (t : TileId) (x : Tile) : (s.setTile t x).vdevs = s.vdevs := rfl
@[simp] theorem State.launches_setTile (s : State) (t : TileId) (x : Tile) : (s.setTile t x).launches = s.launches := rfl
@[simp] theorem State.rma_setTile (s : State) (t : TileId) (x : Tile) : (s.setTile t x).rma = s.rma := rfl
@[simp] theorem State.hbm_setTile (s : State) (t : TileId) (x : Tile) : (s.setTile t x).hbm = s.hbm := rfl
@[simp] theorem State.hbmBad_setTile (s : State) (t : TileId) (x : Tile) : (s.setTile t x).hbmBad = s.hbmBad := rfl
@[simp] theorem State.etus_setTile (s : State) (t : TileId) (x : Tile) : (s.setTile t x).etus = s.etus := rfl
@[simp] theorem State.dirs_setTile (s : State) (t : TileId) (x : Tile) : (s.setTile t x).dirs = s.dirs := rfl
@[simp] theorem State.beads1_setTile (s : State) (t : TileId) (x : Tile) : (s.setTile t x).beads1 = s.beads1 := rfl
@[simp] theorem State.pools1_setTile (s : State) (t : TileId) (x : Tile) : (s.setTile t x).pools1 = s.pools1 := rfl
@[simp] theorem State.passSeq_setTile (s : State) (t : TileId) (x : Tile) : (s.setTile t x).passSeq = s.passSeq := rfl
@[simp] theorem State.reqId_setTile (s : State) (t : TileId) (x : Tile) : (s.setTile t x).reqId = s.reqId := rfl
@[simp] theorem State.harts_setTile (s : State) (t : TileId) (x : Tile) : (s.setTile t x).harts = s.harts := rfl
@[simp] theorem State.hartsOn_setTile (s : State) (t : TileId) (x : Tile) : (s.setTile t x).hartsOn = s.hartsOn := rfl
@[simp] theorem State.boxes_setTile (s : State) (t : TileId) (x : Tile) : (s.setTile t x).boxes = s.boxes := rfl
@[simp] theorem State.fuses_setTile (s : State) (t : TileId) (x : Tile) : (s.setTile t x).fuses = s.fuses := rfl
@[simp] theorem State.bist_setTile (s : State) (t : TileId) (x : Tile) : (s.setTile t x).bist = s.bist := rfl
@[simp] theorem State.boot_setTile (s : State) (t : TileId) (x : Tile) : (s.setTile t x).boot = s.boot := rfl
@[simp] theorem State.meters_setTile (s : State) (t : TileId) (x : Tile) : (s.setTile t x).meters = s.meters := rfl
@[simp] theorem State.keys_setTile (s : State) (t : TileId) (x : Tile) : (s.setTile t x).keys = s.keys := rfl
@[simp] theorem State.svc_setTile (s : State) (t : TileId) (x : Tile) : (s.setTile t x).svc = s.svc := rfl
@[simp] theorem State.reports_setTile (s : State) (t : TileId) (x : Tile) : (s.setTile t x).reports = s.reports := rfl
@[simp] theorem State.power_setTile (s : State) (t : TileId) (x : Tile) : (s.setTile t x).power = s.power := rfl
@[simp] theorem State.etuWaits_setTile (s : State) (t : TileId) (x : Tile) : (s.setTile t x).etuWaits = s.etuWaits := rfl
@[simp] theorem State.lrs_setTile (s : State) (t : TileId) (x : Tile) : (s.setTile t x).lrs = s.lrs := rfl
@[simp] theorem State.bistNext_setTile (s : State) (t : TileId) (x : Tile) : (s.setTile t x).bistNext = s.bistNext := rfl
@[simp] theorem State.notices_setTile (s : State) (t : TileId) (x : Tile) : (s.setTile t x).notices = s.notices := rfl

@[simp] theorem State.agenda_bump (s : State) : (s.bump).agenda = s.agenda := rfl
@[simp] theorem State.steps_bump (s : State) : (s.bump).steps = s.steps := rfl
@[simp] theorem State.now_bump (s : State) : (s.bump).now = s.now := rfl
@[simp] theorem State.free_bump (s : State) : (s.bump).free = s.free := rfl
@[simp] theorem State.cur_bump (s : State) : (s.bump).cur = s.cur := rfl
@[simp] theorem State.ir_bump (s : State) : (s.bump).ir = s.ir := rfl
@[simp] theorem State.curHart_bump (s : State) : (s.bump).curHart = s.curHart := rfl
@[simp] theorem State.tiles_bump (s : State) : (s.bump).tiles = s.tiles := rfl
@[simp] theorem State.plane_bump (s : State) : (s.bump).plane = s.plane := rfl
@[simp] theorem State.msgs_bump (s : State) : (s.bump).msgs = s.msgs := rfl
@[simp] theorem State.parts_bump (s : State) : (s.bump).parts = s.parts := rfl
@[simp] theorem State.vdevs_bump (s : State) : (s.bump).vdevs = s.vdevs := rfl
@[simp] theorem State.launches_bump (s : State) : (s.bump).launches = s.launches := rfl
@[simp] theorem State.rma_bump (s : State) : (s.bump).rma = s.rma := rfl
@[simp] theorem State.hbm_bump (s : State) : (s.bump).hbm = s.hbm := rfl
@[simp] theorem State.hbmBad_bump (s : State) : (s.bump).hbmBad = s.hbmBad := rfl
@[simp] theorem State.etus_bump (s : State) : (s.bump).etus = s.etus := rfl
@[simp] theorem State.dirs_bump (s : State) : (s.bump).dirs = s.dirs := rfl
@[simp] theorem State.beads1_bump (s : State) : (s.bump).beads1 = s.beads1 := rfl
@[simp] theorem State.pools1_bump (s : State) : (s.bump).pools1 = s.pools1 := rfl
@[simp] theorem State.passSeq_bump (s : State) : (s.bump).passSeq = s.passSeq := rfl
@[simp] theorem State.reqId_bump (s : State) : (s.bump).reqId = s.reqId := rfl
@[simp] theorem State.harts_bump (s : State) : (s.bump).harts = s.harts := rfl
@[simp] theorem State.hartsOn_bump (s : State) : (s.bump).hartsOn = s.hartsOn := rfl
@[simp] theorem State.boxes_bump (s : State) : (s.bump).boxes = s.boxes := rfl
@[simp] theorem State.fuses_bump (s : State) : (s.bump).fuses = s.fuses := rfl
@[simp] theorem State.bist_bump (s : State) : (s.bump).bist = s.bist := rfl
@[simp] theorem State.boot_bump (s : State) : (s.bump).boot = s.boot := rfl
@[simp] theorem State.meters_bump (s : State) : (s.bump).meters = s.meters := rfl
@[simp] theorem State.keys_bump (s : State) : (s.bump).keys = s.keys := rfl
@[simp] theorem State.svc_bump (s : State) : (s.bump).svc = s.svc := rfl
@[simp] theorem State.reports_bump (s : State) : (s.bump).reports = s.reports := rfl
@[simp] theorem State.power_bump (s : State) : (s.bump).power = s.power := rfl
@[simp] theorem State.etuWaits_bump (s : State) : (s.bump).etuWaits = s.etuWaits := rfl
@[simp] theorem State.lrs_bump (s : State) : (s.bump).lrs = s.lrs := rfl
@[simp] theorem State.bistNext_bump (s : State) : (s.bump).bistNext = s.bistNext := rfl
@[simp] theorem State.notices_bump (s : State) : (s.bump).notices = s.notices := rfl

@[simp] theorem State.agenda_tell (s : State) (n : Notice) : (s.tell n).agenda = s.agenda := rfl
@[simp] theorem State.steps_tell (s : State) (n : Notice) : (s.tell n).steps = s.steps := rfl
@[simp] theorem State.now_tell (s : State) (n : Notice) : (s.tell n).now = s.now := rfl
@[simp] theorem State.fresh_tell (s : State) (n : Notice) : (s.tell n).fresh = s.fresh := rfl
@[simp] theorem State.free_tell (s : State) (n : Notice) : (s.tell n).free = s.free := rfl
@[simp] theorem State.cur_tell (s : State) (n : Notice) : (s.tell n).cur = s.cur := rfl
@[simp] theorem State.ir_tell (s : State) (n : Notice) : (s.tell n).ir = s.ir := rfl
@[simp] theorem State.curHart_tell (s : State) (n : Notice) : (s.tell n).curHart = s.curHart := rfl
@[simp] theorem State.tiles_tell (s : State) (n : Notice) : (s.tell n).tiles = s.tiles := rfl
@[simp] theorem State.plane_tell (s : State) (n : Notice) : (s.tell n).plane = s.plane := rfl
@[simp] theorem State.msgs_tell (s : State) (n : Notice) : (s.tell n).msgs = s.msgs := rfl
@[simp] theorem State.parts_tell (s : State) (n : Notice) : (s.tell n).parts = s.parts := rfl
@[simp] theorem State.vdevs_tell (s : State) (n : Notice) : (s.tell n).vdevs = s.vdevs := rfl
@[simp] theorem State.launches_tell (s : State) (n : Notice) : (s.tell n).launches = s.launches := rfl
@[simp] theorem State.rma_tell (s : State) (n : Notice) : (s.tell n).rma = s.rma := rfl
@[simp] theorem State.hbm_tell (s : State) (n : Notice) : (s.tell n).hbm = s.hbm := rfl
@[simp] theorem State.hbmBad_tell (s : State) (n : Notice) : (s.tell n).hbmBad = s.hbmBad := rfl
@[simp] theorem State.etus_tell (s : State) (n : Notice) : (s.tell n).etus = s.etus := rfl
@[simp] theorem State.dirs_tell (s : State) (n : Notice) : (s.tell n).dirs = s.dirs := rfl
@[simp] theorem State.beads1_tell (s : State) (n : Notice) : (s.tell n).beads1 = s.beads1 := rfl
@[simp] theorem State.pools1_tell (s : State) (n : Notice) : (s.tell n).pools1 = s.pools1 := rfl
@[simp] theorem State.passSeq_tell (s : State) (n : Notice) : (s.tell n).passSeq = s.passSeq := rfl
@[simp] theorem State.reqId_tell (s : State) (n : Notice) : (s.tell n).reqId = s.reqId := rfl
@[simp] theorem State.harts_tell (s : State) (n : Notice) : (s.tell n).harts = s.harts := rfl
@[simp] theorem State.hartsOn_tell (s : State) (n : Notice) : (s.tell n).hartsOn = s.hartsOn := rfl
@[simp] theorem State.boxes_tell (s : State) (n : Notice) : (s.tell n).boxes = s.boxes := rfl
@[simp] theorem State.fuses_tell (s : State) (n : Notice) : (s.tell n).fuses = s.fuses := rfl
@[simp] theorem State.bist_tell (s : State) (n : Notice) : (s.tell n).bist = s.bist := rfl
@[simp] theorem State.boot_tell (s : State) (n : Notice) : (s.tell n).boot = s.boot := rfl
@[simp] theorem State.meters_tell (s : State) (n : Notice) : (s.tell n).meters = s.meters := rfl
@[simp] theorem State.keys_tell (s : State) (n : Notice) : (s.tell n).keys = s.keys := rfl
@[simp] theorem State.svc_tell (s : State) (n : Notice) : (s.tell n).svc = s.svc := rfl
@[simp] theorem State.reports_tell (s : State) (n : Notice) : (s.tell n).reports = s.reports := rfl
@[simp] theorem State.power_tell (s : State) (n : Notice) : (s.tell n).power = s.power := rfl
@[simp] theorem State.etuWaits_tell (s : State) (n : Notice) : (s.tell n).etuWaits = s.etuWaits := rfl
@[simp] theorem State.lrs_tell (s : State) (n : Notice) : (s.tell n).lrs = s.lrs := rfl
@[simp] theorem State.bistNext_tell (s : State) (n : Notice) : (s.tell n).bistNext = s.bistNext := rfl

@[simp] theorem State.agenda_modPart (s : State) (p : Fin 24) (f : Part → Part) : (s.modPart p f).agenda = s.agenda := rfl
@[simp] theorem State.steps_modPart (s : State) (p : Fin 24) (f : Part → Part) : (s.modPart p f).steps = s.steps := rfl
@[simp] theorem State.now_modPart (s : State) (p : Fin 24) (f : Part → Part) : (s.modPart p f).now = s.now := rfl
@[simp] theorem State.fresh_modPart (s : State) (p : Fin 24) (f : Part → Part) : (s.modPart p f).fresh = s.fresh := rfl
@[simp] theorem State.free_modPart (s : State) (p : Fin 24) (f : Part → Part) : (s.modPart p f).free = s.free := rfl
@[simp] theorem State.cur_modPart (s : State) (p : Fin 24) (f : Part → Part) : (s.modPart p f).cur = s.cur := rfl
@[simp] theorem State.ir_modPart (s : State) (p : Fin 24) (f : Part → Part) : (s.modPart p f).ir = s.ir := rfl
@[simp] theorem State.curHart_modPart (s : State) (p : Fin 24) (f : Part → Part) : (s.modPart p f).curHart = s.curHart := rfl
@[simp] theorem State.tiles_modPart (s : State) (p : Fin 24) (f : Part → Part) : (s.modPart p f).tiles = s.tiles := rfl
@[simp] theorem State.plane_modPart (s : State) (p : Fin 24) (f : Part → Part) : (s.modPart p f).plane = s.plane := rfl
@[simp] theorem State.msgs_modPart (s : State) (p : Fin 24) (f : Part → Part) : (s.modPart p f).msgs = s.msgs := rfl
@[simp] theorem State.vdevs_modPart (s : State) (p : Fin 24) (f : Part → Part) : (s.modPart p f).vdevs = s.vdevs := rfl
@[simp] theorem State.launches_modPart (s : State) (p : Fin 24) (f : Part → Part) : (s.modPart p f).launches = s.launches := rfl
@[simp] theorem State.rma_modPart (s : State) (p : Fin 24) (f : Part → Part) : (s.modPart p f).rma = s.rma := rfl
@[simp] theorem State.hbm_modPart (s : State) (p : Fin 24) (f : Part → Part) : (s.modPart p f).hbm = s.hbm := rfl
@[simp] theorem State.hbmBad_modPart (s : State) (p : Fin 24) (f : Part → Part) : (s.modPart p f).hbmBad = s.hbmBad := rfl
@[simp] theorem State.etus_modPart (s : State) (p : Fin 24) (f : Part → Part) : (s.modPart p f).etus = s.etus := rfl
@[simp] theorem State.dirs_modPart (s : State) (p : Fin 24) (f : Part → Part) : (s.modPart p f).dirs = s.dirs := rfl
@[simp] theorem State.beads1_modPart (s : State) (p : Fin 24) (f : Part → Part) : (s.modPart p f).beads1 = s.beads1 := rfl
@[simp] theorem State.pools1_modPart (s : State) (p : Fin 24) (f : Part → Part) : (s.modPart p f).pools1 = s.pools1 := rfl
@[simp] theorem State.passSeq_modPart (s : State) (p : Fin 24) (f : Part → Part) : (s.modPart p f).passSeq = s.passSeq := rfl
@[simp] theorem State.reqId_modPart (s : State) (p : Fin 24) (f : Part → Part) : (s.modPart p f).reqId = s.reqId := rfl
@[simp] theorem State.harts_modPart (s : State) (p : Fin 24) (f : Part → Part) : (s.modPart p f).harts = s.harts := rfl
@[simp] theorem State.hartsOn_modPart (s : State) (p : Fin 24) (f : Part → Part) : (s.modPart p f).hartsOn = s.hartsOn := rfl
@[simp] theorem State.boxes_modPart (s : State) (p : Fin 24) (f : Part → Part) : (s.modPart p f).boxes = s.boxes := rfl
@[simp] theorem State.fuses_modPart (s : State) (p : Fin 24) (f : Part → Part) : (s.modPart p f).fuses = s.fuses := rfl
@[simp] theorem State.bist_modPart (s : State) (p : Fin 24) (f : Part → Part) : (s.modPart p f).bist = s.bist := rfl
@[simp] theorem State.boot_modPart (s : State) (p : Fin 24) (f : Part → Part) : (s.modPart p f).boot = s.boot := rfl
@[simp] theorem State.meters_modPart (s : State) (p : Fin 24) (f : Part → Part) : (s.modPart p f).meters = s.meters := rfl
@[simp] theorem State.keys_modPart (s : State) (p : Fin 24) (f : Part → Part) : (s.modPart p f).keys = s.keys := rfl
@[simp] theorem State.svc_modPart (s : State) (p : Fin 24) (f : Part → Part) : (s.modPart p f).svc = s.svc := rfl
@[simp] theorem State.reports_modPart (s : State) (p : Fin 24) (f : Part → Part) : (s.modPart p f).reports = s.reports := rfl
@[simp] theorem State.power_modPart (s : State) (p : Fin 24) (f : Part → Part) : (s.modPart p f).power = s.power := rfl
@[simp] theorem State.etuWaits_modPart (s : State) (p : Fin 24) (f : Part → Part) : (s.modPart p f).etuWaits = s.etuWaits := rfl
@[simp] theorem State.lrs_modPart (s : State) (p : Fin 24) (f : Part → Part) : (s.modPart p f).lrs = s.lrs := rfl
@[simp] theorem State.bistNext_modPart (s : State) (p : Fin 24) (f : Part → Part) : (s.modPart p f).bistNext = s.bistNext := rfl
@[simp] theorem State.notices_modPart (s : State) (p : Fin 24) (f : Part → Part) : (s.modPart p f).notices = s.notices := rfl

@[simp] theorem State.agenda_modVdev (s : State) (v : Fin 64) (f : Vdev → Vdev) : (s.modVdev v f).agenda = s.agenda := rfl
@[simp] theorem State.steps_modVdev (s : State) (v : Fin 64) (f : Vdev → Vdev) : (s.modVdev v f).steps = s.steps := rfl
@[simp] theorem State.now_modVdev (s : State) (v : Fin 64) (f : Vdev → Vdev) : (s.modVdev v f).now = s.now := rfl
@[simp] theorem State.fresh_modVdev (s : State) (v : Fin 64) (f : Vdev → Vdev) : (s.modVdev v f).fresh = s.fresh := rfl
@[simp] theorem State.free_modVdev (s : State) (v : Fin 64) (f : Vdev → Vdev) : (s.modVdev v f).free = s.free := rfl
@[simp] theorem State.cur_modVdev (s : State) (v : Fin 64) (f : Vdev → Vdev) : (s.modVdev v f).cur = s.cur := rfl
@[simp] theorem State.ir_modVdev (s : State) (v : Fin 64) (f : Vdev → Vdev) : (s.modVdev v f).ir = s.ir := rfl
@[simp] theorem State.curHart_modVdev (s : State) (v : Fin 64) (f : Vdev → Vdev) : (s.modVdev v f).curHart = s.curHart := rfl
@[simp] theorem State.tiles_modVdev (s : State) (v : Fin 64) (f : Vdev → Vdev) : (s.modVdev v f).tiles = s.tiles := rfl
@[simp] theorem State.plane_modVdev (s : State) (v : Fin 64) (f : Vdev → Vdev) : (s.modVdev v f).plane = s.plane := rfl
@[simp] theorem State.msgs_modVdev (s : State) (v : Fin 64) (f : Vdev → Vdev) : (s.modVdev v f).msgs = s.msgs := rfl
@[simp] theorem State.parts_modVdev (s : State) (v : Fin 64) (f : Vdev → Vdev) : (s.modVdev v f).parts = s.parts := rfl
@[simp] theorem State.launches_modVdev (s : State) (v : Fin 64) (f : Vdev → Vdev) : (s.modVdev v f).launches = s.launches := rfl
@[simp] theorem State.rma_modVdev (s : State) (v : Fin 64) (f : Vdev → Vdev) : (s.modVdev v f).rma = s.rma := rfl
@[simp] theorem State.hbm_modVdev (s : State) (v : Fin 64) (f : Vdev → Vdev) : (s.modVdev v f).hbm = s.hbm := rfl
@[simp] theorem State.hbmBad_modVdev (s : State) (v : Fin 64) (f : Vdev → Vdev) : (s.modVdev v f).hbmBad = s.hbmBad := rfl
@[simp] theorem State.etus_modVdev (s : State) (v : Fin 64) (f : Vdev → Vdev) : (s.modVdev v f).etus = s.etus := rfl
@[simp] theorem State.dirs_modVdev (s : State) (v : Fin 64) (f : Vdev → Vdev) : (s.modVdev v f).dirs = s.dirs := rfl
@[simp] theorem State.beads1_modVdev (s : State) (v : Fin 64) (f : Vdev → Vdev) : (s.modVdev v f).beads1 = s.beads1 := rfl
@[simp] theorem State.pools1_modVdev (s : State) (v : Fin 64) (f : Vdev → Vdev) : (s.modVdev v f).pools1 = s.pools1 := rfl
@[simp] theorem State.passSeq_modVdev (s : State) (v : Fin 64) (f : Vdev → Vdev) : (s.modVdev v f).passSeq = s.passSeq := rfl
@[simp] theorem State.reqId_modVdev (s : State) (v : Fin 64) (f : Vdev → Vdev) : (s.modVdev v f).reqId = s.reqId := rfl
@[simp] theorem State.harts_modVdev (s : State) (v : Fin 64) (f : Vdev → Vdev) : (s.modVdev v f).harts = s.harts := rfl
@[simp] theorem State.hartsOn_modVdev (s : State) (v : Fin 64) (f : Vdev → Vdev) : (s.modVdev v f).hartsOn = s.hartsOn := rfl
@[simp] theorem State.boxes_modVdev (s : State) (v : Fin 64) (f : Vdev → Vdev) : (s.modVdev v f).boxes = s.boxes := rfl
@[simp] theorem State.fuses_modVdev (s : State) (v : Fin 64) (f : Vdev → Vdev) : (s.modVdev v f).fuses = s.fuses := rfl
@[simp] theorem State.bist_modVdev (s : State) (v : Fin 64) (f : Vdev → Vdev) : (s.modVdev v f).bist = s.bist := rfl
@[simp] theorem State.boot_modVdev (s : State) (v : Fin 64) (f : Vdev → Vdev) : (s.modVdev v f).boot = s.boot := rfl
@[simp] theorem State.meters_modVdev (s : State) (v : Fin 64) (f : Vdev → Vdev) : (s.modVdev v f).meters = s.meters := rfl
@[simp] theorem State.keys_modVdev (s : State) (v : Fin 64) (f : Vdev → Vdev) : (s.modVdev v f).keys = s.keys := rfl
@[simp] theorem State.svc_modVdev (s : State) (v : Fin 64) (f : Vdev → Vdev) : (s.modVdev v f).svc = s.svc := rfl
@[simp] theorem State.reports_modVdev (s : State) (v : Fin 64) (f : Vdev → Vdev) : (s.modVdev v f).reports = s.reports := rfl
@[simp] theorem State.power_modVdev (s : State) (v : Fin 64) (f : Vdev → Vdev) : (s.modVdev v f).power = s.power := rfl
@[simp] theorem State.etuWaits_modVdev (s : State) (v : Fin 64) (f : Vdev → Vdev) : (s.modVdev v f).etuWaits = s.etuWaits := rfl
@[simp] theorem State.lrs_modVdev (s : State) (v : Fin 64) (f : Vdev → Vdev) : (s.modVdev v f).lrs = s.lrs := rfl
@[simp] theorem State.bistNext_modVdev (s : State) (v : Fin 64) (f : Vdev → Vdev) : (s.modVdev v f).bistNext = s.bistNext := rfl
@[simp] theorem State.notices_modVdev (s : State) (v : Fin 64) (f : Vdev → Vdev) : (s.modVdev v f).notices = s.notices := rfl

@[simp] theorem State.agenda_modLaunch (s : State) (i : Nat) (f : Launch → Launch) : (s.modLaunch i f).agenda = s.agenda := rfl
@[simp] theorem State.steps_modLaunch (s : State) (i : Nat) (f : Launch → Launch) : (s.modLaunch i f).steps = s.steps := rfl
@[simp] theorem State.now_modLaunch (s : State) (i : Nat) (f : Launch → Launch) : (s.modLaunch i f).now = s.now := rfl
@[simp] theorem State.fresh_modLaunch (s : State) (i : Nat) (f : Launch → Launch) : (s.modLaunch i f).fresh = s.fresh := rfl
@[simp] theorem State.free_modLaunch (s : State) (i : Nat) (f : Launch → Launch) : (s.modLaunch i f).free = s.free := rfl
@[simp] theorem State.cur_modLaunch (s : State) (i : Nat) (f : Launch → Launch) : (s.modLaunch i f).cur = s.cur := rfl
@[simp] theorem State.ir_modLaunch (s : State) (i : Nat) (f : Launch → Launch) : (s.modLaunch i f).ir = s.ir := rfl
@[simp] theorem State.curHart_modLaunch (s : State) (i : Nat) (f : Launch → Launch) : (s.modLaunch i f).curHart = s.curHart := rfl
@[simp] theorem State.tiles_modLaunch (s : State) (i : Nat) (f : Launch → Launch) : (s.modLaunch i f).tiles = s.tiles := rfl
@[simp] theorem State.plane_modLaunch (s : State) (i : Nat) (f : Launch → Launch) : (s.modLaunch i f).plane = s.plane := rfl
@[simp] theorem State.msgs_modLaunch (s : State) (i : Nat) (f : Launch → Launch) : (s.modLaunch i f).msgs = s.msgs := rfl
@[simp] theorem State.parts_modLaunch (s : State) (i : Nat) (f : Launch → Launch) : (s.modLaunch i f).parts = s.parts := rfl
@[simp] theorem State.vdevs_modLaunch (s : State) (i : Nat) (f : Launch → Launch) : (s.modLaunch i f).vdevs = s.vdevs := rfl
@[simp] theorem State.rma_modLaunch (s : State) (i : Nat) (f : Launch → Launch) : (s.modLaunch i f).rma = s.rma := rfl
@[simp] theorem State.hbm_modLaunch (s : State) (i : Nat) (f : Launch → Launch) : (s.modLaunch i f).hbm = s.hbm := rfl
@[simp] theorem State.hbmBad_modLaunch (s : State) (i : Nat) (f : Launch → Launch) : (s.modLaunch i f).hbmBad = s.hbmBad := rfl
@[simp] theorem State.etus_modLaunch (s : State) (i : Nat) (f : Launch → Launch) : (s.modLaunch i f).etus = s.etus := rfl
@[simp] theorem State.dirs_modLaunch (s : State) (i : Nat) (f : Launch → Launch) : (s.modLaunch i f).dirs = s.dirs := rfl
@[simp] theorem State.beads1_modLaunch (s : State) (i : Nat) (f : Launch → Launch) : (s.modLaunch i f).beads1 = s.beads1 := rfl
@[simp] theorem State.pools1_modLaunch (s : State) (i : Nat) (f : Launch → Launch) : (s.modLaunch i f).pools1 = s.pools1 := rfl
@[simp] theorem State.passSeq_modLaunch (s : State) (i : Nat) (f : Launch → Launch) : (s.modLaunch i f).passSeq = s.passSeq := rfl
@[simp] theorem State.reqId_modLaunch (s : State) (i : Nat) (f : Launch → Launch) : (s.modLaunch i f).reqId = s.reqId := rfl
@[simp] theorem State.harts_modLaunch (s : State) (i : Nat) (f : Launch → Launch) : (s.modLaunch i f).harts = s.harts := rfl
@[simp] theorem State.hartsOn_modLaunch (s : State) (i : Nat) (f : Launch → Launch) : (s.modLaunch i f).hartsOn = s.hartsOn := rfl
@[simp] theorem State.boxes_modLaunch (s : State) (i : Nat) (f : Launch → Launch) : (s.modLaunch i f).boxes = s.boxes := rfl
@[simp] theorem State.fuses_modLaunch (s : State) (i : Nat) (f : Launch → Launch) : (s.modLaunch i f).fuses = s.fuses := rfl
@[simp] theorem State.bist_modLaunch (s : State) (i : Nat) (f : Launch → Launch) : (s.modLaunch i f).bist = s.bist := rfl
@[simp] theorem State.boot_modLaunch (s : State) (i : Nat) (f : Launch → Launch) : (s.modLaunch i f).boot = s.boot := rfl
@[simp] theorem State.meters_modLaunch (s : State) (i : Nat) (f : Launch → Launch) : (s.modLaunch i f).meters = s.meters := rfl
@[simp] theorem State.keys_modLaunch (s : State) (i : Nat) (f : Launch → Launch) : (s.modLaunch i f).keys = s.keys := rfl
@[simp] theorem State.svc_modLaunch (s : State) (i : Nat) (f : Launch → Launch) : (s.modLaunch i f).svc = s.svc := rfl
@[simp] theorem State.reports_modLaunch (s : State) (i : Nat) (f : Launch → Launch) : (s.modLaunch i f).reports = s.reports := rfl
@[simp] theorem State.power_modLaunch (s : State) (i : Nat) (f : Launch → Launch) : (s.modLaunch i f).power = s.power := rfl
@[simp] theorem State.etuWaits_modLaunch (s : State) (i : Nat) (f : Launch → Launch) : (s.modLaunch i f).etuWaits = s.etuWaits := rfl
@[simp] theorem State.lrs_modLaunch (s : State) (i : Nat) (f : Launch → Launch) : (s.modLaunch i f).lrs = s.lrs := rfl
@[simp] theorem State.bistNext_modLaunch (s : State) (i : Nat) (f : Launch → Launch) : (s.modLaunch i f).bistNext = s.bistNext := rfl
@[simp] theorem State.notices_modLaunch (s : State) (i : Nat) (f : Launch → Launch) : (s.modLaunch i f).notices = s.notices := rfl

@[simp] theorem State.fresh_bump (s : State) : s.bump.fresh = s.fresh + 1 := rfl
@[simp] theorem State.notices_tell (s : State) (n : Notice) : (s.tell n).notices = s.notices ++ [n] := rfl
@[simp] theorem State.parts_modPart (s : State) (p : Fin 24) (f : Part → Part) : (s.modPart p f).parts = s.parts.set p (f s.parts[p]) := rfl
@[simp] theorem State.vdevs_modVdev (s : State) (v : Fin 64) (f : Vdev → Vdev) : (s.modVdev v f).vdevs = s.vdevs.set v (f s.vdevs[v]) := rfl
@[simp] theorem State.launches_modLaunch (s : State) (i : Nat) (f : Launch → Launch) :
    (s.modLaunch i f).launches = s.launches.map (fun l => if l.id == i then f l else l) := rfl
@[simp] theorem State.tile_bump (s : State) (t : TileId) : s.bump.tile t = s.tile t := rfl
@[simp] theorem State.tile_tell (s : State) (n : Notice) (t : TileId) : (s.tell n).tile t = s.tile t := rfl
@[simp] theorem State.tile_modPart (s : State) (p : Fin 24) (f : Part → Part) (t : TileId) : (s.modPart p f).tile t = s.tile t := rfl
@[simp] theorem State.tile_modVdev (s : State) (v : Fin 64) (f : Vdev → Vdev) (t : TileId) : (s.modVdev v f).tile t = s.tile t := rfl
@[simp] theorem State.tile_modLaunch (s : State) (i : Nat) (f : Launch → Launch) (t : TileId) : (s.modLaunch i f).tile t = s.tile t := rfl

/-! ## Fields of a tile under a change of a strand -/

@[simp] theorem Tile.cw_setStrand (x : Tile) (k : Fin 4) (r : Strand) : (x.setStrand k r).cw = x.cw := rfl
@[simp] theorem Tile.code_setStrand (x : Tile) (k : Fin 4) (r : Strand) : (x.setStrand k r).code = x.code := rfl
@[simp] theorem Tile.data_setStrand (x : Tile) (k : Fin 4) (r : Strand) : (x.setStrand k r).data = x.data := rfl
@[simp] theorem Tile.wgt_setStrand (x : Tile) (k : Fin 4) (r : Strand) : (x.setStrand k r).wgt = x.wgt := rfl
@[simp] theorem Tile.act_setStrand (x : Tile) (k : Fin 4) (r : Strand) : (x.setStrand k r).act = x.act := rfl
@[simp] theorem Tile.acc_setStrand (x : Tile) (k : Fin 4) (r : Strand) : (x.setStrand k r).acc = x.acc := rfl
@[simp] theorem Tile.poison_setStrand (x : Tile) (k : Fin 4) (r : Strand) : (x.setStrand k r).poison = x.poison := rfl
@[simp] theorem Tile.written_setStrand (x : Tile) (k : Fin 4) (r : Strand) : (x.setStrand k r).written = x.written := rfl
@[simp] theorem Tile.blanks_setStrand (x : Tile) (k : Fin 4) (r : Strand) : (x.setStrand k r).blanks = x.blanks := rfl
@[simp] theorem Tile.windows_setStrand (x : Tile) (k : Fin 4) (r : Strand) : (x.setStrand k r).windows = x.windows := rfl
@[simp] theorem Tile.locks_setStrand (x : Tile) (k : Fin 4) (r : Strand) : (x.setStrand k r).locks = x.locks := rfl
@[simp] theorem Tile.binds_setStrand (x : Tile) (k : Fin 4) (r : Strand) : (x.setStrand k r).binds = x.binds := rfl
@[simp] theorem Tile.trigs_setStrand (x : Tile) (k : Fin 4) (r : Strand) : (x.setStrand k r).trigs = x.trigs := rfl
@[simp] theorem Tile.stage_setStrand (x : Tile) (k : Fin 4) (r : Strand) : (x.setStrand k r).stage = x.stage := rfl
@[simp] theorem Tile.posted_setStrand (x : Tile) (k : Fin 4) (r : Strand) : (x.setStrand k r).posted = x.posted := rfl
@[simp] theorem Tile.raddr_setStrand (x : Tile) (k : Fin 4) (r : Strand) : (x.setStrand k r).raddr = x.raddr := rfl
@[simp] theorem Tile.rv_setStrand (x : Tile) (k : Fin 4) (r : Strand) : (x.setStrand k r).rv = x.rv := rfl
@[simp] theorem Tile.rcnt_setStrand (x : Tile) (k : Fin 4) (r : Strand) : (x.setStrand k r).rcnt = x.rcnt := rfl
@[simp] theorem Tile.inbox_setStrand (x : Tile) (k : Fin 4) (r : Strand) : (x.setStrand k r).inbox = x.inbox := rfl
@[simp] theorem Tile.ready_setStrand (x : Tile) (k : Fin 4) (r : Strand) : (x.setStrand k r).ready = x.ready := rfl
@[simp] theorem Tile.credits_setStrand (x : Tile) (k : Fin 4) (r : Strand) : (x.setStrand k r).credits = x.credits := rfl
@[simp] theorem Tile.cmdq_setStrand (x : Tile) (k : Fin 4) (r : Strand) : (x.setStrand k r).cmdq = x.cmdq := rfl
@[simp] theorem Tile.tokq_setStrand (x : Tile) (k : Fin 4) (r : Strand) : (x.setStrand k r).tokq = x.tokq := rfl
@[simp] theorem Tile.resv_setStrand (x : Tile) (k : Fin 4) (r : Strand) : (x.setStrand k r).resv = x.resv := rfl
@[simp] theorem Tile.hold_setStrand (x : Tile) (k : Fin 4) (r : Strand) : (x.setStrand k r).hold = x.hold := rfl
@[simp] theorem Tile.mat_setStrand (x : Tile) (k : Fin 4) (r : Strand) : (x.setStrand k r).mat = x.mat := rfl
@[simp] theorem Tile.vec_setStrand (x : Tile) (k : Fin 4) (r : Strand) : (x.setStrand k r).vec = x.vec := rfl
@[simp] theorem Tile.copies_setStrand (x : Tile) (k : Fin 4) (r : Strand) : (x.setStrand k r).copies = x.copies := rfl
@[simp] theorem Tile.contribs_setStrand (x : Tile) (k : Fin 4) (r : Strand) : (x.setStrand k r).contribs = x.contribs := rfl
@[simp] theorem Tile.tree_setStrand (x : Tile) (k : Fin 4) (r : Strand) : (x.setStrand k r).tree = x.tree := rfl
@[simp] theorem Tile.beads_setStrand (x : Tile) (k : Fin 4) (r : Strand) : (x.setStrand k r).beads = x.beads := rfl
@[simp] theorem Tile.tcv_setStrand (x : Tile) (k : Fin 4) (r : Strand) : (x.setStrand k r).tcv = x.tcv := rfl
@[simp] theorem Tile.phint_setStrand (x : Tile) (k : Fin 4) (r : Strand) : (x.setStrand k r).phint = x.phint := rfl
@[simp] theorem Tile.decl_setStrand (x : Tile) (k : Fin 4) (r : Strand) : (x.setStrand k r).decl = x.decl := rfl
@[simp] theorem Tile.sliceEnd_setStrand (x : Tile) (k : Fin 4) (r : Strand) : (x.setStrand k r).sliceEnd = x.sliceEnd := rfl
@[simp] theorem Tile.settled_setStrand (x : Tile) (k : Fin 4) (r : Strand) : (x.setStrand k r).settled = x.settled := rfl
@[simp] theorem Tile.halted_setStrand (x : Tile) (k : Fin 4) (r : Strand) : (x.setStrand k r).halted = x.halted := rfl
@[simp] theorem Tile.stopBuf_setStrand (x : Tile) (k : Fin 4) (r : Strand) : (x.setStrand k r).stopBuf = x.stopBuf := rfl
@[simp] theorem Tile.msent_setStrand (x : Tile) (k : Fin 4) (r : Strand) : (x.setStrand k r).msent = x.msent := rfl
@[simp] theorem Tile.mrecv_setStrand (x : Tile) (k : Fin 4) (r : Strand) : (x.setStrand k r).mrecv = x.mrecv := rfl
@[simp] theorem Tile.chold_setStrand (x : Tile) (k : Fin 4) (r : Strand) : (x.setStrand k r).chold = x.chold := rfl
@[simp] theorem Tile.lastH_setStrand (x : Tile) (k : Fin 4) (r : Strand) : (x.setStrand k r).lastH = x.lastH := rfl
@[simp] theorem Tile.busyAt_setStrand (x : Tile) (k : Fin 4) (r : Strand) : (x.setStrand k r).busyAt = x.busyAt := rfl
@[simp] theorem Tile.stealDir_setStrand (x : Tile) (k : Fin 4) (r : Strand) : (x.setStrand k r).stealDir = x.stealDir := rfl
@[simp] theorem Tile.stealAt_setStrand (x : Tile) (k : Fin 4) (r : Strand) : (x.setStrand k r).stealAt = x.stealAt := rfl
@[simp] theorem Tile.img_setStrand (x : Tile) (k : Fin 4) (r : Strand) : (x.setStrand k r).img = x.img := rfl
@[simp] theorem Tile.role_setStrand (x : Tile) (k : Fin 4) (r : Strand) : (x.setStrand k r).role = x.role := rfl
@[simp] theorem Tile.beats_setStrand (x : Tile) (k : Fin 4) (r : Strand) : (x.setStrand k r).beats = x.beats := rfl
@[simp] theorem Tile.acqAt_setStrand (x : Tile) (k : Fin 4) (r : Strand) : (x.setStrand k r).acqAt = x.acqAt := rfl
@[simp] theorem Tile.appliedAt_setStrand (x : Tile) (k : Fin 4) (r : Strand) : (x.setStrand k r).appliedAt = x.appliedAt := rfl
@[simp] theorem Tile.issuedAt_setStrand (x : Tile) (k : Fin 4) (r : Strand) : (x.setStrand k r).issuedAt = x.issuedAt := rfl
@[simp] theorem Tile.lastK_setStrand (x : Tile) (k : Fin 4) (r : Strand) : (x.setStrand k r).lastK = x.lastK := rfl
@[simp] theorem Tile.pairNext_setStrand (x : Tile) (k : Fin 4) (r : Strand) : (x.setStrand k r).pairNext = x.pairNext := rfl
@[simp] theorem Tile.divAt_setStrand (x : Tile) (k : Fin 4) (r : Strand) : (x.setStrand k r).divAt = x.divAt := rfl
@[simp] theorem Tile.stolenAt_setStrand (x : Tile) (k : Fin 4) (r : Strand) : (x.setStrand k r).stolenAt = x.stolenAt := rfl
@[simp] theorem Tile.frozen_setStrand (x : Tile) (k : Fin 4) (r : Strand) : (x.setStrand k r).frozen = x.frozen := rfl

end Machine
end Sys2Proof
end

