-- ==== Sys2Proof/Laws/Memory.lean ====
section
/-! SUPPORT. The byte memories: every operation keeps the canonical form, a read after a write, and that canonical memories that
read alike are equal. -/

namespace Sys2Proof
namespace Machine

/-! ## The canonical form -/

theorem Memory.wf_cons (c : Host.Cell) (r : Mem) :
    Memory.wf (c :: r) = true ↔ c.2 ≠ 0#8 ∧ (∀ e ∈ r, c.1 < e.1) ∧ Memory.wf r = true := by
  induction r generalizing c with
  | nil => obtain ⟨a, b⟩ := c; simp [Memory.wf]
  | cons d r ih =>
    obtain ⟨a, b⟩ := c
    obtain ⟨a', b'⟩ := d
    have ih' := ih (a', b')
    rw [Memory.wf, Bool.and_eq_true, Bool.and_eq_true, ih']
    simp only [bne_iff_ne, decide_eq_true_eq, List.mem_cons, forall_eq_or_imp]
    constructor
    · rintro ⟨⟨h1, h2⟩, h3, h4, h5⟩
      exact ⟨h1, ⟨h2, fun e he => Nat.lt_trans h2 (h4 e he)⟩, h3, h4, h5⟩
    · rintro ⟨h1, ⟨h2, -⟩, h3, h4, h5⟩
      exact ⟨⟨h1, h2⟩, h3, h4, h5⟩

theorem Memory.wf_nil : Memory.wf [] = true := rfl

/-- Any selection of the cells of a canonical memory is canonical. -/
theorem Memory.wf_filter {m : Mem} (h : Memory.wf m = true) (p : Host.Cell → Bool) : Memory.wf (m.filter p) = true := by
  induction m with
  | nil => exact h
  | cons c r ih =>
    rw [Memory.wf_cons] at h
    rw [List.filter_cons]
    split
    · rw [Memory.wf_cons]
      exact ⟨h.1, fun e he => h.2.1 e (List.mem_filter.mp he).1, ih h.2.2⟩
    · exact ih h.2.2

theorem mem_tdel {m : Mem} {a : Nat} {e : Host.Cell} (h : e ∈ tdel m a) : e ∈ m := by
  induction m with
  | nil => simp [tdel] at h
  | cons c r ih =>
    obtain ⟨k, x⟩ := c
    unfold tdel at h
    split at h
    · exact List.mem_cons_of_mem _ h
    · rcases List.mem_cons.mp h with h | h
      · simp [h]
      · exact List.mem_cons_of_mem _ (ih h)

theorem Memory.wf_tdel {m : Mem} (h : Memory.wf m = true) (a : Nat) : Memory.wf (tdel m a) = true := by
  induction m with
  | nil => exact h
  | cons c r ih =>
    obtain ⟨k, x⟩ := c
    rw [Memory.wf_cons] at h
    unfold tdel
    split
    · exact h.2.2
    · rw [Memory.wf_cons]
      exact ⟨h.1, fun e he => h.2.1 e (mem_tdel he), ih h.2.2⟩

theorem Memory.wf_tset {m : Mem} (h : Memory.wf m = true) (a : Nat) {b : Byte} (hb : b ≠ 0#8) : Memory.wf (tset m a b) = true := by
  induction m with
  | nil => simp [tset, Memory.wf, hb]
  | cons c r ih =>
    obtain ⟨k, x⟩ := c
    have h' := (Memory.wf_cons _ _).mp h
    unfold tset
    split
    · rename_i hlt
      rw [Memory.wf_cons]
      refine ⟨hb, fun e he => ?_, h⟩
      rcases List.mem_cons.mp he with he | he
      · simpa [he] using hlt
      · exact Nat.lt_trans hlt (h'.2.1 e he)
    · split
      · subst_vars
        exact (Memory.wf_cons _ _).mpr ⟨hb, h'.2.1, h'.2.2⟩
      · rw [Memory.wf_cons]
        refine ⟨h'.1, fun e he => ?_, ih h'.2.2⟩
        rcases mem_tset he with he | he
        · simp only [he]; omega
        · exact h'.2.1 e he

/-- Writing a byte keeps the canonical form. -/
theorem Memory.wf_mset {m : Mem} (h : Memory.wf m = true) (a : Nat) (b : Byte) : Memory.wf (mset m a b) = true := by
  unfold mset
  split
  · exact Memory.wf_tdel h a
  · exact Memory.wf_tset h a ‹_›

/-- Writing bytes keeps the canonical form. -/
theorem Memory.wf_mwrite {m : Mem} (h : Memory.wf m = true) (a : Nat) (bs : List Byte) : Memory.wf (mwrite m a bs) = true := by
  induction bs generalizing m a with
  | nil => exact h
  | cons b bs ih => exact ih (Memory.wf_mset h a b) (a + 1)

/-- Clearing a range keeps the canonical form. -/
theorem Memory.wf_mclear {m : Mem} (h : Memory.wf m = true) (lo n : Nat) : Memory.wf (mclear m lo n) = true :=
  Memory.wf_filter h _

/-- Keeping a range keeps the canonical form. -/
theorem Memory.wf_mkeep {m : Mem} (h : Memory.wf m = true) (lo n : Nat) : Memory.wf (mkeep m lo n) = true :=
  Memory.wf_filter h _

/-! ## Read after write -/

theorem mget_absent {m : Mem} {a : Nat} (h : ∀ e ∈ m, e.1 ≠ a) : mget m a = 0#8 := by
  induction m with
  | nil => rfl
  | cons c r ih =>
    obtain ⟨k, x⟩ := c
    have hk : k ≠ a := h (k, x) (by simp)
    have : tget (0#8 : Byte) r a = 0#8 := ih (fun e he => h e (List.mem_cons_of_mem _ he))
    simp [mget, tget, hk, this]

theorem mget_tdel_self {m : Mem} (h : Memory.wf m = true) (a : Nat) : mget (tdel m a) a = 0#8 := by
  induction m with
  | nil => rfl
  | cons c r ih =>
    obtain ⟨k, x⟩ := c
    rw [Memory.wf_cons] at h
    unfold tdel
    split
    · subst_vars
      exact mget_absent fun e he => Nat.ne_of_gt (h.2.1 e he)
    · have := ih h.2.2
      simp only [mget] at this ⊢
      simp [tget, *]

theorem mget_tdel_ne (m : Mem) {a b : Nat} (h : b ≠ a) : mget (tdel m a) b = mget m b := by
  induction m with
  | nil => rfl
  | cons c r ih =>
    obtain ⟨k, x⟩ := c
    simp only [mget] at ih ⊢
    unfold tdel
    split
    · subst_vars; simp [tget, h.symm]
    · simp [tget, ih]

/-- A byte written is read back. -/
theorem mget_mset_self {m : Mem} (h : Memory.wf m = true) (a : Nat) (b : Byte) : mget (mset m a b) a = b := by
  unfold mset
  split
  · subst_vars; exact mget_tdel_self h a
  · simp [mget]

/-- A byte written leaves every other one. -/
theorem mget_mset_ne (m : Mem) {a i : Nat} (b : Byte) (h : i ≠ a) : mget (mset m a b) i = mget m i := by
  unfold mset
  split
  · exact mget_tdel_ne m h
  · simp [mget, tget_tset_ne _ _ _ h]

/-- Bytes written leave every byte outside them. -/
theorem mget_mwrite_out (m : Mem) (a : Nat) (bs : List Byte) {i : Nat} (h : i < a ∨ a + bs.length ≤ i) :
    mget (mwrite m a bs) i = mget m i := by
  induction bs generalizing m a with
  | nil => rfl
  | cons b bs ih =>
    simp only [List.length_cons] at h
    rw [mwrite, ih _ _ (by omega), mget_mset_ne _ _ (by omega)]

/-- Bytes written are read back. -/
theorem mget_mwrite_in {m : Mem} (hm : Memory.wf m = true) (a : Nat) (bs : List Byte) (i : Nat) (h : i < bs.length) :
    mget (mwrite m a bs) (a + i) = bs[i] := by
  induction bs generalizing m a i with
  | nil => simp at h
  | cons b bs ih =>
    cases i with
    | zero => rw [mwrite, mget_mwrite_out _ _ _ (by omega)]; simpa using mget_mset_self hm a b
    | succ i =>
      have := ih (Memory.wf_mset hm a b) (a + 1) i (by simpa using h)
      rw [mwrite, show a + (i + 1) = a + 1 + i by omega, this, List.getElem_cons_succ]

theorem mread_length (m : Mem) (a n : Nat) : (mread m a n).length = n := by
  induction n generalizing a with
  | zero => rfl
  | succ n ih => simp [mread, ih]

/-- Reading the bytes that were written. -/
theorem mread_mwrite {m : Mem} (hm : Memory.wf m = true) (a : Nat) (bs : List Byte) : mread (mwrite m a bs) a bs.length = bs := by
  have key : ∀ (n k : Nat) (h : k + n = bs.length), mread (mwrite m a bs) (a + k) n = bs.drop k := by
    intro n
    induction n with
    | zero => intro k h; simp only [mread]; exact (List.drop_eq_nil_of_le (by omega)).symm
    | succ n ih =>
      intro k h
      rw [mread, show a + k + 1 = a + (k + 1) by omega, ih (k + 1) (by omega), mget_mwrite_in hm a bs k (by omega)]
      exact (List.drop_eq_getElem_cons (by omega)).symm
  simpa using key bs.length 0 (by simp)

/-! ## Equal memories are equal data -/

theorem mget_ne_zero_mem {m : Mem} {a : Nat} (h : mget m a ≠ 0#8) : (a, mget m a) ∈ m := by
  rcases tget_mem (0#8 : Byte) m a with e | e
  · exact absurd e h
  · exact e

theorem mget_of_mem {m : Mem} (h : Memory.wf m = true) {e : Host.Cell} (he : e ∈ m) : mget m e.1 = e.2 := by
  induction m with
  | nil => simp at he
  | cons c r ih =>
    obtain ⟨k, x⟩ := c
    rw [Memory.wf_cons] at h
    rcases List.mem_cons.mp he with rfl | he
    · simp [mget, tget]
    · have := ih h.2.2 he
      have hk : k ≠ e.1 := Nat.ne_of_lt (h.2.1 e he)
      simp only [mget] at this ⊢
      simp [tget, hk, this]

/-- Two canonical memories that read alike at every address are equal. -/
theorem Memory.ext {m m' : Mem} (h : Memory.wf m = true) (h' : Memory.wf m' = true) (e : ∀ a, mget m a = mget m' a) : m = m' := by
  induction m generalizing m' with
  | nil =>
    cases m' with
    | nil => rfl
    | cons c r =>
      have h1 := mget_of_mem h' (List.mem_cons_self (a := c) (l := r))
      exact absurd ((e c.1).symm.trans rfl |>.symm.trans h1).symm ((Memory.wf_cons _ _).mp h').1
  | cons c r ih =>
    cases m' with
    | nil =>
      have h1 := mget_of_mem h (List.mem_cons_self (a := c) (l := r))
      exact absurd (h1.symm.trans (e c.1)) ((Memory.wf_cons _ _).mp h).1
    | cons d q =>
      have hc := (Memory.wf_cons _ _).mp h
      have hd := (Memory.wf_cons _ _).mp h'
      have c1 := mget_of_mem h (List.mem_cons_self (a := c) (l := r))
      have d1 := mget_of_mem h' (List.mem_cons_self (a := d) (l := q))
      have hcd : c.1 = d.1 := by
        rcases Nat.lt_trichotomy c.1 d.1 with hlt | heq | hlt
        · have : mget (d :: q) c.1 = 0#8 := mget_absent fun x hx => by
            rcases List.mem_cons.mp hx with rfl | hx
            · omega
            · have := hd.2.1 x hx; omega
          exact absurd (c1.symm.trans ((e _).trans this)) hc.1
        · exact heq
        · have : mget (c :: r) d.1 = 0#8 := mget_absent fun x hx => by
            rcases List.mem_cons.mp hx with rfl | hx
            · omega
            · have := hc.2.1 x hx; omega
          exact absurd (d1.symm.trans ((e _).symm.trans this)) hd.1
      have hcd2 : c = d := Prod.ext hcd (by rw [← c1, ← d1, ← hcd]; exact e c.1)
      subst hcd2
      congr 1
      refine ih hc.2.2 hd.2.2 fun a => ?_
      by_cases ha : a = c.1
      · rw [ha, mget_absent fun x hx => Nat.ne_of_gt (hc.2.1 x hx), mget_absent fun x hx => Nat.ne_of_gt (hd.2.1 x hx)]
      · have := e a
        obtain ⟨k, x⟩ := c
        simpa [mget, tget, Ne.symm ha] using this

/-! ## Tiles -/

theorem Tile.memOk_default : ({} : Tile).memOk := ⟨rfl, rfl, rfl, rfl, rfl⟩

theorem Tile.memOk_mem {x : Tile} (h : x.memOk) (sp : Spc) : Memory.wf (x.mem sp) = true := by
  obtain ⟨h1, h2, h3, h4, h5⟩ := h
  cases sp <;> first | assumption | rfl

theorem Tile.memOk_setMem {x : Tile} (h : x.memOk) (sp : Spc) {m : Mem} (hm : Memory.wf m = true) : (x.setMem sp m).memOk := by
  obtain ⟨h1, h2, h3, h4, h5⟩ := h
  cases sp <;> refine ⟨?_, ?_, ?_, ?_, ?_⟩ <;> assumption

/-- Bytes stored into a space keep a tile's memories canonical. -/
theorem Tile.memOk_putBytes {x : Tile} (h : x.memOk) (sp : Spc) (o : Nat) (bs : List Byte) : (x.putBytes sp o bs).memOk :=
  Tile.memOk_setMem h sp (Memory.wf_mwrite (Tile.memOk_mem h sp) o bs)

theorem Tile.memOk_setStrand {x : Tile} (h : x.memOk) (k : Fin 4) (r : Strand) : (x.setStrand k r).memOk := h

theorem Tile.memOk_ctlPutByte {x : Tile} (h : x.memOk) (o : Nat) (b : Byte) : (x.ctlPutByte o b).memOk := by
  unfold Tile.ctlPutByte
  split
  · exact h
  · split
    · exact h
    · exact h

theorem Tile.memOk_ctlPut {x : Tile} (h : x.memOk) (o : Nat) (bs : List Byte) : (x.ctlPut o bs).memOk := by
  induction bs generalizing x o with
  | nil => exact h
  | cons b bs ih => exact ih (Tile.memOk_ctlPutByte h o b) (o + 1)

/-! ## The machine -/

theorem State.memOk_tile {s : State} (h : s.memOk) (t : TileId) : (s.tile t).memOk := by
  rcases tget_mem ({} : Tile) s.tiles t with e | e
  · simp only [State.tile, e]; exact Tile.memOk_default
  · exact h.2.1 _ e

/-- A tile replaced by one whose memories are canonical. -/
theorem State.memOk_setTile {s : State} (h : s.memOk) (t : TileId) {x : Tile} (hx : x.memOk) : (s.setTile t x).memOk := by
  refine ⟨h.1, fun e he => ?_, h.2.2⟩
  rcases mem_tset he with rfl | he
  · exact hx
  · exact h.2.1 e he

end Machine
end Sys2Proof
end

