-- ==== Sys2Proof/Laws/Ops.lean ====
section
/-! SUPPORT. One lemma for each shared operation, saying once what it can do. -/

namespace Sys2Proof
namespace Machine

/-! ## Checks -/

/-- Checks in order pass exactly when each passes. -/
theorem firstOf_ok (cs : List (Unit → Chk)) : firstOf cs = .ok ↔ ∀ c ∈ cs, c () = .ok := by
  induction cs with
  | nil => simp [firstOf]
  | cons c cs ih =>
    simp only [firstOf, List.mem_cons, forall_eq_or_imp, ← ih]
    cases c () <;> simp [Chk.andThen]

/-- What an instruction answers: always a next state, by its checks. -/
theorem run_cases (s t : State) (c : Chk) (eff : State → State) (h : run s c eff = .next t) :
    (c = .ok ∧ t = eff s) ∨ (c = .illegal ∧ t = s.trapIllegal) ∨ (∃ k v, c = .trap k v ∧ t = s.trapHere k v)
    ∨ (∃ w, c = .wait w ∧ t = s.block w) ∨ (∃ k, c = .stop k ∧ t = s.stopAt s.ct k) := by
  cases c <;> simp only [run, Host.Outcome.next.injEq] at h <;> subst h
  · exact .inl ⟨rfl, rfl⟩
  · exact .inr (.inl ⟨rfl, rfl⟩)
  · exact .inr (.inr (.inl ⟨_, _, rfl, rfl⟩))
  · exact .inr (.inr (.inr (.inl ⟨_, rfl, rfl⟩)))
  · exact .inr (.inr (.inr (.inr ⟨_, rfl, rfl⟩)))

theorem run_next (s : State) (c : Chk) (eff : State → State) : ∃ t, run s c eff = .next t := by
  cases c <;> exact ⟨_, rfl⟩

@[simp] theorem run_ok (s : State) (eff : State → State) : run s .ok eff = .next (eff s) := rfl

theorem noPrefix_ok {s : State} (h : s.noPfx) : noPrefix s = .ok := by
  unfold State.noPfx at h; simp [noPrefix, legal, h]

/-- An instruction that accepts no prefix: by its own checks where no prefix waits, else *illegal instruction*. -/
theorem plain_ok {s : State} (h : s.noPfx) (c : Chk) (eff : State → State) : plain s c eff = run s c eff := by
  simp [plain, noPrefix_ok h, Chk.andThen]

theorem plain_prefixed {s : State} (h : swPP s.me.sw = true) (c : Chk) (eff : State → State) :
    plain s c eff = .next s.trapIllegal := by
  simp [plain, noPrefix, legal, h, Chk.andThen, run]

theorem simple_ok {s : State} (h : s.noPfx) {c : Chk} (hc : c = .ok) (eff : State → State) :
    simple s c eff = .next (eff s).retire := by
  simp [simple, plain_ok h, hc]

/-! ## The status word -/

theorem setBit_of_clear {w : Word} {i : Nat} (h : w.getLsbD i = false) : setBit w i false = w := by
  ext j hj
  by_cases e : i = j
  · subst e; simp [setBit]; simpa [BitVec.getLsbD_eq_getElem hj] using h
  · simp [setBit]; exact fun _ => by omega

/-- Where no prefix waits, clearing PP changes nothing. -/
theorem swClearPP_noPfx {s : State} (h : s.noPfx) : swClearPP s.me.sw = s.me.sw := setBit_of_clear h

/-! ## Registers and retiring -/

theorem State.reg_def (s : State) (r : Reg) : s.reg r = s.me.regs[r] := rfl

/-- What retiring to `pc` does. -/
theorem State.retireTo_eq (s : State) (pc : Word) : s.retireTo pc = s.setTile s.ct
    { s.my.setStrand s.ck { s.me with pc := pc, sw := swClearPP s.me.sw, wait := none, fixed := none } with
      cw := { s.my.cw with retired := (s.my.cw.retired + 1) % 2 ^ 64 } } := rfl

/-- A change of the issuing strand's registers, retired to `pc`. -/
theorem retired_regs (s : State) (pc : Word) (f : Vector Word 16) :
    Retired s ((s.modMe (fun z => { z with regs := f })).retireTo pc) pc (swClearPP s.me.sw) s.me.line (fun r => f[r]) where
  machine := by simp [State.retireTo, State.setTile]
  tiles u hu := by simp [State.retireTo, State.tile_setTile_ne _ _ hu]
  tile := by simp [State.retireTo_eq, Tile.setStrand]
  strands j hj := by
    simp only [State.retireTo_eq, State.modMe_eq, State.ct_setTile, State.setTile_setTile, State.my_setTile]
    exact (Tile.strand_setStrand_ne _ _ hj).trans (Tile.strand_setStrand_ne _ _ hj)
  me := by
    simp only [State.retireTo_eq, State.modMe_eq, State.ct_setTile, State.setTile_setTile, State.me_setTile]
    simp [Tile.strand, Tile.setStrand]
  regs r := by
    simp only [State.reg, State.retireTo_eq, State.modMe_eq, State.ct_setTile, State.setTile_setTile, State.me_setTile]
    simp [Tile.strand, Tile.setStrand]

/-- A register written, retired to `pc`. -/
theorem retired_setReg (s : State) (pc : Word) (d : Reg) (v : Word) :
    Retired s ((s.setReg d v).retireTo pc) pc (swClearPP s.me.sw) s.me.line (s.regsWith d v) := by
  have h := retired_regs s pc (s.me.regs.set d v)
  have e : (fun r : Reg => (s.me.regs.set d v)[r]) = s.regsWith d v := by
    funext r
    simp only [State.regsWith, State.reg]
    by_cases hr : r = d
    · subst hr; simp
    · have : (d : Nat) ≠ r := fun x => hr (Fin.ext x.symm)
      simp [hr, this]
  rw [e] at h
  exact h

/-- Nothing written, retired to `pc`. -/
theorem retired_none (s : State) (pc : Word) : Retired s (s.retireTo pc) pc (swClearPP s.me.sw) s.me.line s.reg := by
  have h := retired_regs s pc s.me.regs
  have e : s.modMe (fun z => { z with regs := s.me.regs }) = s.setTile s.ct (s.my.setStrand s.ck s.me) := rfl
  rw [e] at h
  have e2 : (s.setTile s.ct (s.my.setStrand s.ck s.me)).retireTo pc = s.retireTo pc := by
    simp [State.retireTo_eq]
  rw [e2] at h
  exact h

theorem State.me_setReg_pc (s : State) (d : Reg) (v : Word) : (s.setReg d v).me.pc = s.me.pc := by simp

/-- Every one-register instruction: it gives its value. -/
theorem gives_simple {s : State} {i : Instr} {d : Reg} {v : Word} (h : s.noPfx)
    (e : exec i s = simple s .ok (fun s => s.setReg d v)) : Gives s i d v := by
  refine ⟨_, e.trans (simple_ok h rfl _), ?_⟩
  have r := retired_setReg s (nextPc s.me.pc) d v
  rw [swClearPP_noPfx h] at r
  simp only [State.retire, State.me_setReg_pc]
  exact r

/-- Every instruction that only retires. -/
theorem passes_simple {s : State} {i : Instr} (h : s.noPfx) (e : exec i s = simple s .ok id) : Passes s i := by
  refine ⟨_, e.trans (simple_ok h rfl _), ?_⟩
  have r := retired_none s (nextPc s.me.pc)
  rw [swClearPP_noPfx h] at r
  exact r

/-! ## Transfers -/

/-- The stall that a transfer leaves, told apart from what it writes otherwise. -/
theorem jump_eq (s : State) (pc : Word) (f : Vector Word 16) (ln : Option HeldLine) (n : Nat) :
    ((s.modMe (fun z => { z with regs := f })).retireTo pc).modMe (fun z => { z with line := ln, stall := n })
      = ((((s.modMe (fun z => { z with stall := n })).modMe (fun z => { z with regs := f })).retireTo pc).modMe (fun z => { z with line := ln })) := by
  simp only [State.retireTo_eq, State.modMe_eq, State.ct_setTile, State.ck_setTile, State.setTile_setTile, State.my_setTile, State.me_setTile]
  simp [Tile.strand, Tile.setStrand]

/-- A line entered by what has retired. -/
theorem Retired.withLine {s t : State} {pc sw : Word} {l0 : Option HeldLine} {rf : Reg → Word} (h : Retired s t pc sw l0 rf)
    (ln : Option HeldLine) : Retired s (t.modMe (fun z => { z with line := ln })) pc sw ln rf := by
  have hc : t.cur = s.cur := by rw [h.machine]
  have hct : t.ct = s.ct := congrArg Prod.fst hc
  have hck : t.ck = s.ck := congrArg Prod.snd hc
  refine { machine := ?_, tiles := ?_, tile := ?_, strands := ?_, me := ?_, regs := ?_ }
  · exact congrArg (fun q : State => { q with tiles := (t.modMe (fun z => { z with line := ln })).tiles }) h.machine
  · intro u hu
    rw [State.modMe_eq, State.tile_setTile_ne _ _ (by rw [hct]; exact hu), h.tiles u hu]
  · simp only [State.modMe_eq, State.my_setTile, Tile.setStrand]
    rw [h.tile]
  · intro j hj
    rw [State.modMe_eq, State.my_setTile, Tile.strand_setStrand_ne _ _ (by rw [hck]; exact hj), h.strands j hj]
  · have e := h.me
    rw [State.modMe_eq, State.me_setTile, hck]
    simp only [Tile.strand, Tile.setStrand]
    rw [e]
    simp
  · intro r
    have e := h.regs r
    rw [State.reg_def] at e ⊢
    rw [State.modMe_eq, State.me_setTile]
    simpa [Tile.strand, Tile.setStrand] using e

/-- What a transfer does (01 R36, 02 R38, R42). -/
theorem goes_transfer {s : State} {i : Instr} {pc : Word} (f : Vector Word 16) (h : s.noPfx)
    (e : exec i s = transfer s pc (fun s => s.modMe (fun z => { z with regs := f }))) : Goes s i pc (fun r => f[r]) := by
  have hr (ln : Option HeldLine) : Retired (s.modMe (fun z => { z with stall := s.now + 3 }))
      (((s.modMe (fun z => { z with regs := f })).retireTo pc).modMe (fun z => { z with line := ln, stall := s.now + 3 }))
      pc s.me.sw ln (fun r => f[r]) := by
    have a := retired_regs (s.modMe (fun z => { z with stall := s.now + 3 })) pc f
    have b : swClearPP (s.modMe (fun z => { z with stall := s.now + 3 })).me.sw = s.me.sw := by
      simpa [Tile.strand, Tile.setStrand] using swClearPP_noPfx h
    rw [jump_eq, ← b]
    exact a.withLine ln
  constructor
  · intro hm
    have hp : pcOk pc = true := by
      unfold State.mayEnter at hm
      exact (Bool.and_eq_true_iff.mp hm).1
    have fails {x : Entry} (hx : s.my.enterAt pc = x) (hne : ∀ l, x ≠ .ok l) :
        s.lineAfter pc = none ∧ exec i s = .next ((((s.modMe (fun z => { z with regs := f })).retireTo pc).modMe
          (fun z => { z with line := none, stall := s.now + 3 })).entryFails pc false x) := by
      cases x with
      | ok l => exact absurd rfl (hne l)
      | _ => exact ⟨by simp only [State.lineAfter, hx], by rw [e]; unfold transfer; rw [hp, hx]; rfl⟩
    refine ⟨_, hr _, ?_, fun hx => ?_, fun w hx => ?_, fun hx => ?_⟩
    · intro hs
      unfold State.mayEnter at hm
      rw [e]
      unfold transfer
      cases hx : s.my.enterAt pc with
      | ok l =>
        rw [hp, hx] at hm
        have ht : lineTarget l.bits (field pc 0 3) = true := by simpa using hm
        simp only [hp, ht, State.lineAfter, hx, Bool.not_true, Bool.false_eq_true, if_false, if_true]
      | _ => simp [State.lineAfter, hx] at hs
    · obtain ⟨hl, he⟩ := fails hx (by simp)
      rw [he, hl]
      rfl
    · obtain ⟨hl, he⟩ := fails hx (by simp)
      rw [he, hl]
      rfl
    · obtain ⟨hl, he⟩ := fails hx (by simp)
      rw [hl]
      refine ⟨_, he, ?_, ?_, ?_⟩
      · exact congrArg Tile.chold (State.my_setTile _ _)
      · exact State.me_setTile _ _
      · rfl
  · intro hm
    rw [e]
    unfold transfer
    unfold State.mayEnter at hm
    cases hp : pcOk pc <;> simp [hp] at hm ⊢ <;> cases he : s.my.enterAt pc <;> simp_all [run]

/-! ## Traps -/

/-- What a trap of a strand does: a double trap in handler mode (R30), a trap that waits behind another handler or a halt (R28,
R366), or the entry to the handler (R28). -/
theorem takeTrapAt_cases (s : State) (t : TileId) (k : Fin 4) (r : TrapRec) :
    (swMode (s.strand t k).sw = true ∧ ((s.takeTrapAt t k r).strand t k).held = some .double)
    ∨ (swMode (s.strand t k).sw = false ∧ ((s.tile t).otherInHandler k || (s.tile t).halting s.now) = true
      ∧ ((s.takeTrapAt t k r).strand t k).pend = some r)
    ∨ (swMode (s.strand t k).sw = false ∧ ((s.tile t).otherInHandler k || (s.tile t).halting s.now) = false
      ∧ s.takeTrapAt t k r = s.setTile t ((s.tile t).enterHandler k r)) := by
  unfold State.takeTrapAt
  have e : (s.tile t).strand k = s.strand t k := rfl
  simp only [e]
  split
  · left
    rename_i h
    refine ⟨h, ?_⟩
    simp [State.strand, Tile.strand, Tile.setStrand]
  · rename_i h
    right
    split
    · left
      rename_i h2
      refine ⟨by simpa using h, h2, ?_⟩
      simp [State.strand, Tile.strand, Tile.setStrand]
    · right
      rename_i h2
      exact ⟨by simpa using h, by simpa using h2, rfl⟩

/-! ## Canonical memories under the shared operations -/

theorem Tile.memOk_enterHandler {x : Tile} (h : x.memOk) (k : Fin 4) (r : TrapRec) : (x.enterHandler k r).memOk := h

theorem State.memOk_of_eq {s t : State} (h : s.memOk) (e1 : t.hbm = s.hbm) (e2 : t.tiles = s.tiles)
    (e3 : t.launches = s.launches) : t.memOk := by
  unfold State.memOk; rw [e1, e2, e3]; exact h

theorem State.memOk_tell {s : State} (h : s.memOk) (n : Notice) : (s.tell n).memOk := h
theorem State.memOk_bump {s : State} (h : s.memOk) : s.bump.memOk := h
theorem State.memOk_modPart {s : State} (h : s.memOk) (p : Fin 24) (f : Part → Part) : (s.modPart p f).memOk := h
theorem State.memOk_modVdev {s : State} (h : s.memOk) (v : Fin 64) (f : Vdev → Vdev) : (s.modVdev v f).memOk := h

theorem State.memOk_modTile {s : State} (h : s.memOk) (t : TileId) {f : Tile → Tile} (hf : ∀ x : Tile, x.memOk → (f x).memOk) :
    (s.modTile t f).memOk := State.memOk_setTile h t (hf _ (State.memOk_tile h t))

theorem State.memOk_setStrand {s : State} (h : s.memOk) (t : TileId) (k : Fin 4) (r : Strand) : (s.setStrand t k r).memOk :=
  State.memOk_setTile h t (Tile.memOk_setStrand (State.memOk_tile h t) k r)

theorem State.memOk_modStrand {s : State} (h : s.memOk) (t : TileId) (k : Fin 4) (f : Strand → Strand) : (s.modStrand t k f).memOk :=
  State.memOk_setStrand h t k _

theorem State.memOk_takeTrapAt {s : State} (h : s.memOk) (t : TileId) (k : Fin 4) (r : TrapRec) : (s.takeTrapAt t k r).memOk := by
  have hx := State.memOk_tile h t
  unfold State.takeTrapAt
  dsimp only
  split
  · exact State.memOk_tell (State.memOk_setTile h t (Tile.memOk_setStrand hx _ _)) _
  · split
    · exact State.memOk_setTile h t (Tile.memOk_setStrand hx _ _)
    · exact State.memOk_setTile h t (Tile.memOk_enterHandler hx _ _)

theorem State.memOk_retireTo {s : State} (h : s.memOk) (pc : Word) : (s.retireTo pc).memOk :=
  State.memOk_setTile h _ (State.memOk_tile h _)

theorem State.memOk_block {s : State} (h : s.memOk) (w : WaitSpec) : (s.block w).memOk := by
  unfold State.block
  split <;> exact State.memOk_bump (State.memOk_modStrand h _ _ _)

theorem State.memOk_stopAt {s : State} (h : s.memOk) (t : TileId) (c : StopCause) : (s.stopAt t c).memOk := by
  unfold State.stopAt
  split
  · exact State.memOk_modPart h _ _
  · exact h

/-- An instruction keeps the memories canonical if its effect does. -/
theorem memOk_run {s t : State} (h : s.memOk) {c : Chk} {eff : State → State} (he : c = .ok → (eff s).memOk)
    (e : run s c eff = .next t) : t.memOk := by
  rcases run_cases s t c eff e with ⟨hc, rfl⟩ | ⟨-, rfl⟩ | ⟨_, _, -, rfl⟩ | ⟨_, -, rfl⟩ | ⟨_, -, rfl⟩
  · exact he hc
  · exact State.memOk_takeTrapAt h _ _ _
  · exact State.memOk_takeTrapAt h _ _ _
  · exact State.memOk_block h _
  · exact State.memOk_stopAt h _ _

end Machine
end Sys2Proof
end

