-- ==== Sys2Proof/Tests/Slice0.lean ====
section
/-! SUPPORT. Tests of the model: an ill-formed instruction for each check of WellFormed, words written out from the encodings of the
spec, and for the hypotheses of each statement a state and operands that meet them. -/

set_option Elab.async false

namespace Sys2Proof.Tests
open Sys2Proof Sys2Proof.Machine

/-! ## WellFormed refuses an ill-formed instruction, one for each check -/

/-- Prefix words (02 R52): a reserved bit, formats above 10, rounding code 6, NZ without M, and block scales without their bit. -/
theorem test_wf_pfx : WellFormed (.pfx 0x20000000#32) = false ∧ WellFormed (.pfx 0x0000000B#32) = false
    ∧ WellFormed (.pfx 0x000000B0#32) = false ∧ WellFormed (.pfx 0x00000B00#32) = false ∧ WellFormed (.pfx 0x00006000#32) = false
    ∧ WellFormed (.pfx 0x00400000#32) = false ∧ WellFormed (.pfx 0x00010000#32) = false ∧ WellFormed (.pfx 0x00000A9A#32) = true := by
  decide

/-- System and integer forms (04 R96 to R99, R119 to R121; 01 R23). -/
theorem test_wf_scalar : WellFormed (.rdcyc 3 (some 3)) = false ∧ WellFormed (.qget 1 2 false) = false ∧ WellFormed (.qput 3 1) = false
    ∧ WellFormed (.seq ⟨1, 2, .reg 3, .b64, true⟩) = false ∧ WellFormed (.bfx 1 2 (.imm 0x40) false) = false
    ∧ WellFormed (.bfi 1 2 (.imm 0x4000) 3) = false ∧ WellFormed (.li 1 0x10000 false true) = false ∧ WellFormed (.li 1 1 true true) = false
    ∧ WellFormed (.br .z 1 2 0) = false ∧ WellFormed (.ldp ⟨4, 1, .reg 2, 4, .data, .none⟩) = false := by decide

/-- Atomic and remote forms (08 R218, R222, 14 R352). -/
theorem test_wf_memory : WellFormed (.amo .add ⟨1, 2, .reg 3, 4, .b16, false, .none⟩) = false
    ∧ WellFormed (.amo .bfadd ⟨1, 2, .reg 3, 4, .b32, false, .none⟩) = false ∧ WellFormed (.cas ⟨1, 2, .reg 3, 4, .b8, false, .none⟩) = false
    ∧ WellFormed (.ldv ⟨1, 2, .reg 3, .b64, false, false, .vc5, .none⟩) = false
    ∧ WellFormed (.stv ⟨1, 2, .reg 3, .b64, false, .vc6, 0, .none⟩) = false
    ∧ WellFormed (.amog ⟨.add, 1, 2, .reg 3, 4, .b64, true, false, .vc0, 0, .none⟩) = false
    ∧ WellFormed (.amov ⟨.add, 1, 2, .reg 3, 4, .b64, false, false, .vc0, 1, .none⟩) = false
    ∧ WellFormed (.casg ⟨1, 2, .reg 3, 4, .b16, false, .vc0, .none⟩) = false
    ∧ WellFormed (.casv ⟨1, 2, .reg 3, 4, .b64, false, .vc7, .none⟩) = false
    ∧ WellFormed (.ldx ⟨1, 2, .reg 3, 4, .b64, .data, true, false, .vc0, .none⟩) = false
    ∧ WellFormed (.stx ⟨1, 2, .reg 3, 4, .b64, .act, false, .vc0, 1, .none⟩) = false := by decide

/-- Task and engine forms (07 R188 to R195, 05 R122, R152, R154, 10 R254, R260, R270; 02 R57). -/
theorem test_wf_engines : WellFormed (.send ⟨1, 2, 3, 0, 0, false, false, 0, .none⟩) = false
    ∧ WellFormed (.send ⟨1, 2, 0, 1, 0, false, true, 0, .none⟩) = false ∧ WellFormed (.spawn ⟨1, 2, 3, 0, 0x0008#16, 0, false, false, 0, .none⟩) = false
    ∧ WellFormed (.arm 1 0 0x0005#16) = false ∧ WellFormed (.vbcast ⟨1, 2, ⟨false, 0#16⟩⟩ true) = false
    ∧ WellFormed (.vsamp 1 2 3 0x7F800000#32 ⟨false, 0#16⟩) = false ∧ WellFormed (.vtopk 1 2 3 257#16 ⟨false, 0#16⟩) = false
    ∧ WellFormed (.mdrainRem ⟨1, 0, false, false, false, true, 0, 0#18, 0, ⟨false, 0#16⟩⟩) = false
    ∧ WellFormed (.cpy ⟨1, 2, 0, ⟨false, 0#16⟩⟩) = false ∧ WellFormed (.cpyf ⟨1, 2, 0, ⟨false, 0#16⟩⟩ true) = false
    ∧ WellFormed (.epref 1 0#21 ⟨false, 0#16⟩) = false ∧ WellFormed (.unassignedOpcode 0#96) = false := by decide

/-! ## Words written out from the encodings (02 R46 to R57) -/

/-- Scalar, memory and ordering forms. -/
theorem test_decode_scalar : decodeSlot 0x1000_3120_0300_0000_0000_0000#96 = some (.add ⟨3, 1, .reg 2, .b64, false⟩)
    ∧ decodeSlot 0x3000_3120_0200_0000_0000_0000#96 = some (.fadd ⟨3, 1, .reg 2, false⟩)
    ∧ decodeSlot 0x2B00_5000_0300_0000_0000_0001#96 = some (.widx 5 1)
    ∧ decodeSlot 0x4002_0340_0300_0000_0000_0182#96 = some (.br .lt 3 4 0x182#48)
    ∧ decodeSlot 0x5000_4D00_8300_0000_0000_0010#96 = some (.ld ⟨4, 13, .imm 0x10#48, .b64, .data, .none⟩ false)
    ∧ decodeSlot 0x6100_5400_8B00_0000_0000_0000#96 = some (.stg ⟨5, 4, .imm 0#48, .b64, false, .vc0, 2, .none⟩)
    ∧ decodeSlot 0x6800_7504_8300_0000_0000_0040#96 = some (.ldx ⟨7, 5, .imm 0x40#48, 4, .b64, .data, false, false, .vc0, .none⟩)
    ∧ decodeSlot 0x7000_0000_0000_0000_0000_0004#96 = some (.fence 4#8 .none)
    ∧ decodeSlot 0x7900_890A_8300_0000_0000_0180#96 = some (.wait ⟨.eq, 8, 9, .imm 0x180#48, 10, .b64, .data, .none⟩)
    ∧ decodeSlot 0x0100_0000_0000_0000_0000_0100#96 = some (.pfx 0x100#32) := by decide +kernel

/-- Task, context, engine and network forms, and the hart's word (12 R305). -/
theorem test_decode_engines : decodeSlot 0x7A00_5000_0001_0000_0000_0000#96 = some (.yieldQ 5)
    ∧ decodeSlot 0x7B00_0450_0003_0000_0000_0002#96 = some (.phintSet 4 5 .act 2)
    ∧ decodeSlot 0x8000_0456_0401_0000_0000_0201#96 = some (.send ⟨4, 5, 6, 1, 2, true, false, 1, .none⟩)
    ∧ decodeSlot 0x8700_5400_0000_0000_0000_0000#96 = some (.launch 5 4)
    ∧ decodeSlot 0x9000_4000_0000_0000_0000_0000#96 = some (.taga 4)
    ∧ decodeSlot 0x9500_0000_0001_0000_0000_0002#96 = some (.vswLat 2)
    ∧ decodeSlot 0xBF00_6450_0043_0007_0000_0000#96 = some (.vscan .add ⟨6, 4, ⟨true, 7#16⟩⟩ (some 5) true)
    ∧ decodeSlot 0xC800_0000_0001_0000_0000_0000#96 = some (.mcfg true false ⟨false, 0#16⟩)
    ∧ decodeSlot 0xCB00_0450_0002_0000_0000_0000#96 = some (.mmulRs 4 5 ⟨false, 0#16⟩)
    ∧ decodeSlot 0xCC00_0000_0042_0004_0000_0003#96 = some (.mdrainTree 3#8 false ⟨true, 4#16⟩)
    ∧ decodeSlot 0xD000_0400_0440_0005_0000_0000#96 = some (.cpy ⟨4, 0, 1, ⟨true, 5#16⟩⟩)
    ∧ decodeSlot 0xE500_0400_0040_0009_0000_0002#96 = some (.rtre .add 4 2#8 ⟨true, 9#16⟩)
    ∧ decodeSlot 0xE600_7600_0000_0000_0000_0002#96 = some (.rwait 7 6 2#8)
    ∧ decodeHart 0x0005_850B#32 = some (.lnch 11 10) := by decide +kernel

/-! ## States that the hypotheses of the statements hold in -/

/-- A machine whose partition 0 is assigned to device 0 and held by launch 1, which runs on tile 0. -/
def base (x : Tile) (l : Launch → Launch := id) : State :=
  { tiles := [(0, x)]
    parts := (Vector.replicate 24 {}).set 0 { st := .assigned, en := true, cur := some 1, stk := 0xFFFFFF#24 }
    vdevs := (Vector.replicate 64 {}).set 0 { sv57 := true, part := 0, en := true, dla := true, wgt := 1, pcmax := 3 }
    launches := [l { id := 1, vdev := 0, seq := 1, gen := 0#16, hdr := {}, st := .running, placed := [0] }]
    boot := { phase := 7 } }

/-- A strand with some registers and status bits. -/
def str (rs : List (Reg × Word)) (sw : Word := 0#64) : Strand :=
  { live := true, sw := sw, regs := rs.foldl (fun v r => v.set r.1 r.2) (Vector.replicate 16 0#64) }

/-- That strand in slot 0 of tile 0, whose instruction is executed. -/
def one (rs : List (Reg × Word)) (sw : Word := 0#64) (x : Tile := {}) : State := base (x.setStrand 0 (str rs sw))

/-- SW in handler mode. -/
def hm : Word := 0x40000000#64
/-- SW with a prefix waiting. -/
def pp : Word := 0x80000000#64

/-- The memories of a machine with one tile without bytes are canonical. -/
theorem base_memOk (x : Tile) (l : Launch → Launch) (h : x.memOk) (hl : ∀ z, (l z).saved = z.saved) : (base x l).memOk := by
  refine ⟨rfl, ?_, ?_⟩
  · intro e he; simp [base] at he; subst he; exact h
  · intro z hz y hy; simp [base] at hz; subst hz; simp [hl] at hy

/-- What an access needs so that its strand sends it now. -/
theorem sends_of {s : State} {a : RAcc} (h : s.me.wait = none ∧ swPP s.me.sw = false ∧ s.addrChk a = .ok ∧ s.wChk a.wc = .ok
    ∧ s.relChk a.rel = .ok ∧ (a.post = true → s.limitChk = .ok) ∧ (a.post = false → s.ownWriteChk a.virt a.addr a.op.size = .ok)) :
    Sends s a :=
  ⟨fun w hw => (by rw [h.1] at hw; exact nomatch hw), h.2.1, h.2.2.1, h.2.2.2.1, h.2.2.2.2.1, h.2.2.2.2.2.1, h.2.2.2.2.2.2⟩

/-! ## Encoding and steps -/

/-- O1, O2, O4: encodings, an unassigned opcode, a strand whose trap enters the handler, and a slot that no encoding has (02 R57). -/
theorem wit_encoding : (∃ x, WellFormed (.add ⟨3, 1, .reg 2, .b64, false⟩) = true ∧ encodeSlot (.add ⟨3, 1, .reg 2, .b64, false⟩) = some x)
    ∧ (decodeSlot 0x1000_3120_0300_0000_0000_0000#96).isSome = true ∧ (decodeHart 0x0005_850B#32).isSome = true
    ∧ opcUnassigned ((0x0A00_0000_0000_0000_0000_0000#96).extractLsb' 88 8) = true
    ∧ swMode (one []).me.sw = false ∧ (one []).my.otherInHandler (one []).ck = false ∧ (one []).my.halting (one []).now = false
    ∧ (one []).cur = (0, 0) ∧ decodeSlot (lineSlot (0x1_0000_0000#512) (field (one []).me.pc 0 3)) = none := by
  refine ⟨⟨_, by decide +kernel, rfl⟩, ?_⟩
  decide +kernel

/-- The agenda names the mover. -/
def turn (s : State) (m : Mover) : State := { s with agenda := [⟨0, m⟩] }

/-- Hart 0 in M-mode at a word of memory that is an LNCH. -/
def atLnch : State := { base {} with hartsOn := true, hbm := mwrite [] 0 (leBytes 4 0x0005_850B) }

/-- O5: a strand with its line held, one that enters it, a unit step, a hart's word, and a stop that is due. -/
theorem wit_steps :
    (let s := turn (base (({} : Tile).setStrand 0 { str [] with line := some ⟨0, 0#512⟩ })) (.strand 0 0);
      let c := s.begin.issuing 0 0 (lineSlot 0#512 0);
      s.dueStop = none ∧ s.pick.who = some (.strand 0 0) ∧ s.begin.noIssue = false ∧ s.begin.inTurn 0 0 = true ∧ s.pick.due = false
      ∧ s.begin.stalls 0 0 .nop = false ∧ c.afterArrival 0 .nop = false ∧ s.begin.ready 0 0 = true ∧ (s.begin.strand 0 0).late = none
      ∧ (s.begin.strand 0 0).line = some ⟨0, 0#512⟩
      ∧ lineOf (s.begin.strand 0 0).pc = 0 ∧ pcOk (s.begin.strand 0 0).pc = true ∧ decodeSlot (lineSlot 0#512 0) = some .nop)
    ∧ (let s := turn (one []) (.strand 0 0);
      s.dueStop = none ∧ s.begin.ready 0 0 = true ∧ (s.begin.strand 0 0).line = none ∧ s.begin.inTurn 0 0 = true
      ∧ ((s.begin.entered 0 0 ⟨0, 0#512⟩).issuing 0 0 0#96).afterArrival 0 .nop = false
      ∧ (match (s.begin.tile 0).enterAt (s.begin.strand 0 0).pc with | .ok l => l == ⟨0, 0#512⟩ | _ => false) = true)
    ∧ (let s := turn (base {}) (.event (.quiescenceDetected 0));
      s.dueStop = none ∧ s.pick.who = some (.event (.quiescenceDetected 0)) ∧ isUnitStep (.quiescenceDetected 0) = true
      ∧ s.begin.power.on = true ∧ s.begin.inReset = false ∧ s.begin.boot.stopped = false
      ∧ s.begin.putOff (.quiescenceDetected 0) s.pick.due = false ∧ s.power.on = true ∧ s.power.hold = false ∧ s.power.holdV = false
      ∧ s.asleep = false ∧ s.overdue = none ∧ s.dogDue = none ∧ (∀ v : Fin 64, (s.keys[v]).pend = none)
      ∧ s.power.periodAt = 0 ∧ s.meters.addedAt = 0)
    ∧ (let s := turn atLnch (.hart 0);
      let b := s.begin.ofHart 0;
      s.dueStop = none ∧ s.begin.hartsOn = true ∧ b.boot.noIsland = [] ∧ (match b.hartAcc b.hart b.hart.pc .fetch 4 with | .ok pa => pa == 0 | _ => false) = true
      ∧ isCustom0 (BitVec.ofNat 32 (mval b.hbm 0 4)) = true ∧ (decodeHart (BitVec.ofNat 32 (mval b.hbm 0 4))).isSome = true)
    ∧ (let b := (turn { atLnch with hbm := mwrite [] 0 (leBytes 4 0x00000013) } (.hart 0)).begin.ofHart 0;
      let w := BitVec.ofNat 32 (mval b.hbm 0 4);
      isCustom0 w = false ∧ (b.hartBase w).isSome = true)
    ∧ ((base {}).modPart 0 (fun q => { q with stopDue := some ⟨0x10, 0#64, 0#64, 0, 0⟩ })).dueStop
      = some (0, ⟨0x10, 0#64, 0#64, 0, 0⟩) := by decide +kernel

/-- Naming the mover changes no memory. -/
theorem memOk_turn {s : State} (h : s.memOk) (m : Mover) : (turn s m).memOk := h

/-- Is it a next state? -/
def goesOn : Host.Outcome State Fault Refusal → Bool
  | .next _ => true
  | _ => false

/-- O7: a canonical state from which a step answers. -/
theorem wit_step_next : (turn (base {}) (.strand 0 0)).memOk ∧ goesOn (step (turn (base {}) (.strand 0 0))) = true :=
  ⟨memOk_turn (base_memOk {} id ⟨rfl, rfl, rfl, rfl, rfl⟩ (fun _ => rfl)) _, by decide +kernel⟩

/-! ## Scalar instructions -/

/-- O9 to O15: no prefix waits; a division by zero and one that is none; a partition, no partition, and coordinates inside and outside it;
formats under a prefix that fits; operands that are NaN, quiet and signalling. -/
theorem wit_scalar : swPP (one []).me.sw = false ∧ narrow .b32 ((one [(1, 0x100000000#64)]).reg 1) = 0
    ∧ narrow .b32 ((one [(1, 5#64)]).reg 1) ≠ 0
    ∧ (one []).partOf (one []).ct = some 0 ∧ ({} : State).partOf 0 = none
    ∧ (((one []).parts[(0 : Fin 24)]).height ≤ (59#8).toNat) = false ∧ ((one []).parts[(0 : Fin 24)]).height ≤ (60#8).toNat
    ∧ (6 ≤ (0x2B00_5000_0300_0000_0000_0006#96).toNat % 8)
    ∧ (one []).fpPfxOk 0 0 0 true = true ∧ (one []).fpPfxOk 10 10 10 true = true ∧ (one []).fpPfxOk 0 0 0 false = true
    ∧ (one []).fpPfxOk 10 10 10 false = true
    ∧ (let k := cvtFormats .ff true; (one []).fpPfxOk k.2.2.1 0 k.2.2.2 true = true)
    ∧ swDRM (one []).me.sw = 0 ∧ (one [(1, 0x7FC00000#64)]).fpA ⟨3, 1, .reg 2, false⟩ = .nan false
    ∧ (one [(2, 0x7F800001#64)]).fpB ⟨3, 1, .reg 2, false⟩ = .nan true := by decide +kernel

/-- O17, O18: a prefix that waits; control words readable and privileged, and indices without one; writes that pass and those that
are privileged in task mode. -/
theorem wit_system : swPP (one [] pp).me.sw = true ∧ (one [] pp).me.wait = none ∧ takesPrefix (.pfx 0#32) = false
    ∧ (encodeFields (.pfx 0#32)).isSome = true
    ∧ cwRights 0x000 = some (true, true, true) ∧ (cwRights 0x101).map (·.1) = some false ∧ cwRights 0xFFF = none
    ∧ swMode (one []).me.sw = false ∧ swMode (one [] hm).me.sw = true ∧ (one []).wrwChk 0x000 0#64 = .ok
    ∧ (one [] hm).wrwChk 0x101 0xFFFF#64 = .ok ∧ (one [] hm).wrwChk 0x121 0#64 = .ok
    ∧ (cwRights 0x101).map (fun x => if swMode (one []).me.sw then x.2.2 else x.2.1) = some false := by decide +kernel

/-- O19 to O21: a trap that enters, one behind another strand's handler, one on a halted tile, and one of the handler; TRET. -/
theorem wit_traps : (one []).entersHandler 0 0
    ∧ (let s := base ((({} : Tile).setStrand 0 (str [])).setStrand 1 (str [] hm));
      swMode (s.strand 0 0).sw = false ∧ (s.tile 0).otherInHandler 0 = true)
    ∧ ((one [] 0#64 { halted := true }).tile 0).halted = true
    ∧ swMode ((one [] hm).strand 0 0).sw = true ∧ swPP (one [] hm).me.sw = false ∧ (one [] hm).me.pend = none
    ∧ (∀ j, j ≠ (one [] hm).ck → ((one [] hm).my.strand j).pend = none) := by
  unfold State.entersHandler
  decide +kernel

/-- O22, O23: a queue with a token, without one, and one that takes a raw operand; conditions, and targets that may and may not be
entered; LOOP at 1 and above. -/
theorem wit_control : (one [] 0#64 { tokq := (Vector.replicate 4 []).set 1 [7#16] }).my.tokq[(1 : Fin 4)][0]? = some 7#16
    ∧ ((one []).my.tokq[(1 : Fin 4)]).length ≤ (one []).rank (.qget 3)
    ∧ (one [] 0#64 { hold := (Vector.replicate 4 none).set 1 (some 0) }).pushChk 1 false true true = .ok
    ∧ ((one [] 0#64 { hold := (Vector.replicate 4 none).set 1 (some 2) }).my.hold[(1 : Fin 4)] = some 2 ∧ (one []).ck = 0)
    ∧ (let s := one [] 0#64 { hold := (Vector.replicate 4 none).set 1 (some 0)
                              cmdq := (Vector.replicate 4 []).set 1 (List.replicate 64 (.raw 0#64)) };
      s.my.hold[(1 : Fin 4)] = some s.ck ∧ queueDepth (2 * 1) ≤ (s.my.cmdq[(1 : Fin 4)]).length
      ∧ ({ s with cur := (0, 1) } : State).cmdRank 1 = 0)
    ∧ (one []).mayEnter 8#64 = false ∧ (one []).mayEnter 0x10000#64 = true ∧ (one []).reg 1 ≠ 1#64 ∧ (one [(1, 1#64)]).reg 1 = 1#64 := by
  decide +kernel

/-! ## Memory, ordering and blanks -/

/-- The window table of a launch with one type 2 window, in ACT, with a pool of two granules. -/
def win2 : WinEnt := { type := 2, home := 0, spc := 3, wkey := 0#32, base := 0#64, len := 128, psb := 0x1000#64, wr := true, plv := 2#16,
                       row0 := 0, row1 := 59, col0 := 0, col1 := 31 }

/-- O24 to O26: each check of a local access that fails, the last one first value past the bounds; and accesses that pass. -/
theorem wit_local :
    ((one []).localChk ⟨.data, 0xFFF9#64, 8, 8, false, 0#16⟩ = .trap .localBounds (spcTval 1 0xFFF9))
    ∧ ((one []).localChk ⟨.ctl, 0#64, 8, 8, true, 0#16⟩ = .trap .localRights (spcTval (spcCode .ctl) 0))
    ∧ ((base {} (fun l => { l with wins := [win2] })).localChk ⟨.act, 0x1000#64, 8, 8, false, 0#16⟩ = .trap .localRights (spcTval 3 0x1000))
    ∧ ((one []).localChk ⟨.data, 1#64, 8, 8, false, 0#16⟩ = .trap .misaligned (spcTval 1 1))
    ∧ ((one [] 0#64 { locks := (Vector.replicate 16 none).set 0 (some ⟨1, 3, true, .data, 0, 7⟩) }).localChk ⟨.data, 0#64, 8, 8, false, 0#16⟩
      = .trap .rangeLock (spcTval 1 0))
    ∧ ((one []).localChk ⟨.data, 0xFFF8#64, 8, 8, false, 0#16⟩ = .ok) ∧ (one []).my.poison = []
    ∧ swPP (one []).me.sw = false ∧ (one []).wChk .none = .ok
    ∧ ((one []).localChk ⟨.ctl, 0xA20#64, 8, 8, false, 0#16⟩ = .ok)
    ∧ ((one []).localChk ⟨.data, 0#64, 8, 8, true, 0#16⟩ = .ok) ∧ ((one []).poolChk ⟨.data, 0#64, 8, 8, true, 0#16⟩ = .ok)
    ∧ ((one []).localChk ⟨.data, 0xFFF0#64, 16, 16, true, 0#16⟩ = .ok) := by decide +kernel

/-- A global address of tile 0: row, column, space, offset. -/
def g0 (sp o : Nat) : Word := gaddr 0 0 sp o

/-- O27: an address with a wrong space, one outside the partition, a misaligned one, one past the bounds, and one that passes; virtual
addresses that pass and that do not. -/
theorem wit_addresses : (one []).globalChk (g0 0 0) 8 = .trap .remoteRefused (g0 0 0)
    ∧ (one []).globalChk (gaddr 60 0 1 0) 8 = .trap .remoteRefused (gaddr 60 0 1 0)
    ∧ (one []).globalChk (g0 1 4) 8 = .trap .misaligned (spcTval 1 4)
    ∧ (one []).globalChk (g0 1 0x10000) 8 = .trap .remoteRefused (g0 1 0x10000)
    ∧ (one []).globalChk (g0 1 0xFFF8) 8 = .ok ∧ (one []).virtualChk 0x1000#64 8 = .ok
    ∧ (one []).virtualChk 0x8000000000000000#64 8 = .trap .virtualRefused 0x8000000000000000#64 := by decide +kernel

/-- The accesses that the remote witnesses send: to DATA of tile 0, and to virtual memory; register 4 holds the one address and
register 5 the other. -/
def rs : State := one [(4, g0 1 0x100), (5, 0x1000#64)]

/-- O28, O29, O31: each form sends now, and its operands are as its clause asks. -/
theorem wit_remote : Sends rs (loadAcc rs ⟨1, 4, .imm 0#48, .b64, true, false, .vc0, .none⟩ false)
    ∧ Sends rs (loadAcc rs ⟨1, 5, .imm 0#48, .b64, true, false, .vc0, .none⟩ true)
    ∧ Sends rs (casAcc rs ⟨1, 4, .imm 0#48, 2, .b64, false, .vc0, .none⟩ false)
    ∧ Sends rs (casAcc rs ⟨1, 5, .imm 0#48, 2, .b64, false, .vc0, .none⟩ true)
    ∧ Sends rs (atomicAcc rs ⟨.add, 1, 4, .imm 0#48, 2, .b64, false, false, .vc0, 0, .none⟩ false)
    ∧ Sends rs (atomicAcc rs ⟨.add, 1, 5, .imm 0#48, 2, .b64, false, false, .vc0, 0, .none⟩ true)
    ∧ Sends rs (storeAcc rs ⟨1, 4, .imm 0#48, .b64, false, .vc0, 7, .none⟩ false)
    ∧ Sends rs (storeAcc rs ⟨1, 5, .imm 0#48, .b64, false, .vc0, 7, .none⟩ true)
    ∧ Sends rs (atomicAcc rs ⟨.add, 0, 4, .imm 0#48, 2, .b64, true, false, .vc0, 7, .none⟩ false)
    ∧ Sends rs (atomicAcc rs ⟨.add, 0, 5, .imm 0#48, 2, .b64, true, false, .vc0, 7, .none⟩ true)
    ∧ Sends rs { loadAcc rs ⟨1, 4, .imm 0#48, .b64, false, false, .vc0, .none⟩ false with tag := 0#16 }
    ∧ Sends rs { storeAcc rs ⟨1, 5, .imm 0#48, .b64, false, .vc0, 0, .none⟩ true with tag := 0#16 } := by
  and_intros <;> exact sends_of (by decide +kernel)

/-- An ACQ, and a REL with its gate free of earlier accesses. -/
theorem wit_gates :
    (let q : AcqArgs := ⟨.ge, 1, 4, .imm 0#48, 2, false, .tile, .none⟩;
      Sends rs { virt := q.v, addr := rs.reg q.a + rs.src q.b, op := .acq q.kind (rs.reg q.c), vc := .vc0, wc := q.wc, post := false
                 rel := false, col := 0, acq := q.sc != .tile, d := q.d, tag := rs.me.ctx })
    ∧ (let r : RelArgs := ⟨true, 4, .imm 0#48, 2, false, .tile, 3, .none⟩;
      Sends rs { virt := r.v, addr := rs.reg r.a + rs.src r.b, op := .rel r.add (rs.reg r.c), vc := .vc0, wc := r.wc, post := true
                 rel := false, col := r.col, acq := false, d := 0, tag := rs.me.ctx }
      ∧ rs.gateChk (rs.reg r.a + rs.src r.b) r.v (r.sc == .sys) = .ok)
    ∧ rs.my.cnt 0 = 0 ∧ (one [] 0#64 { posted := [⟨1, 2, .tile, 0, 0, true, [], false, none, [0]⟩] }).my.cnt 0 ≠ 0 := by
  refine ⟨sends_of (by decide +kernel), ⟨sends_of (by decide +kernel), by decide +kernel⟩, by decide +kernel, by decide +kernel⟩

/-- A tile with one posted access under colour 2, to a tile. -/
def posted1 : State := one [(1, 1#64)] 0#64 { posted := [⟨1, 2, .tile, 0, 0, true, [], false, none, []⟩] }

/-- O31: an access open under colour 2 and in the class of tiles, none under the others; a word whose condition holds and one whose does
not. -/
theorem wit_fences : posted1.my.posted.any (fun q => (4#8).getLsbD q.col.val && posted1.cover.contains q.id) = true
    ∧ posted1.my.posted.any (fun q => (0xFB#8).getLsbD q.col.val && posted1.cover.contains q.id) = false
    ∧ posted1.my.posted.any (fun q => (match q.cls with | .tile => (1#3).getLsbD 0 | .edge => (1#3).getLsbD 1 | .net => (1#3).getLsbD 2)
        && posted1.cover.contains q.id) = true
    ∧ posted1.wChk .none = .ok ∧ swPP posted1.me.sw = false
    ∧ (let a := posted1.lacc .data 0 (.imm 0#48) 8 false;
      posted1.localChk a = .ok ∧ posted1.lval a = 0 ∧ (posted1.reg 1).toNat % 2 ^ wBits .b64 = 1) := by decide +kernel

/-- O31: a REL whose gate a posted access is bound to, and one that waits for every class. -/
theorem wit_rel_waits :
    (let s := one [(4, g0 1 0x100)] 0#64 { posted := [⟨1, 2, .tile, 0, 0, true, [], false, none, [3]⟩]
                                           binds := (Vector.replicate 8 ({} : Binding)).set 3 ({ gate := g0 1 0x100, rlen := 64, gv := false } : Binding) };
      s.my.posted.any (fun q => s.cover.contains q.id && q.binds.contains 3) = true
      ∧ (s.my.binds[(3 : Fin 8)]).rlen ≠ 0 ∧ (s.my.binds[(3 : Fin 8)]).gate = s.reg 4 + s.src (.imm 0#48) ∧ (s.my.binds[(3 : Fin 8)]).gv = false
      ∧ swPP s.me.sw = false ∧ s.limitChk = .ok ∧ s.wChk .none = .ok
      ∧ s.addrChk { virt := false, addr := s.reg 4, op := .rel true 0#64, vc := .vc0, wc := .none, post := true, rel := false, col := 3
                    acq := false, d := 0, tag := 0#16 } = .ok)
    ∧ posted1.my.posted.any (fun q => posted1.cover.contains q.id) = true := by decide +kernel

/-- A request with its phase. -/
def req (virt : Bool) (addr : Word) (op : ReqOp) (post : Bool) (ph : ReqPhase) : Req :=
  { id := 5, tile := 0, slot := 0, uid := 0, op := op, virt := virt, addr := addr, tag := 0#16, ver := none, vc := .vc0, post := post
    acq := false, d := 1, drain := none, phase := ph }

/-- Tile 0 with its strand waiting for request 5, which is `r`. -/
def asks (r : Req) : State :=
  { base (({} : Tile).setStrand 0 { str [] with wait := some { (default : WaitRec) with kind := .reply, req := some 5 } }) with plane := [r] }

/-- O30: a reply that a strand awaits, an acknowledgement, a refusal, a resend that is due, a request behind a lock that has ended and one
that no window accepts, and virtual requests with and without a place to go. -/
theorem wit_requests :
    (let s := asks (req false (g0 1 0) (.load 8 false) false (.done 7#64 0#5));
      s.req 5 = some (req false (g0 1 0) (.load 8 false) false (.done 7#64 0#5))
      ∧ s.awaits (req false (g0 1 0) (.load 8 false) false (.done 7#64 0#5)) = true ∧ s.drainingAt 0 = false)
    ∧ (let r := req false (g0 1 0) (.load 8 false) false (.refused .remoteRefused 9#64);
      (asks r).awaits r = true ∧ ({ asks r with tiles := [(0, {})] } : State).awaits r = false)
    ∧ (let r := req false (g0 1 0) (.store [1#8]) true (.refused .remoteRefused 9#64);
      let s := asks r;
      s.req 5 = some r ∧ (s.strand 0 0).live = true ∧ (s.strand 0 0).uid = r.uid ∧ swMode (s.strand 0 0).sw = false
      ∧ (s.strand 0 0).pend = none ∧ (s.strand 0 0).late = none ∧ (s.strand 0 0).held = none ∧ s.drainingAt 0 = false
      ∧ (({ s with tiles := [(0, {})] } : State).strand 0 0).live = false)
    ∧ (asks (req false (g0 1 0) (.store [1#8]) true (.done 0#64 0#5))).req 5 = some (req false (g0 1 0) (.store [1#8]) true (.done 0#64 0#5))
    ∧ (asks (req false (g0 1 0) (.load 8 false) false (.resend 0))).now = 0
    ∧ (let r := req false (g0 1 0) (.load 8 false) false .locked;
      let s := asks r;
      s.ownChip (gChip r.addr) = true ∧ gTile r.addr = r.tile ∧ r.drain = none
      ∧ (match s.atTile r with | .done _ v f => v == 0#64 && f == 0#5 | _ => false) = true)
    ∧ (let r := req false (gaddr 0 1 1 0) (.load 8 false) false .locked;
      let s := asks r;
      s.ownChip (gChip r.addr) = true ∧ gTile r.addr ≠ r.tile
      ∧ (s.tile (gTile r.addr)).accepts r.op.akind (gSpc r.addr) (gOfs r.addr) r.op.size (rowOf r.tile) (colOf r.tile) = false)
    ∧ (let r := { req false (g0 1 0) (.load 8 false) false .locked with from_ := some 5 };
      let s := asks r;
      s.req 5 = some r ∧ (s.tile (gTile r.addr)).acceptsFrom 5 r.op.akind (gSpc r.addr) (gOfs r.addr) r.op.size (rowOf r.tile) (colOf r.tile) = false)
    ∧ (asks { req false (g0 1 0) (.load 8 false) false (.done 7#64 0#5) with from_ := some 5 }).req 5
      = some { req false (g0 1 0) (.load 8 false) false (.done 7#64 0#5) with from_ := some 5 }
    ∧ (let r := { req true 0#64 (.load 8 false) false .again with tile := 61 * 256 };
      (asks r).virtAcc r = none) := by decide +kernel

/-- A home at which virtual page 0 lies at 0x2000000 of HBM: one leaf page of 4 KiB under five levels. -/
def mapped : State :=
  let pte (n : Nat) : List Byte := leBytes 8 (n * 2 ^ 10 + 1)
  let leaf : List Byte := leBytes 8 (0x2000 * 2 ^ 10 + 0xDF)
  let r := req true 0#64 (.load 8 false) false .again
  { asks r with
    vdevs := (asks r).vdevs.set 0 { (asks r).vdevs[(0 : Fin 64)] with ppn := 0x1000#44 }
    hbm := mwrite (mwrite (mwrite (mwrite (mwrite [] 0x1000000 (pte 0x1001)) 0x1001000 (pte 0x1002)) 0x1002000 (pte 0x1003)) 0x1003000
      (pte 0x1004)) 0x1004000 leaf }

/-- O30: its address is located. -/
theorem wit_virtual : (match mapped.virtAcc (req true 0#64 (.load 8 false) false .again) with
    | some a => (match mapped.reach a with | .pa pa _ => pa == 0x2000000 | _ => false)
    | none => false) = true ∧ mapped.power.hotStacks = [] := by decide +kernel

/-- O32, O33: blanks in the states that the clauses name, ranges at the end of a space, and the references to them. -/
theorem wit_blanks :
    (one []).my.blanks[(0 : Fin 64)].st = .empty ∧ (one []).my.blanks[(0 : Fin 64)].hold = 0 ∧ (one []).my.blanks[(0 : Fin 64)].dfn = false
    ∧ (one [(1, 0x7FFC0#64), (2, 64#64)]).reg 1 = 0x7FFC0#64 ∧ 0x7FFC0 + 64 ≤ spcSize (blankSpc .act)
    ∧ (let s := one [] 0#64 { blanks := (((Vector.replicate 64 ({} : Blank)).set 1 ({ st := .filling, hold := 6, dfn := true } : Blank)).set 2
          ({ st := .ready, dfn := true } : Blank)).set 3 ({ err := true, dfn := true } : Blank) };
      s.my.blanks[(1 : Fin 64)].st = .filling ∧ s.my.blanks[(1 : Fin 64)].hold = 6 ∧ s.my.blanks[(1 : Fin 64)].dfn = true
      ∧ s.my.blanks[(2 : Fin 64)].st = .ready ∧ s.my.blanks[(3 : Fin 64)].err = true ∧ s.my.blanks[(3 : Fin 64)].st = .empty
      ∧ s.blankNo (.imm 2) = 2) ∧ swPP (one []).me.sw = false
    ∧ (one [(1, 63#64), (2, 64#64), (3, 0x80000#64), (4, 1#64)]).blankNo (.reg 1) = 63 ∧ 64 ≤ ((one [(2, 64#64)]).reg 2).toNat
    ∧ ((one [(4, 1#64)]).reg 4).toNat % 64 ≠ 0 ∧ spcSize (blankSpc .act) < ((one [(3, 0x80000#64)]).reg 3).toNat + 64 := by
  decide +kernel

/-! ## Tasks, launches, tags and versions -/

/-- Doublewords as bytes. -/
def dws (l : List Word) : List Byte := l.flatMap (fun w => leBytes 8 w.toNat)

/-- A tile whose DATA holds doublewords from a byte on. -/
def withData (o : Nat) (l : List Word) (x : Tile := {}) : Tile :=
  { x with data := ((dws l).zipIdx o).filterMap (fun p => if p.1 = 0#8 then none else some (p.2, p.1)) }

/-- A launch with one stage queue of depth 4. -/
def queued1 (l : Launch) : Launch := { l with
  queues := [[]], hdr := { l.hdr with wcnt := 1, eq := 0 }, fp := { l.fp with queues := [⟨3, 0, 4⟩] } }

/-- Tile 0 after the slice-end signal. -/
def ending : Tile := { sliceEnd := some 0 }

/-- O34: YIELD before and after the slice end, in both modes; PHINT at the end of DATA and misaligned. -/
theorem wit_preemption : (one []).my.sliceEnd = none ∧ (one [] 0#64 ending).my.sliceEnd.isSome = true
    ∧ swMode (one [] 0#64 ending).me.sw = false ∧ swMode (one [] hm ending).me.sw = true ∧ swPP (one [] hm ending).me.sw = false
    ∧ ((one [(1, 0xFFC0#64), (2, 64#64)]).reg 1).toNat + 64 ≤ spcSize (hintSpc .data) ∧ 0xFFC1 % 64 ≠ 0
    ∧ spcSize (hintSpc .data) < ((one [(1, 0xFFC0#64), (2, 128#64)]).reg 1).toNat + ((one [(1, 0xFFC0#64), (2, 128#64)]).reg 2).toNat
    ∧ 0xFFC0 % 64 = 0 ∧ 128 % 64 = 0 := by decide +kernel

/-- O35: SEND to a tile and to a stage queue, SPAWN and STEAL with and without what they reserve, and LAUNCH with and without room. -/
theorem wit_tasks : (one []).payChk ((one []).reg 3) 0 = .ok ∧ (one []).destChk 0#64 true 15 = .ok ∧ (one []).wChk .none = .ok
    ∧ (one []).iface (one []).ct < 16
    ∧ (one []).payChk 0xFFF8#64 2 = .trap .localBounds (spcTval 1 0xFFF8) ∧ (one []).payChk 0xFFF8#64 1 = .ok
    ∧ (one []).payChk 4#64 1 = .trap .misaligned (spcTval 1 4) ∧ (one []).inPool 0 .data 4 8 = false
    ∧ (one []).partOf (one []).ct = some 0 ∧ ((one []).parts[(0 : Fin 24)]).covers (tileAt (field 0x3C00#64 8 8) (field 0x3C00#64 0 8)) = false
    ∧ (base (({} : Tile).setStrand 0 (str [])) queued1).queueCount 0 = 1
    ∧ (one []).my.credits = 16 ∧ (one []).my.freeInbox = some 0 ∧ (one [] 0#64 { credits := 0 }).my.credits = 0
    ∧ (one [] 0#64 { inbox := Vector.replicate 16 true }).my.freeInbox = none ∧ (one []).me.wait = none
    ∧ (let s := one [] 0#64 (withData 64 [0, 0, 0, 0, 0, 0, 0, 0, 0, 0, 0xFF00] {});
      s.recChk 64#64 128 64 = .ok ∧ (parseHeader (dwOf (s.recBytes 64 128 s.me.ctx))).isSome = true
      ∧ (match s.headerAt 0 with | some _ => true | none => false) = true)
    ∧ (let s := one [(1, 64#64)] 0#64 (withData 64 [0, 0, 0, 0, 0, 0, 0, 0, 0, 0, 0xFF00] {});
      (s.headerAt 1).isSome = true ∧ s.launchOk (s.headerAt 1) = true ∧ (match s.headerAt 1 with | some h => !s.queueFull h | none => false) = true)
    ∧ ({ one [] with vdevs := (one []).vdevs.set 0 { (one []).vdevs[(0 : Fin 64)] with
        queues := (Vector.replicate 4 []).set 0 (List.range 16) } } : State).queueFull {} = true := by decide +kernel

/-- O36: MIGR to the own tile and to another, with and without a credit; ENDT; a trigger slot at each of its counts. -/
theorem wit_migration : (one [(1, g0 1 0)]).holdsQueue = false ∧ swMode (one []).me.sw = false
    ∧ (one []).ownChip (gChip (gaddr 0 1 1 0)) = true ∧ ((one []).parts[(0 : Fin 24)]).covers (gTile (gaddr 0 1 1 0)) = true
    ∧ (one []).absent (gTile (gaddr 0 1 1 0)) = false ∧ gTile (g0 1 0) = 0 ∧ gTile (gaddr 0 1 1 0) ≠ 0
    ∧ (one []).ownOps = false ∧ (one []).drainsOpen 0 (one []).me.uid = false ∧ (one []).me.live = true
    ∧ (let s := one [] 0#64 { trigs := (((Vector.replicate 16 ({} : Trigger)).set 1 ⟨0x10000#64, 0#64⟩).set 2 ⟨0x20000#64, 0#64⟩) };
      (s.my.trigs[(0 : Fin 16)]).count = 0 ∧ (s.my.trigs[(1 : Fin 16)]).count = 1 ∧ 1 < (s.my.trigs[(2 : Fin 16)]).count
      ∧ s.my.regular < 16) := by decide +kernel

/-- O37: a hart in each mode, an aligned and a misaligned address, and a header that its loads read. -/
theorem wit_hart : ({ base {} with harts := (Vector.replicate 384 ({} : Hart)).set 0 { mode := .u } } : State).hart.mode = .u
    ∧ (base {}).hart.mode = .m ∧ ((base {}).hart.reg 5).toNat % 64 = 0
    ∧ (let s (g : HMode) : State := { base {} with harts := (Vector.replicate 384 ({} : Hart)).set 0 { mode := g } };
      (s .vs).hart.mode = .vs ∧ (s .vu).hart.mode = .vu)
    ∧ (let s : State := base {}; (match s.hartHeader s.hart 0x1000000000000000#64 16 [] with | .inl _ => true | .inr _ => false) = true)
    ∧ (let s : State := { base {} with hbm := mwrite [] 0 (dws [0, 1]) };
      (match s.hartHeader s.hart 0#64 16 [] with | .inr l => (parseHeader (fun i => l.getD i 0#64)).isNone | .inl _ => false) = true)
    ∧ (let s : State := { base {} with hbm := mwrite [] 0 (dws [0, 0, 0, 0, 0, 0, 0, 0, 0, 0, 0xFF00, 0, 0, 0, 0, 0])
                                       vdevs := (base {}).vdevs.set 0 { (base {}).vdevs[(0 : Fin 64)] with en := false } };
      (match s.hartHeader s.hart 0#64 16 [] with
        | .inr l => (match parseHeader (fun i => l.getD i 0#64) with | some x => !s.devReady x.vdev | none => false)
        | .inl _ => false) = true)
    ∧ ({ base {} with harts := (Vector.replicate 384 ({} : Hart)).set 0 { x := (Vector.replicate 32 0#64).set 5 1#64 } } : State).hart.reg 5 = 1#64
    ∧ (let s : State := { base {} with hbm := mwrite [] 0 (dws [0, 0, 0, 0, 0, 0, 0, 0, 0, 0, 0xFF00, 0, 0, 0, 0, 0]) };
      (match s.hartHeader s.hart 0#64 16 [] with
        | .inr l => (match parseHeader (fun i => l.getD i 0#64) with | some x => s.devReady x.vdev && !s.queueFull x | none => false)
        | .inl _ => false) = true) := by decide +kernel

/-- O38, O39: a launch with a free tag, and one of each state; no launch; tag 0. -/
theorem wit_tags : ((one []).myLaunch.bind (·.freeTag)) = some 1 ∧ (({} : State).myLaunch.bind (·.freeTag)) = none
    ∧ (one []).tagState 0#16 = .live ∧ (one []).tagState 5#16 ≠ .live
    ∧ (let s := base (({} : Tile).setStrand 0 (str [(1, 5#64)])) (fun l => { l with tags := [(5, .live)] });
      s.tagState ((s.reg 1).setWidth 16) = .live ∧ s.myLaunch.isSome = true ∧ s.partOf s.ct = some 0) := by decide +kernel

/-- A type 3 window, and a directory with version 7 published in slot 0 and slot 1 filling. -/
def win3 : WinEnt := { type := 3, home := 0, spc := 0, wkey := 9#32, base := 0#64, len := 64, psb := 0x1000#64, wr := true, plv := 7#16,
                       row0 := 0, row1 := 59, col0 := 0, col1 := 31 }

/-- A machine with that window. -/
def versioned (rs : List (Reg × Word)) : State :=
  { base (({} : Tile).setStrand 0 (str rs)) (fun l => { l with wins := [win3] }) with dirs := [VerDir.new win3] }

/-- O40: a version newer and one not newer than the published one, a slot that can be filled next and one that is referenced; an arrival
that agrees with the tile's others and one that does not; a window that is none. -/
theorem wit_versions : (versioned []).verWin 0 = some (win3, VerDir.new win3) ∧ (versioned []).verWin 1 = none
    ∧ (VerDir.new win3).nextFill = some 2 ∧ (VerDir.new win3).canFill 2 = true ∧ (VerDir.new win3).filling = some 1
    ∧ (VerDir.new win3).latest = some 0
    ∧ (VerDir.new win3).slots.toList.all (fun x => x.st != 2 || decide (x.ver.toNat < 8)) = true
    ∧ (VerDir.new win3).slots.toList.all (fun x => x.st != 2 || decide (x.ver.toNat < 7)) = false
    ∧ ({ VerDir.new win3 with slots := Vector.replicate 4 ⟨2, 1#16, 0, [(0, 1)]⟩ } : VerDir).nextFill = some 0
    ∧ ({ VerDir.new win3 with slots := Vector.replicate 4 ⟨2, 1#16, 0, [(0, 1)]⟩ } : VerDir).canFill 0 = false
    ∧ (versioned []).vpubAhead win3.key = false
    ∧ ({ versioned [] with cur := (0, 1) } : State).vpubAhead win3.key = false
    ∧ (let s := (versioned []).modStrand 0 1 (fun _ => { str [] with wait := some { (default : WaitRec) with kind := .vpub win3.key } });
      s.vpubAhead win3.key = true)
    ∧ (versioned []).me.wait = none ∧ (versioned []).my.targets 0 = []
    ∧ (let x := ({} : Tile).setStrand 1 { str [] with wait := some { (default : WaitRec) with kind := .vsw 0, target := some none } };
      x.targets 0 = [(1, none)])
    ∧ (let s := (versioned []).modStrand 0 1 (fun _ => { str [] with wait := some { (default : WaitRec) with kind := .vsw 0, target := some (some 7#16) } });
      (s.my.targets 0).any (fun t => t.1 != s.ck && t.2 != none) = true
      ∧ (s.my.targets 0).any (fun t => t.1 != s.ck && t.2 != some 7#16) = false)
    ∧ (let s := (versioned []).modStrand 0 0 (fun z => { z with wait := some { (default : WaitRec) with kind := .vsw 0, target := some none, tval := 0x0400#64 } });
      s.me.wait.map (fun r => (r.kind, r.tval)) = some (.vsw 0, 0x0400#64))
    ∧ (let s := (versioned []).modStrand 0 0 (fun z => { z with wait := some { (default : WaitRec) with kind := .vsw 1 } });
      s.me.wait.map (·.kind) = some (.vsw 1)) := by decide +kernel

/-- A page table whose page 0 is the 4 KiB at 0x2000000, as `mapped` has it, for the launch of tile 0. -/
def withPages (x : Tile) : State := { base x with vdevs := mapped.vdevs, hbm := mapped.hbm }

/-! ## Engine instructions -/

/-- The eight doublewords of a shape record of rank 0 without a blank. -/
def shp (sp base n str : Nat) : List Word :=
  [BitVec.ofNat 64 (base * 2 ^ 32 + sp), BitVec.ofNat 64 (str * 2 ^ 32 + n), 0, 0, 0, 0, 0, 0]

/-- The twenty-four doublewords of a copy record of four 8-byte elements from ACT to ACC, or to a tile. -/
def cpr (dk dspc : Nat) (daddr : Word) : List Word :=
  [BitVec.ofNat 64 (3 * 2 ^ 46 + dk * 2 ^ 10 + dspc * 16 + 3), 0, daddr, 0, 4, 0x0000000800000008#64] ++ List.replicate 18 0

/-- A tile with records from 0x100 up: four operands of four 32-bit elements in ACC; two of 16 × 16 BF16 elements in ACT; copies to ACC
and to tile 0 (0x280, 0x340); an edge record, its activations and results (0x400, 0x440, 0x480); buffers of NSEND and NRECV (0x4C0, 0x500).
Blank 0 is a range of ACC. -/
def recs (x : Tile := {}) : Tile := withData 0x100 (shp 4 0x000 4 1 ++ shp 4 0x100 4 1 ++ shp 4 0x200 4 1 ++ shp 4 0x300 4 1
  ++ [0x0000000000000103, 0x0000000100000010, 0x0000001000000010, 0, 0, 0, 0, 0]
  ++ [0x0000100000000103, 0x0000000100000010, 0x0000001000000010, 0, 0, 0, 0, 0]
  ++ cpr 0 4 0 ++ cpr 1 0 (g0 4 0)
  ++ [0x1000, 0x0000000100040002, 0, 0, 0, 0, 0, 0]
  ++ [0x0000000000000103, 0x0000000100000004, 0x0000000400000001, 0, 0, 0, 0, 0]
  ++ [0x0000000000400104, 0x0000000100000002, 0x0000000200000001, 0, 0, 0, 0, 0]
  ++ [0x0000000000000001, 0x1000, 64, 0, 0, 0, 0, 0] ++ [0x0000000000000000, 0x1000, 64, 0, 0, 0, 0, 0])
  { x with blanks := (Vector.replicate 64 ({} : Blank)).set 0 ({ spc := 4, base := 0, len := 64, dfn := true } : Blank) }

/-- Registers 1 to 14 name those records. -/
def engRegs : List (Reg × Word) :=
  [(1, 0x100#64), (2, 0x140#64), (3, 0x180#64), (4, 0x1C0#64), (5, 0x200#64), (6, 0x240#64), (7, 0x280#64), (8, 0x340#64),
   (9, 0x400#64), (10, 0x440#64), (11, 0x480#64), (12, 0x4C0#64), (13, 0x500#64)]

/-- A launch with a reduction slot 0 of tile 0 for four elements, and slot 1 for 256. -/
def slots (l : Launch) : Launch := { l with fp := { l.fp with reds :=
  [⟨0, true, 0, 0, 9#16, 0x800, 4, 0, 0, 0, 0⟩, ⟨0, false, 0, 0, 0#16, 0x800, 256, 0, 0, 0, 0⟩] } }

/-- Tile 0 whose strand has those registers. -/
def eng (x : Tile := {}) (sw : Word := 0#64) : State := base ((recs x).setStrand 0 (str engRegs sw)) slots

/-- No token. -/
def tk0 : Tok := ⟨false, 0#16⟩

/-- Do all checks of a list pass? -/
def passAll (cs : List Chk) : Bool := cs.all (fun c => c == .ok)

/-- A list whose checks are all found to pass meets the hypothesis of the statements. -/
theorem passes_of {cs : List Chk} (h : passAll cs = true) : ChecksPass cs := by
  intro c hc; exact of_decide_eq_true (List.all_eq_true.mp h c hc)

/-- O41: a record that is accepted; an operand that fits, one whose last byte is the first one past ACC, one whose scale byte lies past
ACC, one below 0 by a negative stride; and a misaligned BASE. -/
theorem wit_shapes : (eng.shapeAt 1).isSome = true
    ∧ (let h : Shape := { at_ := 0, spc := 4, base := 0x3FFF0, bv := false, blk := 0, rank := 0, ext := [4], str := [1], sbase := 0x3FFFF };
      (Opd.bounds ⟨h, 32, false, false, [4]⟩ = .ok) ∧ (Opd.bounds ⟨h, 32, true, false, [4]⟩ = .ok)
      ∧ (Opd.bounds ⟨{ h with ext := [5] }, 32, false, false, [4]⟩ != .ok) = true
      ∧ (Opd.bounds ⟨{ h with sbase := 0x40000 }, 32, true, false, [4]⟩ != .ok) = true
      ∧ (Opd.bounds ⟨{ h with base := 0, str := [-1] }, 32, false, false, [4]⟩ != .ok) = true
      ∧ (Opd.aligned ⟨{ h with base := 2 }, 32, false, false, [4]⟩ != .ok) = true) := by decide +kernel

/-- O42: VADD issues; a prefix with a format that MLOAD only takes is refused. -/
theorem wit_vector_issue :
    (let s := eng; let i := Instr.vadd ⟨3, 1, 2, false, tk0⟩; isVector i = true
      ∧ (match s.enginePfx (vecForm (vecForm 0 i).dfl.2.2 i) with
        | some x =>
          let c := s.vecCmd i x
          passAll [legal (vecLegal i x && s.my.hold[(1 : Fin 4)] != some s.ck), s.recsChk ((vecRecs i x).map (fun r => (r, 64))),
            s.shapesChk (vecRecs i x), (match c.countBad with | some o => .trap .recordRefused (BitVec.ofNat 64 o) | none => .ok),
            s.opdsChk c.vecOpds, s.versionChk i x, s.issueChk 2 false 1 c.tok.n c.vecOpds]
        | none => false) = true)
    ∧ (eng {} pp).pfx?.isSome = true
    ∧ (let s := (eng {} pp).modStrand 0 0 (fun z => { z with sw := z.sw ||| 0x4000000000000000#64 });
      s.enginePfx (vecForm (match s.pfx? with | some p => pfxField p 8 4 | none => 0) (.vadd ⟨3, 1, 2, false, tk0⟩)) = none) := by
  decide +kernel

/-- A tile in RS mode whose issue-side copy says so. -/
def rsMode : Tile := { mat := { rs := true, irs := true } }

/-- Do the checks of a matrix instruction without a prefix pass? -/
def mxPass (s : State) (i : Instr) : Bool := isMatrix i && (match s.enginePfx (mxForm 0 i) with
  | some x =>
    let c := s.mxCmd i x
    passAll [legal (s.mxLegal i x && s.my.hold[(0 : Fin 4)] != some s.ck), s.recsChk ((mxRecs i).map (fun r => (r, 64))),
      s.shapesChk (mxRecs i), (match c.mxBad with | some o => .trap .recordRefused (BitVec.ofNat 64 o) | none => .ok),
      s.opdsChk (c.mxOpds ++ c.mxReads), s.drainChk i x, s.issueChk 1 false 0 c.tok.n c.mxOpds]
  | none => false)

/-- A remote drain to the own tile with a wake message. -/
def remDrain : DrainRem := ⟨0, 0, false, false, true, false, 2, 0x1000#18, 0, tk0⟩

/-- O43: MCFG, MZERO, MMUL in RS mode and the three drains issue; an illegal prefix. -/
theorem wit_matrix_issue : mxPass eng (.mcfg true false tk0) = true ∧ mxPass (eng rsMode) (.mzero tk0) = true
    ∧ mxPass (eng rsMode) (.mmulRs 5 6 tk0) = true ∧ mxPass (eng rsMode) (.mdrainRem remDrain) = true
    ∧ mxPass (eng rsMode) (.mdrainTree 1#8 false tk0) = true ∧ mxPass eng (.mload 5 false tk0) = false
    ∧ (let s := (eng {} pp).modStrand 0 0 (fun z => { z with sw := z.sw ||| 0x4000000000000000#64 });
      s.enginePfx (mxForm 0 (.mzero tk0)) = none) := by decide +kernel

/-- O44: CPY to ACC and to a tile, EGEMV and EPREF issue, and a record that is refused. -/
theorem wit_copy_issue :
    (let s := eng; let m : CpArgs := ⟨7, 0, 0, tk0⟩; let i := Instr.cpy m;
      match s.copyRec i m with
      | some r => decide (r.dk = 0) && passAll [s.enginePlain 2, s.recChk (s.reg m.a) 192 64, s.copyChk i r m,
          s.issueChk 3 true 2 m.tk.n (Cmd.cpOpds { s.sample i m.tk noPfx with rc := .copy r, idx := s.copyIdx i r m })]
      | none => false) = true
    ∧ (let s := eng; let m : CpArgs := ⟨8, 0, 0, tk0⟩; let i := Instr.cpy m;
      match s.copyRec i m with
      | some r => decide (r.dk ≠ 0) && passAll [s.enginePlain 2, s.recChk (s.reg m.a) 192 64, s.copyChk i r m,
          s.issueChk 3 true 2 m.tk.n (Cmd.cpOpds { s.sample i m.tk noPfx with rc := .copy r, idx := s.copyIdx i r m })]
      | none => false) = true
    ∧ eng.copyRec (.cpy ⟨1, 0, 0, tk0⟩) ⟨1, 0, 0, tk0⟩ = none
    ∧ (let s := eng;
      match s.enginePfx egemvForm, s.edgeRec 9 with
      | some x, some r =>
        let c0 := s.sample (.egemv 11 9 10 tk0) tk0 x
        let c : Cmd := { c0 with d := s.shapeAt 11, b := s.shapeAt 10, rc := .edge r, ver := s.cmdVersion s.ct c0 r.wva }
        passAll [legal (egemvPair x.fb x.fa && s.my.hold[(2 : Fin 4)] != some s.ck), s.recsChk [(11, 64), (9, 64), (10, 64)],
          s.shapesChk [11], s.shapesChk [10], egemvShapes r c.b c.d,
          need (r.wva.toNat % 64 == 0 && decide (r.rowBytes x.fb ≤ 64 * r.rp) && (r.sva != 0#64) == x.bsb) .recordRefused (s.reg 9),
          s.opdsChk c.cpOpds, s.virtualChk r.wva 1, s.virtualChk (r.last x.fb) 1, s.issueChk 4 true 2 tk0.n c.cpOpds]
      | _, _ => false) = true
    ∧ (let s := eng; passAll [s.enginePlain 2, legal (decide (1 ≤ (64#21).toNat) && decide ((64#21).toNat ≤ 0x100000)),
        s.virtualChk (s.reg 1) 1, s.virtualChk (s.reg 1 + BitVec.ofNat 64 ((64#21).toNat - 1)) 1, s.issueChk 4 true 2 tk0.n []]) = true := by
  decide +kernel

/-- O45: NSEND and NRECV issue, RTRE issues, RWAIT reaches its number or waits, and a counter is read. -/
theorem wit_network_issue :
    (let s := eng;
      (match s.parseSend (s.reg 12).toNat (s.recBytes (s.reg 12).toNat 64 s.me.ctx) .send with
        | some r => passAll [s.enginePlain 3, s.recChk (s.reg 12) 64 64, s.laddrChk r, s.limitChk, s.issueChk 5 false 3 tk0.n []]
        | none => false) = true
      ∧ (match s.parseSend (s.reg 13).toNat (s.recBytes (s.reg 13).toNat 64 s.me.ctx) .recv with
        | some r => passAll [s.enginePlain 3, s.recChk (s.reg 13) 64 64, s.laddrChk r, s.issueChk 5 false 3 tk0.n []]
        | none => false) = true
      ∧ (match s.enginePfx { dfl := (0, 0, 0), okA := [0, 1, 2, 3, 4] }, s.treeAt s.ct (0#8).toNat, s.shapeAt 1 with
        | some x, some (e, _, _), some h =>
          let c : Cmd := { s.sample (.rtre .add 1 0#8 tk0) tk0 x with a := some h }
          passAll [legal (s.my.hold[(3 : Fin 4)] != some s.ck), s.recsChk [(1, 64)], s.shapesChk [1],
            need (h.n == e.len) .recordRefused (s.reg 1), s.opdsChk c.treeOpds, s.issueChk 5 false 3 tk0.n c.treeOpds]
        | _, _, _ => false) = true
      ∧ (s.reg 0).toNat ≤ (s.my.tree[Fin.ofNat 32 (0#8).toNat]).count ∧ (s.my.tree[Fin.ofNat 32 (0#8).toNat]).count < (s.reg 1).toNat
      ∧ s.virtualChk (s.ctrAddr s.ct 3) 8 = .ok ∧ swPP s.me.sw = false ∧ s.me.wait = none) := by decide +kernel

/-! ## Engines at work -/

/-- A row of `n` elements in a space. -/
def row (sp base n : Nat) : Shape := { at_ := 0, spc := sp, base := base, bv := false, blk := 0, rank := 0, ext := [n], str := [1], sbase := 0 }

/-- A command of strand 0 of tile 0. -/
def cmd (i : Instr) (d a b : Option Shape) (rc : OpRec := .none) : Cmd :=
  { (default : Cmd) with id := 3, ins := i, slot := 0, tok := ⟨true, 5#16⟩, ctx := 0#16, d := d, a := a, b := b, c := none, mask := none
                         rc := rc, posted := [], vpin := 0#17, raw := none }

/-- A vector sum of four FP32 elements of ACT into ACC, and a broadcast of a raw operand. -/
def vsum : Cmd := cmd (.vadd ⟨3, 1, 2, false, tk0⟩) (some (row 4 0 4)) (some (row 3 0 4)) (some (row 3 64 4))
def vraw : Cmd := cmd (.vbcast ⟨3, 1, tk0⟩ true) (some (row 4 0 4)) none none

/-- Tile 0 with some commands in a queue. -/
def queue (q : Fin 4) (l : List QEntry) (x : Tile := {}) : Tile := { x with cmdq := (Vector.replicate 4 []).set q l }

/-- 05 R144: VSHL and VSHR with an immediate count take the formats 7 to 9 for B, with default 9. -/
theorem test_shift_imm_formats : ∀ i ∈ [Instr.vshl 3 1 (.imm 4#5) tk0, Instr.vshr 3 1 (.imm 4#5) false tk0],
    (vecForm 9 i).okB = [7, 8, 9] ∧ (vecForm 9 i).dfl = (9, 9, 9) := by decide

/-- O46: commands that may start, and one that may complete. -/
theorem wit_vector_run :
    (let s := base (queue 1 [.cmd vsum]); (s.tile 0).vec = none ∧ s.goesOn 0 3 = true ∧ s.heldNow = false ∧ vsum.isQ = false
      ∧ (s.tile 0).cmdq[(1 : Fin 4)] = [.cmd vsum])
    ∧ vraw.isQ = true
    ∧ (let s := base { vec := some vsum }; (s.tile 0).vec = some vsum ∧ isVector vsum.ins = true ∧ s.goesOn 0 3 = true
      ∧ (s.tile 0).poison = [] ∧ vsum.ctx = 0#16 ∧ vsum.countBad = none ∧ vsum.d.isSome = true ∧ vsum.mask = none
      ∧ vsum.pfx.bsd = false ∧ 8 ≤ vsum.opD.bits ∧ vsum.opD.sh.ext = [vsum.opD.sh.n] ∧ vsum.opD.sh.str = [1] ∧ vsum.opD.sh.spc = 4
      ∧ ∀ o ∈ vsum.vecOpds, o.dst = false → o.spc ≠ vsum.opD.spc) := by decide +kernel

/-- The other forms whose values O46 states: a reduction and a scan of one row, a scatter by indices of ACT, and a packing by a selector
of ACT with its count in ACT. -/
def vred1 : Cmd := cmd (.vred .add ⟨3, 1, tk0⟩ false) (some (row 4 0 1)) (some (row 3 0 4)) none
def vscan1 : Cmd := cmd (.vscan .add ⟨3, 1, tk0⟩ none false) (some (row 4 0 4)) (some (row 3 0 4)) none
def vscat1 : Cmd := cmd (.vscat ⟨3, 1, 2, tk0⟩) (some (row 4 0 4)) (some (row 3 0 4)) (some (row 3 64 4))
def vpack1 : Cmd := { cmd (.vpack ⟨3, 1, 2, 4, tk0⟩) (some (row 4 0 4)) (some (row 3 0 4)) (some (row 3 64 4)) with c := some (row 3 128 1) }

/-- A sample and a ranking of one row. -/
def vsamp1 : Cmd := { cmd (.vsamp 3 1 2 0x3F800000#32 tk0) (some (row 4 0 1)) (some (row 3 0 4)) none with ver := some 7#16 }
def vtopk1 : Cmd := cmd (.vtopk 3 1 2 3#16 tk0) (some (row 4 0 3)) (some (row 3 0 4)) none

/-- O46: each of them meets what its values are stated under. -/
theorem wit_vector_values : ∀ c ∈ [vred1, vscan1, vscat1, vpack1, vsamp1, vtopk1],
    (let s := base { vec := some c }; (s.tile 0).vec = some c ∧ isVector c.ins = true ∧ c.ctx = 0#16 ∧ c.countBad = none ∧ c.d.isSome = true
      ∧ c.mask = none ∧ c.pfx.bsd = false ∧ 8 ≤ c.opD.bits ∧ c.opD.sh.ext = [c.opD.sh.n] ∧ c.opD.sh.str = [1] ∧ c.opD.sh.spc = 4
      ∧ (∀ o ∈ c.vecOpds, o.dst = false → o.spc ≠ c.opD.spc)
      ∧ (match c.ins with | .vpack _ => c.c.isSome && decide (c.opC.sh.spc = 3) && decide (c.opC.spc ≠ c.opD.spc) | _ => true) = true) := by
  decide +kernel

/-- A row of four values, of which one is a NaN, sampled: three of its elements take part (05 R152). -/
theorem test_vsamp_elements :
    (let s := base { vec := some vsamp1, act := [(2, 0xC0#8), (3, 0x7F#8)] };
      (List.range 4).map (fun k => (s.elemNum 0 vsamp1 vsamp1.opA 0 k).isNan) = [true, false, false, false]) := by decide +kernel

/-- A running command of the matrix engine. -/
def mrun (c : Cmd) (done : Bool := false) : MRun := { cmd := c, done := done, failed := false, drain := none, flags := 0#5 }

/-- O47: commands of each kind that may start, and commands that may finish. -/
theorem wit_matrix_run :
    (let c := cmd (.mdrain 4 false tk0) (some (row 4 0 256)) none none; let s := base (queue 0 [.cmd c] rsMode);
      startHead ((s.tile 0).cmdq[(0 : Fin 4)]) = (some c, []) ∧ s.goesOn 0 3 = true ∧ s.heldNow = false ∧ (s.tile 0).mat.run.all MRun.released = true
      ∧ (s.tile 0).mat.run.any MRun.buffered = false ∧ c.drainDst = some 0)
    ∧ (startHead [.cmd (cmd (.mdrainRem remDrain) none none none)]).1.isSome = true
    ∧ (cmd (.mcfg true false tk0) none none none).drainDst = none
    ∧ (let c := cmd (.mcfg true false tk0) none none none; let s := base { mat := { run := [mrun c] } };
      (s.tile 0).mat.run = [mrun c] ∧ s.goesOn 0 3 = true ∧ (s.tile 0).poison = [] ∧ c.ctx = 0#16)
    ∧ (let c := cmd (.mdrainRem remDrain) none none none; let s := base { mat := { run := [mrun c] } };
      (s.tile 0).mat.run = [mrun c] ∧ s.storesOpen 0 c.id = false ∧ s.msgs.any (fun q => q.src == .wake 0) = false)
    ∧ (let c := cmd (.mmul 4 5 false tk0) (some (row 4 0 16)) (some (row 3 0 16)) none
      let s := base { mat := { run := [mrun c], blk := some ⟨0, false, false, [], []⟩ } }
      (s.tile 0).mat.run = [mrun c] ∧ (s.tile 0).mat.blk.isSome = true ∧ c.pfx.fd = 0 ∧ (c.mxAt 0).sh.spc = 4 ∧ (c.mxAt 1).sh.spc = 3
      ∧ (∀ j : Fin 16, ∀ i : Fin j, (c.mxAt 0).at_ i + elemBytes (c.mxAt 0).bits ≤ (c.mxAt 0).at_ j))
    ∧ (let c := cmd (.mdrain 4 false tk0) (some (row 4 0 16)) none none
      let s := base { mat := { run := [{ mrun c with drain := some (List.replicate 16 0) }] } }
      (s.tile 0).mat.run = [{ mrun c with drain := some (List.replicate 16 0) }] ∧ (List.replicate 16 0).length = (c.mxAt 0).sh.n
      ∧ 8 ≤ (c.mxAt 0).bits ∧ (c.mxAt 0).sh.spc = 4)
    ∧ (let c := cmd (.mdrainTree 0#8 false tk0) none none none
      let s := base { mat := { run := [{ mrun c with drain := some [] }] }, contribs := [⟨c, 0, ⟨some .add, []⟩⟩] }
      (s.tile 0).contribs = [⟨c, Fin.ofNat 32 (0#8).toNat, ⟨some .add, []⟩⟩] ∧ (((s.tile 0).tree[(0 : Fin 32)]).own).length < 2) := by
  decide +kernel

/-- A copy of four 8-byte elements from ACT to ACC, one that reads a tile outside the partition, and an edge record. -/
def crec (sk : Nat) (a : Word) : CopyRec :=
  { at_ := 0, rank := 0, esz := 3, vc := 0, dbv := false, dblk := 0, sbv := false, sblk := 0, dk := 0, sk := sk, dspc := 4, sspc := 3
    saddr := a, daddr := 0#64, glim := 0, ext := [4], dstr := [8], sstr := [8] }
def copyCmd (sk : Nat) (a : Word) : Cmd := cmd (.cpy ⟨7, 0, 0, tk0⟩) none none none (.copy (crec sk a))
def edge0 : EdgeRec := { at_ := 0, wva := 0#64, rp := 1, k := 4, n := 1, sva := 0#64, mep := 0 }
def edgeCmd : Cmd := { cmd (.egemv 3 1 2 tk0) (some { row 4 0 1 with rank := 1, ext := [1, 1], str := [1, 1] }) none
  (some { row 3 0 4 with rank := 1, ext := [4, 1], str := [1, 4] }) (.edge edge0) with pfx := { (default : Pfx) with fa := 1, fb := 1 } }
/-- A tile with that operation. -/
def copying (c : Cmd) (ph : CPhase := .running) : Tile := { copies := [{ cmd := c, phase := ph }] }

/-- O48: a copy that starts, one that moves its elements, one that is refused, and the other forms. -/
theorem wit_copy_run :
    (let s := base (queue 2 [.cmd (copyCmd 0 0#64)]);
      startHead ((s.tile 0).cmdq[(2 : Fin 4)]) = (some (copyCmd 0 0#64), []) ∧ s.goesOn 0 3 = true ∧ s.heldNow = false ∧ (s.tile 0).copies.length < 4)
    ∧ (let c := copyCmd 0 0#64; let s := base (copying c);
      s.copyRun 0 c.id = some { cmd := c, phase := .running } ∧ s.copyMayWrite 0 c = true
      ∧ (match State.copyElems 0 c (crec 0 0#64) false (crec 0 0#64).n 0 s with | (n, .ok _ _) => n == (crec 0 0#64).n | _ => false) = true
      ∧ (match State.copyElems 0 c (crec 0 0#64) false (min 2 (crec 0 0#64).n) 0 s with | (n, .ok _ _) => n == 2 && decide (2 < (crec 0 0#64).n) | _ => false) = true)
    ∧ (let c := copyCmd 0 0#64; let r := crec 0 0#64; let s := base (copying c);
      let dst := fun i => (BitVec.ofInt 64 ((r.daddr.toNat : Int) + elemOfs r.ext r.dstr i)).toNat
      c.posted = [] ∧ c.ctx = 0#16 ∧ (s.tile 0).poison = [] ∧ r.dk = 0 ∧ r.sk = 0 ∧ spcOf r.dspc = some .acc ∧ spcOf r.sspc = some .act
      ∧ r.n = 4 ∧ (∀ i : Fin 4, ∀ j : Fin i, dst j + r.esize ≤ dst i)
      ∧ (s.copyRun 0 c.id).map (·.pos) = some 0)
    ∧ (let c := { copyCmd 0 0#64 with ins := .cpyg ⟨7, 0, 0, tk0⟩, rc := .copy { crec 0 0#64 with glim := 2 }, idx := [1, -1, 2, 0] };
      (List.range 4).map (fun i => decide (c.idx.getD i 0 < 0 ∨ 2 ≤ c.idx.getD i 0)) = [false, true, true, false])
    ∧ (let c := copyCmd 1 (gaddr 0 0 7 0); let s := base (copying c);
      (match State.copyElems 0 c (crec 1 (gaddr 0 0 7 0)) false 4 0 s with | (_, .refuse _ _ _) => true | _ => false) = true)
    ∧ (let s := base (copying edgeCmd); rowsRefused (s.wins 0) edge0.wva.toNat (edge0.last edgeCmd.pfx.fb).toNat = false
      ∧ s.stampSlot 0 edgeCmd edge0 = none ∧ s.boot.noStack.contains edge0.mep = false ∧ (s.copyRun 0 edgeCmd.id).isSome = true)
    ∧ (let s := base (copying (cmd (.epref 1 64#21 tk0) none none none)); (s.copyRun 0 3).isSome = true) := by decide +kernel

/-- O48: a pass whose rows are read. -/
theorem wit_pass :
    (let s := withPages (copying edgeCmd (.accepted 7));
      (match firstPass (s.passesAt 0) with | some (n, t, q) => n == 7 && t == 0 && q.cmd == edgeCmd | none => false) = true
      ∧ edgeCmd.ctx = 0#16 ∧ (s.tile 0).poison = []
      ∧ (let o := (List.range edge0.n).foldl (fun (o : PassOut) n => o.row 0 edgeCmd edge0 false n) { acc := { s := s } };
        o.acc.away = false ∧ o.acc.bad.isNone = true)
      ∧ ((edgeCmd.cpOpds.getD 1 default).sh.spc = 4 ∧ edge0.n * (edgeCmd.cpOpds.getD 0 default).sh.extAt 1 = (edgeCmd.cpOpds.getD 1 default).sh.n
        ∧ (edgeCmd.cpOpds.getD 1 default).sh.n = 1)) := by decide +kernel

/-- A round of four zeros. -/
def round0 : Round := ⟨some .add, [0#32, 0#32, 0#32, 0#32]⟩

/-- A launch whose slot 0 spans tiles 0 and 1 of the first row, its root at tile 1. -/
def pair0 (l : Launch) : Launch := { l with placed := [0, 1], fp := { l.fp with reds := [⟨0, true, 0, 1, 9#16, 0x800, 4, 0, 0, 0, 1⟩] } }

/-- O49: a router that sends to its parent, a root whose total is due, a delivery, and a contribution that is accepted. -/
theorem wit_tree :
    (let s := base { tree := (Vector.replicate 32 ({} : TreeSlot)).set 0 ({ own := [round0] } : TreeSlot) } pair0;
      (match s.treeAt 0 0 with
        | some (e, p, ps) => treeParent ps (s.rootOf p e) 0 == some 1 && (treeChildren ps (s.rootOf p e) 0).isEmpty
        | none => false) = true
      ∧ (((s.tile 1).tree[(0 : Fin 32)]).from_ 0).length < 2)
    ∧ (let s := base { tree := (Vector.replicate 32 ({} : TreeSlot)).set 0 ({ own := [round0] } : TreeSlot) } slots;
      (match s.treeAt 0 0 with
        | some (e, p, ps) => treeParent ps (s.rootOf p e) 0 == none && e.mode == 0 && s.rootOf p e == 0
        | none => false) = true)
    ∧ (∀ m ∈ [1, 2],
      let s := base { tree := (Vector.replicate 32 ({} : TreeSlot)).set 0 ({ own := [round0], kids := [(1, [round0])] } : TreeSlot) }
        (fun l => { l with placed := [0, 1], fp := { l.fp with reds := [⟨m, true, 0, 0, 9#16, 0x800, 4, 0, 0, 0, 1⟩] } });
      (match s.treeAt 0 0 with
        | some (e, p, ps) => treeParent ps (s.rootOf p e) 0 == none && e.mode == m && ps == [0, 1] && treeChildren ps (s.rootOf p e) 0 == [1]
        | none => false) = true)
    ∧ (let s := base { tree := (Vector.replicate 32 ({} : TreeSlot)).set 0 ({ deliv := [[1#32, 2#32, 3#32, 4#32]] } : TreeSlot) } slots;
      (match s.redEnt 0 0 with
        | some e => !(s.tile 0).guarded .acc e.dofs 16 true && (s.tile 0).poison.isEmpty && e.dn
        | none => false) = true)
    ∧ (let c := cmd (.rtre .add 1 0#8 tk0) none (some (row 4 0 4)) none; let s := base { contribs := [⟨c, 0, round0⟩] } slots;
      (((s.tile 0).tree[(0 : Fin 32)]).own).length < 2 ∧ s.goesOn 0 3 = true) := by decide +kernel

/-- A send record, and a network operation of two packets. -/
def srec : SendRec := { (default : SendRec) with peer := 1, laddr := 0#64, len := 8192 }
def nop (g : Bool) (ph : NetPhase := .going) : NetOp :=
  { id := 3, tile := 0, cmd := cmd (if g then .nget 1 0 tk0 else .nsend 1 0 tk0) none none none (.send srec), rc := srec
    pkts := [⟨0, false, 0, 1, 0, false, none⟩, ⟨1, false, 0, 2, 0, false, none⟩], tries := 0, phase := ph, failing := false, got := [], msg := 0, ord := 0, sent := 2 }
/-- Partition 0 with that operation, retries allowed and a receive buffer posted. -/
def netting (o : NetOp) : State := (base {}).modPart 0 (fun q => { q with
  netBusy := [o], rlim := 8, rto := 0, ports := [0], recvq := q.recvq.set 0 [⟨0, 0, tk0, 0#64, 64, false, 0⟩] })
/-- A first packet of a send to queue 0, and a peer's read of a region. -/
def pkt (b : PktBody) : Packet := { peer := 1, rod := false, msg := 0, ord := 0, seq := 0, count := 1, len := 8, ofs := 0, port := 0, body := b, bytes := [] }

/-- O50: commands that the engine takes, and what peers may send for an operation in flight. -/
theorem wit_network_run :
    (let c := cmd (.nget 1 0 tk0) none none none (.send srec); let s := base (queue 3 [.cmd c]);
      startHead ((s.tile 0).cmdq[(3 : Fin 4)]) = (some c, []) ∧ s.goesOn 0 3 = true ∧ s.heldNow = false ∧ s.partOf 0 = some 0
      ∧ (s.parts[(0 : Fin 24)]).netBusy = [] ∧ ((s.parts[(0 : Fin 24)]).recvq[(0 : Fin 16)]).length < 256)
    ∧ (let s := netting (nop false); s.netOp 0 3 = some (nop false) ∧ (nop false).sent ≠ 0
      ∧ (∀ k ∈ (nop false).pkts, k.resends + (nop false).tries < (s.parts[(0 : Fin 24)]).rlim ∧ k.due = false ∧ k.no < (nop false).sent)
      ∧ NetOp.complete { nop false with pkts := [⟨0, true, 0, 1, 0, false, none⟩, ⟨1, false, 0, 2, 0, false, none⟩] } = false
      ∧ NetOp.missing { nop false with pkts := [⟨0, true, 0, 1, 0, false, none⟩, ⟨1, false, 0, 2, 0, false, none⟩] } = [])
    ∧ (let o := { nop false with sent := 0 };
      let s : State := { netting o with vdevs := (withPages {}).vdevs, hbm := (withPages {}).hbm };
      o.srcByte 0 = none ∧ o.phase = .going ∧ s.netPorts 0 = [0] ∧ decide (o.sent < o.pkts.length) = true ∧ 0 + 8 ≤ o.rc.len
      ∧ (match s.netBuf 0 o 0 false 0 8 none with | .ok s1 _ => s1.netOp 0 o.id == some o | _ => false) = true)
    ∧ (let k : Pkt := ⟨0, false, 0, 1, 0, true, some 0⟩
      let o := { nop false with rc := { srec with len := 8 }, sent := 0, pkts := [k] }
      let s : State := { netting o with vdevs := (withPages {}).vdevs, hbm := (withPages {}).hbm }
      let mtu := (s.parts[(0 : Fin 24)]).mtu
      o.pkts.find? (fun y => y.no == 0 / mtu) = some k ∧ k.due = true ∧ 0 + 8 ≤ o.rc.len ∧ 0 + 8 ≤ mtu * (0 / mtu + 1)
      ∧ (s.pktPort 0 k).map (·.1) = some 0
      ∧ (match (s.modNet 0 3 (fun y => y.setPort 0 0)).netBuf 0 o 0 false 0 8 none with
        | .ok s2 _ => (s2.netOp 0 3).isSome && ((s2.parts[(0 : Fin 24)]).mtu == mtu)
        | _ => false) = true
      ∧ (NetOp.readyPkt { o with src := [(0, List.replicate 8 0)] } mtu).isSome = true
      ∧ (NetOp.readyPkt { o with rc := srec, src := [(0, List.replicate 8 0)] } mtu).isNone = true)
    ∧ ((nop false).again 0).readyPkt 4096 = none
    ∧ (let k : Pkt := ⟨0, false, 0, 0, 0, true, some 0⟩
      let z : NetAns := ⟨0, { nop false with pkts := [k], sent := 0, rc := { srec with len := 8 } }⟩
      let s : State := { netting (nop false) with vdevs := (withPages {}).vdevs, hbm := (withPages {}).hbm }
      let s0 := s.modPart 0 (fun q => { q with answers := [z] })
      z.o.phase = .going ∧ z.o.nextDue = some k ∧ (s0.pktPort 0 k).map (·.1) = some 0
      ∧ (match (s0.modAns 0 3 (fun y => y.setPort 0 0)).netRead (netAsk 0 0 0 false true) (fun _ => none) 0#64 8 true with
        | .ok _ _ => true | _ => false) = true)
    ∧ (let s := netting (nop true); (nop true).isGet = true ∧ 0 + (s.parts[(0 : Fin 24)]).rto ≤ s.now ∧ s.netPorts 0 = [0])
    ∧ (netting (nop false (.notReady 0))).now = 0
    ∧ (let s := netting (nop false); (s.parts[(0 : Fin 24)]).inMsg (pkt (.send 0)) = none ∧ s.netRunning 0 = true ∧ (s.parts[(0 : Fin 24)]).st = .assigned ∧ (s.parts[(0 : Fin 24)]).nextOpen = none
      ∧ (s.parts[(0 : Fin 24)]).keeps (pkt (.send 0)) = false ∧ (s.parts[(0 : Fin 24)]).heldPkts = [] ∧ (s.netPorts 0).contains 0 = true
      ∧ tget 0 (s.parts[(0 : Fin 24)]).netNext 2 = 0 ∧ (s.parts[(0 : Fin 24)]).recvq[(0 : Fin 16)] ≠ [])
    ∧ (let s : State := { withPages {} with rma := [(0, { (default : Rma) with en := true, key := 1#32, rd := true, vdev := 0, len := 64#64 })] };
      (s.region 0 1#32 0#64 8 false).isSome = true ∧ (s.parts[(0 : Fin 24)]).answers = []
      ∧ (match s.netRead (netAsk 0 0 0 false) (fun _ => none) 0#64 8 true with | .ok _ _ => true | _ => false) = true) := by decide +kernel

/-! ## Tasks, strands and the memory plane -/

/-- A ready task and a task to be resumed. -/
def task0 : Ready := { (default : Ready) with pc := 0x10000#64, arg := 5#64, stl := true, ret := false, inbox := none, resume := none }
def res0 : Resume := { (default : Resume) with pc := 0x10000#64, res := none }

/-- A message from tile 0 to tile 0 with its number, kind and phase. -/
def tmsg (k : MsgKind) (ph : MsgPhase := .out) : TMsg :=
  { (default : TMsg) with id := 4, src := .tile 0, dst := 0, kind := k, slot := 1, stq := none, pay := [], post := none, mig := none
                          resv := none, back := none, sent := true, phase := ph, pc := 0x10000#64 }

/-- Tile 0 with that message on the task plane. -/
def sending (m : TMsg) (x : Tile := {}) (l : Launch → Launch := id) : State := { base x l with msgs := [m] }

/-- O51: a task that starts, a message of each kind that arrives, and its answers. -/
theorem wit_task_plane :
    (let s := base { ready := [task0] }; ((s.launchAt 0).map (·.st)) = some .running ∧ (s.tile 0).sliceEnd = none
      ∧ (s.tile 0).stolenAt ≠ some s.now ∧ (s.tile 0).halted = false ∧ s.mayApply 0 = true ∧ (s.tile 0).freeSlot = some 0 ∧ (s.tile 0).ready = [task0])
    ∧ (let m := tmsg .send; m.came = none ∧ m.sent = true ∧ m.applies = true ∧ (sending m).mayApply 0 = true)
    ∧ (let m := { tmsg .send with came := some 0 }; let y := { tmsg .spawn with id := 3, came := some 0 };
      let s : State := { sending m with msgs := [y, m] };
      s.waiting y = true ∧ s.port y = s.port m ∧ y.id < m.id ∧ s.inOrder y = true ∧ s.inOrder m = false)
    ∧ (let m := { tmsg .send with came := some 0 };
      let s := sending m { trigs := (Vector.replicate 16 ({} : Trigger)).set 1 ⟨0x10000#64, 0#64⟩ };
      s.msg 4 = some m ∧ s.mayReach m = true ∧ s.inOrder m = true ∧ ((s.tile 0).trigs[(1 : Fin 16)]).count = 1 ∧ (s.tile 0).regular < 16)
    ∧ (((sending (tmsg .send) { trigs := (Vector.replicate 16 ({} : Trigger)).set 1 ⟨0x20000#64, 0#64⟩ }).tile 0).trigs[(1 : Fin 16)]).count = 2
    ∧ (let m := tmsg .spawn; (sending m { role := some 0 }).mayReach m = true ∧ m.img = ((sending m).tile 0).img ∧ ({ m with img := 1 } : TMsg).img ≠ 0)
    ∧ (let m := { tmsg .migr with mig := some res0 }; (sending m).mayReach m = true)
    ∧ (let m := tmsg .bounce; (sending m).mayReach m = true)
    ∧ (let m := tmsg .stealReq; let s := sending m { ready := [task0] }; s.mayReach m = true ∧ (s.tile 0).stealable = some 0
      ∧ ((sending m).tile 0).stealable = none)
    ∧ (let m := { tmsg .emptyReply with back := some (0, 0) };
      let s := sending m (({} : Tile).setStrand 0 { str [] with wait := some { (default : WaitRec) with kind := .reply, req := some 4 } });
      s.mayReach m = true ∧ (s.strand 0 0).live = true ∧ ((s.strand 0 0).wait.map (·.req)) = some (some 4))
    ∧ (sending (tmsg .spawn .ack)).msg 4 = some (tmsg .spawn .ack) ∧ (sending (tmsg .spawn (.retry 0))).now = 0 := by decide +kernel

/-- A message to stage queue 0, and a launch whose stage 0 steals. -/
def stmsg : TMsg := { tmsg .send with stq := some 0 }
def stealing (l : Launch) : Launch :=
  { queued1 l with placed := [0, 1], fp := { (queued1 l).fp with stages := [{ steal := true, set := 0xFF, role := 0, max := 1, min := 1, trigs := [] }] } }

/-- O51: stage queues with room and full, a head that is dispatched, the stream, elastic moves, and a tile that steals. -/
theorem wit_stages :
    (let s := sending stmsg {} queued1; s.mayReach stmsg = true ∧ s.streamed 0 0 = false
      ∧ (match s.curLaunch 0 with
        | some l => decide ((l.queued 0).length < l.depth 0) && decide (0 < l.queues.length) && l.cursor < l.hdr.wcnt
            && decide (l.hdr.eq < l.queues.length)
        | none => false) = true)
    ∧ (let s := sending stmsg {} (fun l => { queued1 l with queues := [[stmsg, stmsg, stmsg, stmsg]], fp := { l.fp with queues := [⟨3, 0, 4⟩] } });
      (match s.curLaunch 0 with
        | some l => decide (l.depth 0 ≤ (l.queued 0).length) && !s.drainingAt 0
            && (s.dispatchTile l 0 (tileAt (s.parts[(0 : Fin 24)]).row0 (s.parts[(0 : Fin 24)]).col0)).isSome
        | none => false) = true)
    ∧ (let s := { base {} stealing with now := 20000 }; (s.parts[(0 : Fin 24)]).elasticAt + 14000 ≤ s.now
      ∧ (∀ t ∈ [0, 1], s.mayApply t = true)
      ∧ (s.tile 0).freeSlot.isSome = true ∧ 0 < (s.tile 0).credits ∧ (s.tile 0).stealAt + 256 ≤ s.now ∧ (s.tile 0).freeInbox = some 0
      ∧ (match s.curLaunch 0 with
        | some l => (s.stealDir l 0 (s.tile 0).stealDir).isSome && ((l.fp.stages[(s.tile 0).stg]?).map (·.steal) == some true)
        | none => false) = true) := by decide +kernel

/-- A launch that is stopping. -/
def stop0 (l : Launch) : Launch := { l with st := .stopping }

/-- O52: a wait that expires, a late trap, a code line held, a strand held in handler mode, and the states of a slice that ends. -/
theorem wit_strand_events :
    (let w : WaitRec := { (default : WaitRec) with kind := .posted, bound := some 0, last := 0, count := 0 };
      let s := { base (({} : Tile).setStrand 0 { str [] with wait := some w }) with steps := 1 }; s.expires 0 0 = true)
    ∧ (let w (k : WaitKind) : WaitRec := { (default : WaitRec) with kind := k, bound := some 0, last := 0, count := 0 };
      let s (k : WaitKind) : State := { base (({} : Tile).setStrand 0 { str [] with wait := some (w k) }) with steps := 1 };
      (s .counter).expires 0 0 = true ∧ (s (.vsw 3)).expires 0 0 = true ∧ (s .tag).expires 0 0 = true)
    ∧ (let s := base (({} : Tile).setStrand 0 { str [] with late := some (.localRights, 0#64) }); s.ready 0 0 = true)
    ∧ (let x : Tile := { chold := some ⟨0, 64⟩ }; x.written.contains 64 = false ∧ ({ x with written := [64] } : Tile).written.contains 64 = true)
    ∧ (let s := base (({} : Tile).setStrand 0 { str [] hm with held := some .double });
      (s.strand 0 0).live = true ∧ (s.strand 0 0).held.isSome = true ∧ swMode (s.strand 0 0).sw = true)
    ∧ (let s := base {} stop0; s.stoppingAt 0 = true ∧ (s.tile 0).sliceEnd = none ∧ s.settledTile 0 = true ∧ s.partOf 0 = some 0)
    ∧ (let s := base { sliceEnd := some 0, cw := { (({} : Tile).cw) with ydl := 0 } } stop0;
      s.stoppingAt 0 = true ∧ (s.tile 0).sliceEnd = some 0 ∧ (s.tile 0).settled = false ∧ (s.tile 0).halted = false
      ∧ 0 + (s.tile 0).cw.ydl.toNat ≤ s.now)
    ∧ (let s := base { settled := true } stop0; (s.parts[(0 : Fin 24)]).gangStop = false ∧ (s.parts[(0 : Fin 24)]).draining = false
      ∧ (match s.curLaunch 0 with | some l => l.placed.all (fun t => (s.tile t).settled) | none => false) = true) := by decide +kernel

/-- A machine whose partition 0 retires tag 5, and one whose strand also waits for a tag. -/
def retiring : State := (base {} (fun l => { l with tags := [(5, .retiring)] })).modPart 0 (fun q => { q with retire := [⟨5#16, none⟩] })
def tagWait : State := (base (({} : Tile).setStrand 0 { str [] with wait := some { (default : WaitRec) with kind := .tag } })
  (fun l => { l with tags := [(5, .retiring)] })).modPart 0 (fun q => { q with retire := [⟨5#16, none⟩] })
/-- A strand of the one tile waits to switch the version window 0 to version 7. -/
def switching : State := { versioned [] with
  tiles := [(0, ({} : Tile).setStrand 0 { str [] with wait := some { (default : WaitRec) with kind := .vsw 0, target := some (some 7#16) } })] }

/-- O53: no message of a network is under way; a shootdown that is going; tags that retire; participants that have arrived. -/
theorem wit_plane_steps : (∀ q : Fin 24, ((base {}).parts[q]).netBusy = [] ∧ ((base {}).parts[q]).inMsgs = []
      ∧ ((base {}).parts[q]).heldPkts = [] ∧ ((base {}).parts[q]).answers = [])
    ∧ (let s := { base {} with etus := (base {}).etus.set 0 { (base {}).etus[(0 : Fin 56)] with box := { (base {}).etus[(0 : Fin 56)].box with go := true } } };
      ((s.etus[(0 : Fin 56)]).box).go = true)
    ∧ (retiring.parts[(0 : Fin 24)]).retire.find? (fun r => r.tag == 5#16) = some ⟨5#16, none⟩
    ∧ Retire.waits ⟨5#16, none⟩ (retiring.tagPending 0 5#16) = [] ∧ retiring.tagWaiters 0 = []
    ∧ (let s : State := { retiring with
        launches := retiring.launches.map (fun l => { l with wins := [win2] })
        plane := [{ req false (g0 3 0) (.store [1#8]) true .locked with tag := 5#16 }] };
      (Retire.waits ⟨5#16, none⟩ (s.tagPending 0 5#16)).isEmpty = false)
    ∧ (retiring.curLaunch 0).isSome = true ∧ oldest (tagWait.tagWaiters 0) = some (0, 0) ∧ (tagWait.strand 0 0).wait.isSome = true
    ∧ (match switching.curLaunch 0, switching.dir win3.key with
      | some l, some d => decide (l.placed.Nodup) && (l.wins[0]? == some win3) && win3.wr && (d.slotFor 7#16).isSome
          && !(switching.participants l win3).isEmpty && (switching.participants l win3).all (fun t => (switching.tile t).arrivedAt 0)
          && (switching.switchers 0 (switching.participants l win3)).all (fun x => x.2.2 == some 7#16)
      | _, _ => false) = true := by decide +kernel

/-! ## Launches, saves and restores -/

/-- Launch 1 as a launch that partition 0 holds, queued, or being started. -/
def starting (l : Launch) : Launch := { l with st := .starting }

/-- A container of one empty CODE image, one role, one stage on one tile, without a signature that anything could verify. -/
def box : List Byte := dws ([0x0000004C45584D49, 0x0000000400000001, 3392, 960] ++ List.replicate 12 0
  ++ [0x0100000000000000, 256, 64, 0] ++ [0x0200000000000000, 320, 64, 0] ++ [0x0300000000000000, 384, 400, 0] ++ [0x0400000000000000, 832, 65, 0]
  ++ List.replicate 8 0 ++ List.replicate 8 0
  ++ [0x0000000100010000, 0, 64, 0, 384, 0, 0, 0] ++ [0, 0x0000000000010001, 128, 0] ++ List.replicate 44 0 ++ List.replicate 16 0)
  ++ List.replicate 2432 0#8

/-- O54: a period that has passed; a partition with nothing to choose and with a launch at the head of a queue; a slice that ends with
the launch chosen again and not. -/
theorem wit_launch_choice :
    (let s := { base {} with now := 14000 }; (s.parts[(0 : Fin 24)]).st = .assigned ∧ (s.parts[(0 : Fin 24)]).deficitAt + 14000 ≤ s.now)
    ∧ (let s := (base {}).modPart 0 (fun q => { q with cur := none }); s.best 0 none = none
      ∧ (let s1 := (s.modLaunch 1 (fun l => { l with st := .queued })).modVdev 0 (fun d => { d with queues := d.queues.set 0 [1] });
        (s1.parts[(0 : Fin 24)]).cur = none ∧ (s1.best 0 none).isSome = true))
    ∧ (let s := ({ base {} with now := 100 }).modPart 0 (fun q => { q with slice := 100#32 });
      (match s.curLaunch 0 with
        | some l => s.sliceOver 0 l && l.st == .running && ((s.best 0 (some l)).map (·.id) == some l.id)
        | none => false) = true
      ∧ (let s1 := (s.modLaunch 1 (fun l => { l with st := .starting })); (match s1.curLaunch 0 with
        | some l => s1.sliceOver 0 l && l.st == .starting && l.container.isEmpty && l.wait.isNone
        | none => false) = true)
      ∧ (let s2 := s.modVdev 0 (fun d => { d with wgt := 0 }); (match s2.curLaunch 0 with
        | some l => (s2.best 0 (some l)).all (fun b => b.id != l.id)
        | none => false) = true)) := by decide +kernel

/-- O54: a container that is well formed, with its faceplate and an empty window table; headers that are refused. Reading all of it
takes translations whose retention is a free choice (log 12), so the read itself is shown of its first 64 bytes. -/
theorem wit_launch_start :
    (let s : State := { withPages {} with hbm := mwrite (withPages {}).hbm 0x2000000 (box.take 64), launches := [starting ((withPages {}).launches.headD default)] };
      (match s.curLaunch 0 with
        | some l => (match s.unitRead 0 l l.hdr.imgva 64 with | .ok _ h => h == box.take 64 && (containerLen h).isSome | _ => false)
        | none => false) = true)
    ∧ (match parseContainer box with
      | some c => (base {}).faceplateOk 0 {} c.fp && ((parseWins ((base {}).parts[(0 : Fin 24)]) 0 []).isSome) && tailZero box
      | none => false) = true
    ∧ (parseContainer (box.drop 1)).isNone = true := by decide +kernel

/-- A launch whose stream has three beats, the first of them at tile 0. -/
def loading (l : Launch) : Launch := { starting l with container := List.replicate 192 0#8, feeds := [(0, 0)] }

/-- O54: a beat that is due, tiles all loaded with and without a placed tile that the stream misses, quiescence, the watchdog, and an event
that is delivered, discarded, or waits. -/
theorem wit_launch_end :
    (let s := base { beats := 1 } loading; (match s.curLaunch 0 with
      | some l => decide ((s.tile 0).beats < l.container.length / 64) && (l.feeds.find? (fun f => f.1 == 0) == some (0, 0))
      | none => false) = true)
    ∧ (let s := base { beats := 3 } loading; (match s.curLaunch 0 with
      | some l => !l.feeds.any (fun f => decide ((s.tile f.1).beats < l.container.length / 64))
          && !l.placed.any (fun t => !l.feeds.any (fun f => f.1 == t))
      | none => false) = true)
    ∧ (let s := base { beats := 3 } (fun l => { loading l with placed := [0, 1] }); (match s.curLaunch 0 with
      | some l => l.placed.any (fun t => !l.feeds.any (fun f => f.1 == t)) | none => false) = true)
    ∧ (match (base {}).curLaunch 0 with | some l => l.st == .running && (base {}).quiescent 0 l | none => false) = true
    ∧ (let s := (base {}).modPart 0 (fun q => { q with dog := 2 ^ 33 }); 2 ^ 33 ≤ (s.parts[(0 : Fin 24)]).dog ∧ (s.parts[(0 : Fin 24)]).owns = true)
    ∧ stopKind 0x10 = true ∧ stopKind 0x14 = true ∧ stopKind 0x15 = false ∧ ((base {}).parts[(1 : Fin 24)]).owns = false
    ∧ (let s := (base {}).modVdev 0 (fun d => { d with events := [⟨0#16, 0, 1, 0#64, 0#64⟩], st := .paused, cipa := 0x100#64, rpa := 0x2000#64 });
      let d := s.vdevs[(0 : Fin 64)];
      (d.pi - (s.hdw d.cipa.toNat).truncate 32).toNat < 2 ^ d.rlog ∧ s.hbmPoison d.cipa.toNat 16 false = false ∧ d.st ≠ .running
      ∧ s.hbmPoison (d.rpa.toNat + 32 * (d.pi.toNat % 2 ^ d.rlog)) 32 true = false)
    ∧ (let s := (base {}).modVdev 0 (fun d => { d with events := [⟨0#16, 0, 1, 0#64, 0#64⟩], rlog := 0, pi := 1#32 });
      let d := s.vdevs[(0 : Fin 64)]; 2 ^ d.rlog ≤ (d.pi - (s.hdw d.cipa.toNat).truncate 32).toNat
        ∧ s.hbmPoison d.cipa.toNat 16 false = false) := by decide +kernel

/-- Partition 0 while it drains, its launch stopping. -/
def draining (l : Launch → Launch := id) : State := (base {} (fun z => l (stop0 z))).modPart 0 (fun q => { q with draining := true })
/-- The same with a task left to run, so that the launch is not quiescent, and a key. -/
def unfinished (key : Option (BitVec 256)) : State :=
  { draining with tiles := [(0, ({} : Tile).setStrand 0 (str []))], keys := (draining.keys).set 0 { key := key, ctr := 1 } }

/-- O55: a drain that is over, with counts that do not add up, quiescent, without a key, and one that can be sealed. -/
theorem wit_drain_end :
    (match draining.curLaunch 0 with
      | some l => draining.drainOver 0 l && (draining.endWaits l).quiescent 0 l && ((draining.endWaits l).sentSum l == (draining.endWaits l).recvSum l)
      | none => false) = true
    ∧ (let s := draining (fun l => { l with msent := 1 }); match s.curLaunch 0 with
      | some l => s.drainOver 0 l && ((s.endWaits l).sentSum l != (s.endWaits l).recvSum l) | none => false) = true
    ∧ (let s := unfinished (some 5#256); match s.curLaunch 0 with
      | some l => s.drainOver 0 l && !(s.endWaits l).quiescent 0 l && ((s.endWaits l).savePoison l).isNone
          && ((s.endWaits l).sentSum l == (s.endWaits l).recvSum l) | none => false) = true
    ∧ (((unfinished none).keys[(0 : Fin 64)]).key = none) := by decide +kernel

/-- An image of an empty body in the frame at 0x2000. -/
def image0 : Saved := { part := 0, tiles := [], recvq := Vector.replicate 16 [], inMsgs := [], unitBuf := [], key := 5#256, nctr := 1, plain := []
                        frame := 0x2000, coop := true, row0 := 0, col0 := 0 }
/-- Launch 1 suspended with it. -/
def susp (l : Launch) : Launch := { l with st := .suspended, saved := some image0, placed := [] }
def suspended (key : BitVec 256) (h : List Byte) : State :=
  { base {} susp with keys := ((base {}).keys).set 0 { key := some key, ctr := 2 }, hbm := mwrite [] 0x2000 h }
def susp1 : Launch := susp ((base {}).launches.headD default)

theorem leBytes_length : ∀ n v, (leBytes n v).length = n
  | 0, _ => rfl
  | n + 1, v => congrArg (· + 1) (leBytes_length n (v / 256))

/-- O55: an image whose frames hold what it was sealed with verifies, whatever the cipher gives. -/
theorem wit_image_ok : (suspended 5#256 (image0.header susp1)).imageOk susp1 image0 = true := by
  have hl : (image0.header susp1).length = 64 := by simp [Saved.header, Saved.aad, imageAad, leBytes_length]
  have hr : (suspended 5#256 (image0.header susp1)).hread 0x2000 64 = image0.header susp1 := by
    have := mread_mwrite (m := []) rfl 0x2000 (image0.header susp1)
    rw [hl] at this; exact this
  have hb : image0.body susp1 = [] := by simp [Saved.body, image0, Saved.blen, fixLen]
  have hi : ((suspended 5#256 (image0.header susp1)).readImage 0x2000 0) = [] := by simp [State.readImage]
  unfold State.imageOk
  rw [hb, show image0.frame = 0x2000 from rfl, show image0.blen = 0 from rfl, hr, hi]
  simp only [BEq.rfl, Bool.and_true]
  decide +kernel

/-- O55: an image under another key does not; what a suspension, a restore and a release need. -/
theorem wit_saves : (suspended 6#256 []).imageOk susp1 image0 = false
    ∧ (let s := (suspended 5#256 []).modPart 0 (fun q => { q with saving := true, reserve := [0x3000] });
      (s.curLaunch 0).isSome = true
      ∧ (match s.moreFrames 0 0 (s.mepOf (tileAt 0 0)).val (framesFor image0.blen - 0) [] with 
        | .got fs s1 => !fs.any s.heldPa && (s1.savePoisonAt fs image0.blen).isNone
        | _ => false) = true
      ∧ (match (s.modPart 0 (fun q => { q with reserve := [] })).moreFrames 0 0 (s.mepOf (tileAt 0 0)).val (framesFor image0.blen - 0) [] with
        | .dry _ _ => true
        | _ => false) = true)
    ∧ ((suspended 5#256 []).imageFrames image0).any (suspended 5#256 []).heldPa = false
    ∧ (suspended 5#256 []).imagePoison image0.frame image0.blen = none ∧ ((suspended 5#256 []).parts[(0 : Fin 24)]).restoring = false
    ∧ image0.unitBuf = [] ∧ (∀ y ∈ image0.tiles, y.tile.stopBuf = [])
    ∧ (let s := (base {} (fun l => { susp l with placed := [0] })).modPart 0 (fun q => { q with restoring := true });
      (s.parts[(0 : Fin 24)]).deferred = false ∧ ((s.curLaunch 0).map (·.st)) = some .suspended) := by
  refine ⟨?_, ?_⟩
  · have h : (((suspended 6#256 []).keys[susp1.vdev]).key == some image0.key) = false := by decide +kernel
    unfold State.imageOk; rw [h]; rfl
  · decide +kernel

/-! ## Tenancy, boot, service and module -/

/-- O56: an entry that is free on a node of its own, one whose bay is taken, one that is assigned, one that releases; a device whose
interrupt is held and whose notify word is armed. -/
theorem wit_tenancy : ((base {}).parts[(1 : Fin 24)]).owns = false
    ∧ (let s := (base {}).modPart 1 (fun q => { q with idx := 1 }); (s.parts[(1 : Fin 24)]).nodeOk = true ∧ s.bayTaken 1 = false)
    ∧ (base {}).bayTaken 1 = true ∧ ((base {}).parts[(0 : Fin 24)]).st = .assigned
    ∧ (((base {}).modPart 0 (fun q => { q with st := .releasing })).parts[(0 : Fin 24)]).st = .releasing
    ∧ (let s := { (base {}).modVdev 0 (fun d => { d with ip := true, cipa := 0x100#64 }) with hbm := mwrite [] 0x108 (leBytes 8 1) };
      (s.vdevs[(0 : Fin 64)]).ip = true ∧ s.hdw ((s.vdevs[(0 : Fin 64)]).cipa.toNat + 8) = 1#64
      ∧ s.hbmPoison ((s.vdevs[(0 : Fin 64)]).cipa.toNat + 8) 8 false = false)
    ∧ ((base {}).vdevs[(0 : Fin 64)]).ip = false := by decide +kernel

/-- The machine while it waits for its boot image. -/
def booting : State := { base {} with boot := { phase := 4 } }

/-- The first 128 bytes of a boot image that enters at 0x1000 and the zeros behind them, its signature at 128. -/
def bootBox : List Byte := dws ([0x00544F4F42574C54, 0x0000000000000001, 2560, 128, 0, 0, 0, 0, 0x1000] ++ List.replicate 7 0)
  ++ List.replicate 2432 0#8

/-- O57: power that is off and on, a boot that waits, an image that is refused, and retries that are due. -/
theorem wit_boot : ({ base {} with power := { on := false } } : State).coldReady = true ∧ (base {}).coldReady = false
    ∧ booting.boot.phase = 4 ∧ booting.boot.stopped = false ∧ booting.boot.retryAt = none ∧ (5#16).toNat < 0xFFF
    ∧ (parseBootHeader bootBox).isSome = true ∧ parseBootHeader [] = none ∧ booting.boot.pairB = false
    ∧ (let s : State := { booting with boot := { booting.boot with pairB := true, fails := 2 } };
      s.boot.retryAt = none ∧ s.boot.stopped = false ∧ (s.imageAccepted []).isNone = true ∧ 0xFFF ≤ (0xFFF#16).toNat)
    ∧ ({ base {} with power := { hold := true } } : State).power.hold = true
    ∧ (({ base {} with meters := { dev := [(1, 2#64)], shDev := [(1, 3#64)] } } : State).meters.shDev.map (·.1)).Nodup
    ∧ (let s : State := { booting with boot := { booting.boot with retryAt := some 0, fails := 3 } };
      s.now = 0 ∧ s.boot.pairOk s.fuses.backup = true)
    ∧ (let s : State := { booting with boot := { booting.boot with retryAt := some 0, fails := 3, noIsland := [1] } };
      s.boot.pairOk s.fuses.backup = false) ∧ (base {}).boot.phase = 7 := by decide +kernel

/-- 17 R396: BIST fails with two dead routers of which neither row nor column lies further than two from the other's, not with two that lie
three columns apart. -/
theorem test_bist_dead_routers : ({ dead := [tileAt 40 40, tileAt 42 42] } : Boot).bistFails {} = true
    ∧ ({ dead := [tileAt 40 40, tileAt 40 43] } : Boot).bistFails {} = false := by decide +kernel

/-- O57: an image is accepted where the signature verifies, which the model leaves open (log 7). -/
theorem wit_boot_image (h : Config.mldsaVerify 0#256 (Config.sha3 (bootBox.take 128)) (slice bootBox 128 2420) = true) :
    booting.imageAccepted bootBox = some (0#32, 128, 0#256, 0x1000#64) := by
  have hp : parseBootHeader bootBox = some (0#32, 128, 0#256, 0x1000#64) := by decide +kernel
  unfold State.imageAccepted
  rw [hp]
  exact if_pos ⟨by decide +kernel, by decide +kernel, h, by decide +kernel⟩

/-- A call of the management server, its request at 0x1000 and its reply at 0x2000. -/
def call : SvcReq := { caller := 0x40, rid := 1#64, reqPa := 0x1000#64, repPa := 0x2000#64 }
def serving (op : Nat) : State := { base {} with hbm := mwrite [] 0x1007 [BitVec.ofNat 8 op] }

/-- O58: shadows that are due, a report that may begin and one under way, keys of each kind, and calls. -/
theorem wit_service :
    (let s : State := { base {} with now := 14000, meters := { shDev := [(1, 5#64)], shTen := [(1, 5#64)] } };
      s.meters.addedAt + 14000 ≤ s.now ∧ (s.meters.shDev.map (·.1)).Nodup ∧ (s.meters.shTen.map (·.1)).Nodup ∧ s.meters.busy = none)
    ∧ (let r : ReportReq := { kind := 1, at_ := 0, dev := [], ten := [], tens := Vector.replicate 64 0#6, rec_ := none };
      ({ base {} with meters := { busy := some r } } : State).meters.busy = some r
      ∧ ({ base {} with meters := { busy := some r } } : State).svc.find? (fun r => !r.done && r.op != 3) = none)
    ∧ (5#64 : Word) ≠ ((base {}).keys[(0 : Fin 64)]).last ∧ ((base {}).keys[(0 : Fin 64)]).pend ≠ some 5#64 ∧ (base {}).saveRestore 0 = false
    ∧ ((base {}).modPart 0 (fun q => { q with saving := true })).saveRestore 0 = true
    ∧ (let s := base {}; s.svcAddr 0x40 0x2000#64 64 = true ∧ s.svcAddr 0x40 1#64 64 = false)
    ∧ (let s := serving 3; s.boot.phase = 7 ∧ s.svcCall call = some call ∧ call.rid ≠ 0#64 ∧ s.svcAddr 0x40 call.repPa 64 = true
      ∧ s.svcAddr 0x40 call.reqPa 64 = true ∧ s.svc.find? (fun x => x.is 0x40 call.rid) = none
      ∧ (s.svcAdd default).isSome = true
      ∧ s.svc.all (·.done) = true
      ∧ (match s.svcRecord call with | some bs => (match s.svcParse call bs with | .inr y => y.op == 3 | .inl _ => false) | none => false) = true)
    ∧ (let s := serving 2; (match s.svcRecord call with
        | some bs => (match s.svcParse call bs with | .inr y => y.op != 3 | .inl _ => false) | none => false) = true)
    ∧ (let s : State := { base {} with harts := (Vector.replicate 384 ({} : Hart)).set 0 { x := ((Vector.replicate 32 0#64).set 17 svcEid).set 10 1#64 } };
      s.svcCall { call with caller := 0, hart := some 0 } = some { caller := 0, rid := 1#64, reqPa := 0#64, repPa := 0#64, hart := some 0 })
    ∧ (base {}).svcCall { call with caller := 0, hart := some 0 } = none
    ∧ (let r : SvcRec := { (default : SvcRec) with caller := 0x40, rid := 5#64, op := 3, dev := 1 };
      let s : State := { base {} with svc := [r, { r with rid := 6#64, keyed := true }] };
      (s.svc.map (fun x => (x.caller, x.rid))).Nodup ∧ r.keyed = false ∧ s.svc.contains r = true
      ∧ s.svc.contains { r with rid := 6#64, keyed := true } = true) := by decide +kernel

/-- O59: a period that has passed with and without too much power, and each bound of the other clauses from both sides. -/
theorem wit_module : ((base {}).power.periodAt + 14000 ≤ ({ base {} with now := 14000 } : State).now)
    ∧ (base {}).power.pcap < (30001#16).toNat ∧ (30000#16).toNat ≤ (base {}).power.pcap ∧ ((base {}).parts[(0 : Fin 24)]).owns = true
    ∧ (110#8).toNat = 110 ∧ ({ base {} with power := { hold := true } } : State).power.hold = true
    ∧ ({ base {} with power := { holdV := true } } : State).power.holdV = true ∧ (base {}).power.holdV = false ∧ (base {}).power.hold = false
    ∧ ((base {}).parts[(0 : Fin 24)]).covers 0 = true ∧ ((base {}).curLaunch 0).isSome = true
    ∧ paStack (64 * 0x40000000) = 1 ∧ (base {}).paOk (64 * 0x40000000) = true ∧ (base {}).hbmBad.contains 0x40000000 = false
    ∧ field 0x5000000000000000#64 56 8 = 0x50 ∧ field 0x7F00000000000000#64 56 8 = 0x7F ∧ field 0x8000000000000000#64 56 8 = 0x80
    ∧ field 0x4F00000000000000#64 56 8 = 0x4F := by decide +kernel

/-- Is it a fault, a refusal? -/
def faults : Host.Outcome State Fault Refusal → Bool
  | .fault _ => true
  | _ => false
def refuses : Host.Outcome State Fault Refusal → Bool
  | .refused _ => true
  | _ => false

/-- The last obligation: a strand's turn without power, and a hart whose word is none of the wafer's. -/
theorem wit_stops : faults (step (turn { base {} with power := { on := false } } (.strand 0 0))) = true
    ∧ refuses (step (turn { base {} with hartsOn := true } (.hart 0))) = true ∧ (turn (base {}) (.hart 0)).pick.who = some (.hart 0) := by decide +kernel

/-! ## Routes and harts -/

/-- The last routers of a path's hops, those on the bypass marked. -/
def hops (l : List Hop) : List (Nat × Nat × Bool) := l.map (fun h => (h.row, h.col, h.bypass))

/-- The table of the example of 17 R397: router (47, 45) of bay 1 is dead. -/
def deadAt : RouteTable := { torus := false, dead := [tileAt 47 45] }

/-- 17 R395 to R397, its examples: the lengths 12, 17 and 15, and the bypasses. -/
theorem test_route_bypass : (deadAt.route wholeWafer (tileAt 47 40) (tileAt 47 50)).length = 12
    ∧ ((hops (deadAt.route wholeWafer (tileAt 47 40) (tileAt 47 50))).filter (·.2.2)).map (fun h => (h.1, h.2.1))
      = [(48, 44), (48, 45), (48, 46), (47, 46)]
    ∧ (deadAt.route wholeWafer (tileAt 40 45) (tileAt 55 45)).length = 17
    ∧ ((hops (deadAt.route wholeWafer (tileAt 40 45) (tileAt 55 45))).filter (·.2.2)).map (fun h => (h.1, h.2.1))
      = [(46, 46), (47, 46), (48, 46), (48, 45)]
    ∧ (deadAt.route wholeWafer (tileAt 47 33) (tileAt 50 45)).length = 15
    ∧ ((hops (deadAt.route wholeWafer (tileAt 47 33) (tileAt 50 45))).filter (·.2.2)).map (fun h => (h.1, h.2.1))
      = [(48, 44), (48, 45)] := by decide +kernel

/-- 17 R397: on the torus of a 60 × 32 partition, the shorter way round takes a wrap hop, in dateline class 1 from there to the turn. -/
theorem test_route_torus :
    (({ torus := true, dead := [] } : RouteTable).route ⟨0, 0, 60, 32⟩ (tileAt 0 31) (tileAt 1 1)).map (fun h => (h.row, h.col, h.wrap, h.line))
      = [(0, 0, true, 1), (0, 1, false, 1), (1, 1, false, 0)]
    ∧ (({ torus := true, dead := [] } : RouteTable).route ⟨0, 0, 60, 32⟩ (tileAt 0 0) (tileAt 0 16)).length = 16
    ∧ (({ torus := true, dead := [] } : RouteTable).route ⟨0, 0, 60, 32⟩ (tileAt 0 0) (tileAt 0 16)).all (fun h => !h.wrap) = true := by
  decide +kernel

/-- 20 R425: the first and the last port of each row of its table. -/
theorem test_port_tiles : [0, 7, 8, 11, 12, 15, 16, 23].map portTile
      = [tileAt 0 16, tileAt 0 240, tileAt 67 0, tileAt 112 0, tileAt 67 255, tileAt 112 255, tileAt 179 16, tileAt 179 240]
    ∧ [24, 31, 32, 35, 36, 39, 40, 43, 44, 47, 48, 55].map portTile
      = [tileAt 0 28, tileAt 0 252, tileAt 7 0, tileAt 52 0, tileAt 127 0, tileAt 172 0, tileAt 7 255, tileAt 52 255, tileAt 127 255,
         tileAt 172 255, tileAt 179 28, tileAt 179 252] := by decide +kernel

/-- Hart 0 with registers 5 and 6. -/
def hart56 : State := { base {} with hartsOn := true
                                     harts := (Vector.replicate 384 ({} : Hart)).set 0 { x := ((Vector.replicate 32 0#64).set 5 0x1000#64).set 6 7#64 } }

/-- Words of RISC-V: ADDI x7, x5, -1; SD x6, 8(x5); LR.D x7, (x5); ECALL. -/
theorem test_hart_base : ((hart56.hartBase 0xFFF28393#32).map (fun s => (s.hart.reg 7, s.hart.pc))) = some (0xFFF#64, 4#64)
    ∧ ((hart56.hartBase 0x0062B423#32).map (fun s => s.hdw 0x1008)) = some 7#64
    ∧ ((hart56.hartBase 0x1002B3AF#32).map (fun s => s.lrs)) = some [(0, 0x40)]
    ∧ ((hart56.hartBase 0x00000073#32).map (fun s => (s.hart.mcause, s.hart.mepc))) = some (11#64, 0#64) := by decide +kernel

/-- From reset, the first step is the cold boot (00 R2, 17 R385): it answers. -/
theorem test_reset_step : goesOn (step State.reset) = true := by rfl

end Sys2Proof.Tests
end

section
/-! Traps: what the entry to the handler, TRET, TRAP and BRK do to the strand that takes them (01 R26 to R32). -/

namespace Sys2Proof
namespace Machine

/-! ## The status word, bit by bit -/

theorem getLsbD_setBit {i : Nat} (w : Word) (b : Bool) (hi : i < 64) (j : Nat) :
    (setBit w i b).getLsbD j = if j = i then b else w.getLsbD j := by
  by_cases hj : j < 64
  · cases b <;> by_cases h : j = i <;> simp [setBit, h, hi, hj, Ne.symm]
  · rw [BitVec.getLsbD_of_ge _ _ (by omega), if_neg (by omega), BitVec.getLsbD_of_ge _ _ (by omega)]

/-- A word put together as the status word is: its upper half, four single bits, and bits [27:0]. -/
theorem getLsbD_swParts (u : BitVec 32) (p m q r : BitVec 1) (l : BitVec 28) (i : Nat) :
    (u ++ p ++ m ++ q ++ r ++ l : Word).getLsbD i = if i < 28 then l.getLsbD i else if i = 28 then r.getLsbD 0
      else if i = 29 then q.getLsbD 0 else if i = 30 then m.getLsbD 0 else if i = 31 then p.getLsbD 0
      else u.getLsbD (i - 32) := by
  refine (BitVec.getLsbD_append (x := u ++ p ++ m ++ q ++ r) (y := l)).trans ?_
  simp only [BitVec.getLsbD_append]
  rcases (by omega : i < 28 ∨ i = 28 ∨ i = 29 ∨ i = 30 ∨ i = 31 ∨ 32 ≤ i) with h | rfl | rfl | rfl | rfl | h
  case inr.inr.inr.inr.inr =>
    simp [show ¬i < 28 by omega, show ¬i - 28 < 1 by omega, show ¬i - 28 - 1 < 1 by omega, show ¬i - 28 - 1 - 1 < 1 by omega,
      show ¬i - 28 - 1 - 1 - 1 < 1 by omega, show i - 28 - 1 - 1 - 1 - 1 = i - 32 by omega, show i ≠ 28 by omega,
      show i ≠ 29 by omega, show i ≠ 30 by omega, show i ≠ 31 by omega]
  all_goals simp [*]

/-- R28's steps give the status word that the entry leaves. -/
theorem swTrap_eq (sw : Word) : swTrap sw = swEntered sw := by
  apply BitVec.eq_of_getLsbD_eq
  intro i hi
  simp only [swTrap, swEntered, getLsbD_swParts, swPP, swMode]
  rw [getLsbD_setBit _ _ (by decide), getLsbD_setBit _ _ (by decide), getLsbD_setBit _ _ (by decide), getLsbD_setBit _ _ (by decide)]
  rcases (by omega : i < 28 ∨ i = 28 ∨ i = 29 ∨ i = 30 ∨ i = 31 ∨ 32 ≤ i) with h | rfl | rfl | rfl | rfl | h
  case inl => simp [h, show i ≠ 28 by omega, show i ≠ 29 by omega, show i ≠ 30 by omega, show i ≠ 31 by omega]
  case inr.inr.inr.inr.inr =>
    simp [show ¬i < 28 by omega, show i ≠ 28 by omega, show i ≠ 29 by omega, show i ≠ 30 by omega, show i ≠ 31 by omega,
      show i - 32 < 32 by omega, h]
  all_goals simp

/-- R29's steps give the status word that TRET leaves. -/
theorem swTret_eq (sw tpxl : Word) : swTret sw tpxl = swReturned sw tpxl := by
  apply BitVec.eq_of_getLsbD_eq
  intro i hi
  simp only [swTret, swReturned, getLsbD_swParts, swPM, swSPP]
  rw [getLsbD_setBit _ _ (by decide), BitVec.getLsbD_or, BitVec.getLsbD_and, BitVec.getLsbD_shiftLeft,
     getLsbD_setBit _ _ (by decide), getLsbD_setBit _ _ (by decide)]
  have low (j : Nat) : (0xFFFFFFFF#64).getLsbD j = decide (j < 32) := by
    rw [show (0xFFFFFFFF#64) = BitVec.ofNat 64 (2 ^ 32 - 1) from rfl, BitVec.getLsbD_ofNat, Nat.testBit_two_pow_sub_one]
    simp; omega
  rw [low]
  rcases (by omega : i < 28 ∨ i = 28 ∨ i = 29 ∨ i = 30 ∨ i = 31 ∨ 32 ≤ i) with h | rfl | rfl | rfl | rfl | h
  case inl => simp [h, show i ≠ 28 by omega, show i ≠ 30 by omega, show i ≠ 31 by omega, show i < 32 by omega]
  case inr.inr.inr.inr.inr =>
    simp [show ¬i < 28 by omega, show i ≠ 28 by omega, show i ≠ 29 by omega, show i ≠ 30 by omega, show i ≠ 31 by omega,
      show i - 32 < 32 by omega, show ¬ i < 32 by omega, hi]
  all_goals simp

/-! ## The entry to the handler -/

/-- The trap words that an entry leaves (R28). -/
def TileWords.withTrap (w : TileWords) (k : Fin 4) (r : TrapRec) (sw : Word) : TileWords :=
  { w with
    tepc := r.epc, tval := r.tval, tcause := BitVec.ofNat 64 (64 * k.val + r.cause.code)
    tpxl := (sw.extractLsb' 32 32).setWidth 64 }

/-- A strand that has entered the handler (R28). -/
def Strand.entered (z : Strand) (tvec : Word) : Strand :=
  { z with pc := tvec, sw := swEntered z.sw, line := none, pend := none, wait := none, fixed := none }

theorem Tile.enterHandler_eq (x : Tile) (k : Fin 4) (r : TrapRec) :
    x.enterHandler k r = { x.setStrand k ((x.strand k).entered x.cw.tvec) with cw := x.cw.withTrap k r (x.strand k).sw } := by
  simp only [Tile.enterHandler, swTrap_eq, Nat.mul_comm k.val 64]
  rfl

@[simp] theorem Tile.strand_enterHandler (x : Tile) (k : Fin 4) (r : TrapRec) :
    (x.enterHandler k r).strand k = (x.strand k).entered x.cw.tvec := by
  rw [Tile.enterHandler_eq]
  exact Tile.strand_setStrand x k _

theorem Tile.strand_enterHandler_ne (x : Tile) {k j : Fin 4} (r : TrapRec) (h : j ≠ k) :
    (x.enterHandler k r).strand j = x.strand j := Tile.strand_setStrand_ne _ _ h

/-! ## Taking a trap -/

theorem State.takeTrapAt_enters {s : State} {u : TileId} {k : Fin 4} (h : s.entersHandler u k) (r : TrapRec) :
    s.takeTrapAt u k r = s.setTile u ((s.tile u).enterHandler k r) := by
  obtain ⟨hm, ho, hh⟩ := h
  unfold State.takeTrapAt
  rw [if_neg (by simpa [State.strand] using hm), if_neg (by simp [ho, hh])]

theorem State.takeTrapAt_pends {s : State} {u : TileId} {k : Fin 4} (hm : swMode (s.strand u k).sw = false)
    (h : (s.tile u).otherInHandler k = true ∨ (s.tile u).halting s.now = true) (r : TrapRec) :
    s.takeTrapAt u k r = s.setTile u ((s.tile u).setStrand k { s.strand u k with pend := some r, wait := none }) := by
  unfold State.takeTrapAt
  rw [if_neg (by simpa [State.strand] using hm), if_pos (by simpa using h)]
  rfl

theorem State.takeTrapAt_double {s : State} {u : TileId} {k : Fin 4} (hm : swMode (s.strand u k).sw = true) (r : TrapRec) :
    s.takeTrapAt u k r = (s.setTile u ((s.tile u).setStrand k { s.strand u k with held := some .double, wait := none })).tell
      (.strand u k ⟨.doubleTrap, (s.strand u k).pc, BitVec.ofNat 64 r.cause.code⟩ (s.tile u).cw.trapWords) := by
  unfold State.takeTrapAt
  rw [if_pos (by simpa [State.strand] using hm)]
  rfl

/-- Entering the handler changes the trap words and the strand, and nothing else (R28). -/
theorem entered_takeTrapAt {s : State} {u : TileId} {k : Fin 4} (h : s.entersHandler u k) (r : TrapRec) :
    Entered s (s.takeTrapAt u k r) u k r := by
  rw [State.takeTrapAt_enters h]
  exact {
    machine := rfl
    tiles := fun v hv => State.tile_setTile_ne s _ hv
    tile := by rw [State.tile_setTile, Tile.enterHandler_eq]; rfl
    strands := fun j hj => by rw [State.tile_setTile]; exact Tile.strand_enterHandler_ne _ r hj
    me := by rw [State.strand_setTile, Tile.strand_enterHandler]; rfl }

/-- Settles O19: the three ways of `takeTrapAt`, each by the state that it leaves. -/
theorem trapEntry : Obligations.TrapEntry := by
  refine ⟨fun s u k r h => entered_takeTrapAt h r, fun s u k r => ⟨fun hm hw => ?_, fun hm => ?_⟩⟩
  · rw [State.takeTrapAt_pends hm hw]
    simp only [State.tile_setTile, State.strand_setTile, Tile.strand_setStrand, Tile.cw_setStrand, true_and]
    exact fun j hj => Tile.strand_setStrand_ne _ _ hj
  · rw [State.takeTrapAt_double hm]
    simp [State.strand, TileWords.trapWords]

/-! ## The next pending trap (R28) -/

/-- What the search for a pending trap does: it finds none that may enter, or lets one of a live strand enter. -/
theorem Tile.nextPending_cases (x : Tile) (k : Fin 4) :
    x.nextPending k = { x with lastH := k }
    ∨ ∃ j r, (x.strand j).live = true ∧ (x.strand j).pend = some r
      ∧ x.nextPending k = ({ x with lastH := k } : Tile).enterHandler j r := by
  unfold Tile.nextPending
  dsimp only
  split
  · exact .inl rfl
  · split
    · rename_i j hj
      have hl := List.find?_some hj
      cases hp : (x.strand j).pend with
      | none => exact absurd hl (by simp [Tile.strand] at hp ⊢; simp [hp])
      | some r =>
        refine .inr ⟨j, r, ?_, hp, ?_⟩
        · exact (Bool.and_eq_true_iff.mp hl).1
        · have hp' : (({ x with lastH := k } : Tile).strand j).pend = some r := hp
          rw [hp']
    · exact .inl rfl

/-- A strand without a pending trap is left as it was. -/
theorem Tile.strand_nextPending {x : Tile} {k j : Fin 4} (h : (x.strand j).pend = none) : (x.nextPending k).strand j = x.strand j := by
  rcases x.nextPending_cases k with e | ⟨i, r, -, hp, e⟩ <;> rw [e]
  · rfl
  · exact Tile.strand_enterHandler_ne _ r (fun hij => by rw [hij, hp] at h; cases h)

/-- While a live strand is in handler mode, no pending trap enters. -/
theorem Tile.nextPending_of_inHandler {x : Tile} {k : Fin 4} (j : Fin 4) (h : (x.strand j).inHandler = true) :
    x.nextPending k = { x with lastH := k } := by
  unfold Tile.nextPending
  dsimp only
  rw [if_pos]
  simp only [Bool.or_eq_true, List.any_eq_true]
  exact .inr ⟨j, List.mem_finRange j, h⟩

/-- No byte of any space changes. -/
@[simp] theorem Tile.byte_nextPending (x : Tile) (k : Fin 4) (sp : Spc) (o : Nat) : (x.nextPending k).byte sp o = x.byte sp o := by
  rcases x.nextPending_cases k with e | ⟨i, r, -, -, e⟩ <;> rw [e] <;> cases sp <;> rfl

/-! ## Retiring, field by field -/

@[simp] theorem State.ct_retire (s : State) : s.retire.ct = s.ct := rfl
@[simp] theorem State.ck_retire (s : State) : s.retire.ck = s.ck := rfl
@[simp] theorem State.now_retire (s : State) : s.retire.now = s.now := rfl
@[simp] theorem State.notices_retire (s : State) : s.retire.notices = s.notices := rfl

/-- The strand after it has retired to `pc`. -/
theorem State.me_retireTo (s : State) (pc : Word) :
    (s.retireTo pc).me = { s.me with pc := pc, sw := swClearPP s.me.sw, wait := none, fixed := none } := by
  rw [State.retireTo_eq, State.me_setTile]
  exact Tile.strand_setStrand s.my s.ck _

/-- Its tile. -/
theorem State.my_retireTo (s : State) (pc : Word) :
    (s.retireTo pc).my = { s.my.setStrand s.ck { s.me with pc := pc, sw := swClearPP s.me.sw, wait := none, fixed := none } with
      cw := { s.my.cw with retired := (s.my.cw.retired + 1) % 2 ^ 64 } } := by
  rw [State.retireTo_eq, State.my_setTile]

theorem State.me_retire {s : State} (h : s.noPfx) :
    s.retire.me = { s.me with pc := nextPc s.me.pc, wait := none, fixed := none } := by
  rw [State.retire, State.me_retireTo, swClearPP_noPfx h]

theorem State.my_strand_retire_ne (s : State) {j : Fin 4} (h : j ≠ s.ck) : s.retire.my.strand j = s.my.strand j := by
  rw [State.retire, State.my_retireTo]
  exact Tile.strand_setStrand_ne s.my _ h

/-- A strand whose traps enter the handler at once is such a strand after it has retired. -/
theorem State.entersHandler_retire {s : State} (hp : s.noPfx) (h : s.entersHandler s.ct s.ck) :
    s.retire.entersHandler s.ct s.ck := by
  obtain ⟨hm, ho, hh⟩ := h
  refine ⟨?_, ?_, ?_⟩
  · have : s.retire.strand s.ct s.ck = s.retire.me := rfl
    rw [this, State.me_retire hp]
    exact hm
  · have e : s.retire.tile s.ct = s.retire.my := rfl
    rw [← ho, e]
    unfold Tile.otherInHandler
    congr 1
    funext j
    by_cases hj : j = s.ck
    · simp [hj]
    · rw [State.my_strand_retire_ne s hj]; rfl
  · have e : s.retire.tile s.ct = s.retire.my := rfl
    rw [← hh, e, State.retire, State.my_retireTo]
    rfl

/-! ## TRAP and BRK (04 R116) -/

theorem exec_trap_task {s : State} (hp : s.noPfx) (hm : swMode s.me.sw = false) (e : BitVec 48) :
    exec (.trap e) s = .next (s.retire.takeTrapAt s.ct s.ck ⟨.trap, nextPc s.me.pc, e.setWidth 64⟩) := by
  show execTrap e s = _
  simp only [execTrap, plain_ok hp, run_ok, hm, State.trapMe, State.me_retire hp]
  rfl

theorem exec_brk_task {s : State} (hp : s.noPfx) (hm : swMode s.me.sw = false) (e : BitVec 48) :
    exec (.brk e) s = .next (s.retire.takeTrapAt s.ct s.ck ⟨.breakpoint, nextPc s.me.pc, e.setWidth 64⟩) := by
  show execBrk e s = _
  simp only [execBrk, plain_ok hp, run_ok, hm, State.trapMe, State.me_retire hp]
  rfl

theorem exec_trap_handler {s : State} (hp : s.noPfx) (hm : swMode s.me.sw = true) (e : BitVec 48) :
    exec (.trap e) s = .next (s.takeTrapAt s.ct s.ck ⟨.trap, s.me.pc, e.setWidth 64⟩).retire := by
  show execTrap e s = _
  simp only [execTrap, plain_ok hp, run_ok, hm, State.trapMe, if_true]

theorem exec_brk_handler {s : State} (hp : s.noPfx) (hm : swMode s.me.sw = true) (e : BitVec 48) :
    exec (.brk e) s = .next ((s.retire.modMe (fun z => { z with held := some .escalation })).tell
      (.strand s.ct s.ck ⟨.escalation, s.my.cw.tepc, s.my.cw.tval⟩ s.my.cw.trapWords)) := by
  show execBrk e s = _
  simp only [execBrk, plain_ok hp, run_ok, hm, if_true]

/-- Settles O21: in task mode both are a trap behind the retired instruction; in handler mode TRAP is a double trap, and BRK the
escalation. -/
theorem softwareTraps : Obligations.SoftwareTraps := by
  intro s e hp
  refine ⟨fun h => ?_, fun hm => ?_⟩
  · have ent (c : Cause) := entered_takeTrapAt (State.entersHandler_retire hp h) ⟨c, nextPc s.me.pc, e.setWidth 64⟩
    exact ⟨⟨_, exec_trap_task hp h.1 e, ent .trap⟩, ⟨_, exec_brk_task hp h.1 e, ent .breakpoint⟩⟩
  · intro words
    refine ⟨⟨_, exec_trap_handler hp hm e, ?_⟩, ⟨_, exec_brk_handler hp hm e, ?_⟩⟩
    · rw [State.takeTrapAt_double hm]
      refine ⟨?_, rfl⟩
      rw [State.retire, State.me_retireTo]
      exact congrArg Strand.held ((State.me_setTile s _).trans (Tile.strand_setStrand _ _ _))
    · have me : (s.retire.modMe (fun z => { z with held := some .escalation })).me = { s.retire.me with held := some .escalation } := by
        rw [State.modMe_eq, State.me_setTile, Tile.strand_setStrand]
      refine ⟨congrArg Strand.held me, (congrArg Strand.sw me).trans ?_, rfl⟩
      rw [State.me_retire hp]

/-! ## TRET (01 R29) -/

/-- The strand behind its TRET. -/
def Strand.returned (z : Strand) (w : TileWords) : Strand :=
  { z with pc := w.tepc, sw := swReturned z.sw w.tpxl, line := none, wait := none, fixed := none }

/-- The tile behind a TRET of strand `k`, before a pending trap enters. -/
def Tile.tret (x : Tile) (k : Fin 4) : Tile :=
  { x.setStrand k ((x.strand k).returned x.cw) with cw := { x.cw with retired := (x.cw.retired + 1) % 2 ^ 64 } }

@[simp] theorem Tile.strand_tret (x : Tile) (k : Fin 4) : (x.tret k).strand k = (x.strand k).returned x.cw :=
  Tile.strand_setStrand x k _

theorem Tile.strand_tret_ne (x : Tile) {k j : Fin 4} (h : j ≠ k) : (x.tret k).strand j = x.strand j :=
  Tile.strand_setStrand_ne x _ h

@[simp] theorem Tile.byte_tret (x : Tile) (k : Fin 4) (sp : Spc) (o : Nat) : (x.tret k).byte sp o = x.byte sp o := by
  cases sp <;> rfl

theorem exec_tret_handler {s : State} (hp : s.noPfx) (hm : swMode s.me.sw = true) :
    exec .tret s = .next (s.setTile s.ct ((s.my.tret s.ck).nextPending s.ck)) := by
  have hme : (s.retireTo s.my.cw.tepc).modMe (fun z => { z with sw := swTret z.sw s.my.cw.tpxl, line := none })
      = s.setTile s.ct (s.my.tret s.ck) := by
    rw [State.modMe_eq, State.me_retireTo, State.my_retireTo, State.retireTo_eq, swClearPP_noPfx hp, swTret_eq]
    refine (State.setTile_setTile s s.ct _ _).trans (congrArg (s.setTile s.ct) ?_)
    simp only [Tile.tret, Tile.setStrand, State.ck_setTile, Vector.set_set]
    rfl
  show execTret s = _
  simp only [execTret, plain_ok hp, hm, need, if_true, run_ok, hme, State.modMy_eq, State.ct_setTile, State.ck_setTile,
    State.my_setTile, State.setTile_setTile]

theorem exec_tret_task {s : State} (hp : s.noPfx) (hm : swMode s.me.sw = false) :
    exec .tret s = .next (s.trapHere .privileged 0#64) := by
  show execTret s = _
  simp only [execTret, plain_ok hp, hm, need]
  rfl

/-- After a TRET the next instruction runs under PXL where SPP was set. -/
theorem swPP_swReturned (sw tpxl : Word) : swPP (swReturned sw tpxl) = swSPP sw := by
  simp only [swPP, swSPP, swReturned, getLsbD_swParts]
  simp

theorem swPXL_swReturned (sw tpxl : Word) : swPXL (swReturned sw tpxl) = tpxl.extractLsb' 0 32 := by
  apply BitVec.eq_of_getLsbD_eq
  intro i hi
  simp only [swPXL, swReturned, BitVec.getLsbD_extractLsb', getLsbD_swParts]
  simp [hi, show ¬32 + i < 28 by omega, show 32 + i ≠ 28 by omega, show 32 + i ≠ 29 by omega, show 32 + i ≠ 30 by omega,
    show 32 + i ≠ 31 by omega]

/-- Settles O20: what TRET leaves, by the search for a pending trap behind it. -/
theorem trapReturn : Obligations.TrapReturn := by
  intro s hp
  refine ⟨fun hm hpend => ?_, fun hm => exec_tret_task hp hm⟩
  have hstrand {j : Fin 4} (h : ((s.my.tret s.ck).strand j).pend = none) :
      (s.setTile s.ct ((s.my.tret s.ck).nextPending s.ck)).my.strand j = (s.my.tret s.ck).strand j := by
    rw [State.my_setTile, Tile.strand_nextPending h]
  have hme : (s.setTile s.ct ((s.my.tret s.ck).nextPending s.ck)).me = s.me.returned s.my.cw :=
    (hstrand (j := s.ck) (by rw [Tile.strand_tret]; exact hpend)).trans (Tile.strand_tret s.my s.ck)
  refine ⟨_, exec_tret_handler hp hm, ⟨rfl, fun u hu => State.tile_setTile_ne s _ hu⟩, by rw [hme]; rfl, by rw [hme]; rfl,
    fun r => ?_, ?_, fun sp n => by simp, fun h j hj => ?_⟩
  · exact (congrArg (fun z : Strand => z.regs[r]) hme).trans rfl
  · simp only [State.pfx?, hme, Strand.returned, swPP_swReturned, swPXL_swReturned]
  · have e := Tile.strand_tret_ne s.my hj
    rw [hstrand (by rw [e]; exact h j hj), e]

end Machine
end Sys2Proof
end

section
/-! System instructions: NOP, RDCYC and PFX, and the queue registers (04 R115 to R122, 01 R20 to R22, R31). -/

namespace Sys2Proof
namespace Machine

/-! ## PFX -/

/-- SW after a PFX: PXL takes its operand and PP is set (R31). -/
theorem swPrefix_eq (sw : Word) (p : BitVec 32) : swPrefix sw p = p ++ 1#1 ++ sw.extractLsb' 0 31 := by
  apply BitVec.eq_of_getLsbD_eq
  intro i hi
  have low (j : Nat) : (0xFFFFFFFF#64).getLsbD j = decide (j < 32) := by
    rw [show (0xFFFFFFFF#64) = BitVec.ofNat 64 (2 ^ 32 - 1) from rfl, BitVec.getLsbD_ofNat, Nat.testBit_two_pow_sub_one]
    simp; omega
  refine Eq.trans ?_ (BitVec.getLsbD_append (x := p ++ 1#1) (y := sw.extractLsb' 0 31)).symm
  simp only [swPrefix, BitVec.getLsbD_append]
  rw [getLsbD_setBit _ _ (by decide), BitVec.getLsbD_or, BitVec.getLsbD_and, BitVec.getLsbD_shiftLeft, low]
  rcases (by omega : i < 31 ∨ i = 31 ∨ 32 ≤ i) with h | rfl | h
  · simp [h, show i ≠ 31 by omega, show i < 32 by omega]
  · simp
  · simp [show ¬i < 31 by omega, show ¬i < 32 by omega, show i ≠ 31 by omega, show ¬i - 31 < 1 by omega, hi,
      show i - 31 - 1 = i - 32 by omega, show i - 32 < 64 by omega]

theorem State.me_modMe (s : State) (f : Strand → Strand) : (s.modMe f).me = f s.me := by
  rw [State.modMe_eq, State.me_setTile, Tile.strand_setStrand]

/-- A status word written behind what has retired. -/
theorem Retired.withSw {s t : State} {pc sw0 : Word} {ln : Option HeldLine} {rf : Reg → Word} (h : Retired s t pc sw0 ln rf)
    (f : Word → Word) : Retired s (t.modMe (fun z => { z with sw := f z.sw })) pc (f sw0) ln rf := by
  have hc : t.cur = s.cur := by rw [h.machine]
  have hct : t.ct = s.ct := congrArg Prod.fst hc
  have hck : t.ck = s.ck := congrArg Prod.snd hc
  have hme := State.me_modMe t (fun z => { z with sw := f z.sw })
  refine { machine := ?_, tiles := ?_, tile := ?_, strands := ?_, me := ?_, regs := ?_ }
  · exact congrArg (fun q : State => { q with tiles := (t.modMe (fun z => { z with sw := f z.sw })).tiles }) h.machine
  · intro u hu
    rw [State.modMe_eq, State.tile_setTile_ne _ _ (by rw [hct]; exact hu), h.tiles u hu]
  · simp only [State.modMe_eq, State.my_setTile, Tile.setStrand]
    rw [h.tile]
  · intro j hj
    rw [State.modMe_eq, State.my_setTile, Tile.strand_setStrand_ne _ _ (by rw [hck]; exact hj), h.strands j hj]
  · rw [hme, h.me]
  · intro r
    rw [← h.regs r, State.reg_def, State.reg_def, hme]

theorem exec_pfx {s : State} (h : s.noPfx) (p : BitVec 32) :
    exec (.pfx p) s = .next (s.retire.modMe (fun z => { z with sw := swPrefix z.sw p })) := by
  show execPfx p s = _
  rw [execPfx, plain_ok h, run_ok]

/-- PFX latches its operand and retires. -/
theorem retired_pfx {s : State} (h : s.noPfx) (p : BitVec 32) :
    Retired s (s.retire.modMe (fun z => { z with sw := swPrefix z.sw p })) (nextPc s.me.pc)
      (p ++ 1#1 ++ s.me.sw.extractLsb' 0 31) s.me.line s.reg := by
  have r := retired_none s (nextPc s.me.pc)
  rw [swClearPP_noPfx h] at r
  rw [← swPrefix_eq]
  exact r.withSw (fun sw => swPrefix sw p)

/-! ## RDCYC -/

/-- The registers after two writes. -/
theorem getElem_set_set (f : Vector Word 16) (d c : Reg) (v w : Word) (r : Reg) :
    ((f.set d v).set c w)[r] = if r = c then w else if r = d then v else f[r] := by
  have ne {i j : Reg} (h : i ≠ j) : (j : Nat) ≠ i := fun e => h (Fin.ext e.symm)
  by_cases hc : r = c
  · subst hc; simp
  · by_cases hd : r = d
    · subst hd; simp [hc, ne hc]
    · simp [hc, hd, ne hc, ne hd]

theorem State.setReg_setReg (s : State) (d c : Reg) (v w : Word) :
    (s.setReg d v).setReg c w = s.modMe (fun z => { z with regs := (z.regs.set d v).set c w }) := by
  simp [State.setReg_eq, State.modMe_eq]

theorem gives_rdcyc {s : State} (h : s.noPfx) (d : Reg) : Gives s (.rdcyc d none) d (BitVec.ofNat 64 s.my.cw.cyc) := by
  have e : exec (.rdcyc d none) s = simple s .ok (fun s => s.setReg d (BitVec.ofNat 64 s.my.cw.cyc)) := rfl
  have r := retired_setReg s (nextPc s.me.pc) d (BitVec.ofNat 64 s.my.cw.cyc)
  rw [swClearPP_noPfx h] at r
  refine ⟨_, e.trans (simple_ok h rfl _), ?_⟩
  rw [State.retire, State.me_setReg_pc]
  exact r

/-- RDCYC with both registers; the count of retired instructions does not count this one. -/
theorem givesRegs_rdcyc {s : State} (h : s.noPfx) (d c : Reg) : GivesRegs s (.rdcyc d (some c)) (fun r =>
    if r = c then BitVec.ofNat 64 s.my.cw.retired else if r = d then BitVec.ofNat 64 s.my.cw.cyc else s.reg r) := by
  have e : exec (.rdcyc d (some c)) s = simple s .ok (fun s =>
      (s.setReg d (BitVec.ofNat 64 s.my.cw.cyc)).setReg c (BitVec.ofNat 64 s.my.cw.retired)) := rfl
  refine ⟨_, e.trans (simple_ok h rfl _), ?_⟩
  have r := retired_regs s (nextPc s.me.pc) ((s.me.regs.set d (BitVec.ofNat 64 s.my.cw.cyc)).set c (BitVec.ofNat 64 s.my.cw.retired))
  simp only [getElem_set_set, swClearPP_noPfx h] at r
  rw [State.setReg_setReg, State.retire, State.me_modMe]
  exact r

/-! ## What has retired beside a change of the tile -/

theorem InTile.of_modMy {s t : State} {f : Tile → Tile} (h : InTile (s.modMy f) t) : InTile s t where
  machine := h.machine
  tiles u hu := (h.tiles u hu).trans (State.tile_setTile_ne s _ hu)

theorem Retired.me_pc {s t : State} {pc sw : Word} {ln : Option HeldLine} {rf : Reg → Word} (h : Retired s t pc sw ln rf) :
    t.me.pc = pc := by rw [h.me]

theorem Retired.me_sw {s t : State} {pc sw : Word} {ln : Option HeldLine} {rf : Reg → Word} (h : Retired s t pc sw ln rf) :
    t.me.sw = sw := by rw [h.me]

theorem Retired.byte {s t : State} {pc sw : Word} {ln : Option HeldLine} {rf : Reg → Word} (h : Retired s t pc sw ln rf)
    (sp : Spc) (o : Nat) : t.my.byte sp o = s.my.byte sp o := by
  rw [h.tile]
  cases sp <;> rfl

/-- What has retired leaves the queues. -/
theorem Retired.queues {s t : State} {pc sw : Word} {ln : Option HeldLine} {rf : Reg → Word} (h : Retired s t pc sw ln rf) :
    t.my.tokq = s.my.tokq ∧ t.my.cmdq = s.my.cmdq ∧ t.my.hold = s.my.hold ∧ t.my.resv = s.my.resv := by
  rw [h.tile]
  exact ⟨rfl, rfl, rfl, rfl⟩

theorem State.my_modMy (s : State) (f : Tile → Tile) : (s.modMy f).my = f s.my := by rw [State.modMy_eq, State.my_setTile]

theorem State.me_modMy {s : State} {f : Tile → Tile} (hf : (f s.my).strands = s.my.strands) : (s.modMy f).me = s.me := by
  rw [State.modMy_eq, State.me_setTile, Tile.strand, hf]
  rfl

theorem retired_modMy {s : State} (h : s.noPfx) (f : Tile → Tile) (hf : (f s.my).strands = s.my.strands) :
    Retired (s.modMy f) (s.modMy f).retire (nextPc s.me.pc) s.me.sw s.me.line s.reg := by
  have r := retired_none (s.modMy f) (nextPc (s.modMy f).me.pc)
  have hreg : (s.modMy f).reg = s.reg := funext fun i => by rw [State.reg_def, State.reg_def, State.me_modMy hf]
  rw [hreg, State.me_modMy hf, swClearPP_noPfx h] at r
  rw [State.retire, State.me_modMy hf]
  exact r

theorem retired_setReg_modMy {s : State} (h : s.noPfx) (f : Tile → Tile) (hf : (f s.my).strands = s.my.strands) (d : Reg) (v : Word) :
    Retired (s.modMy f) ((s.modMy f).setReg d v).retire (nextPc s.me.pc) s.me.sw s.me.line (s.regsWith d v) := by
  have r := retired_setReg (s.modMy f) (nextPc (s.modMy f).me.pc) d v
  have hreg : (s.modMy f).regsWith d v = s.regsWith d v := funext fun i => by
    rw [State.regsWith, State.regsWith, State.reg_def, State.reg_def, State.me_modMy hf]
  rw [hreg, State.me_modMy hf, swClearPP_noPfx h] at r
  rw [State.retire, State.me_setReg_pc, State.me_modMy hf]
  exact r

/-! ## QGET (04 R120) -/

/-- A completion queue with one of its tokens taken out. -/
def Tile.takeToken (x : Tile) (i : Fin 4) (n : Nat) : Tile := { x with tokq := x.tokq.set i (x.tokq[i].eraseIdx n) }

@[simp] theorem Tile.byte_takeToken (x : Tile) (i : Fin 4) (n : Nat) (sp : Spc) (o : Nat) :
    (x.takeToken i n).byte sp o = x.byte sp o := by cases sp <;> rfl

/-- QGET takes the token whose turn is the strand's. -/
theorem exec_qget_token {s : State} (h : s.noPfx) (d : Reg) (q : Fin 8) (try_ : Bool) {tk : Half}
    (ht : s.my.tokq[(Fin.ofNat 4 (q.val / 2) : Fin 4)][s.rank (.qget q)]? = some tk) :
    exec (.qget d q try_) s
      = .next ((s.modMy (fun x => x.takeToken (Fin.ofNat 4 (q.val / 2)) (s.rank (.qget q)))).setReg d (tk.setWidth 64)).retire := by
  have hlt := (List.getElem?_eq_some_iff.mp ht).1
  show execQget d q try_ s = _
  unfold execQget
  refine (simple_ok h (if_pos (by rw [decide_eq_true hlt]; rfl)) _).trans ?_
  simp only [ht]
  rfl

theorem exec_qget_try {s : State} (h : s.noPfx) (d : Reg) (q : Fin 8)
    (hn : s.my.tokq[(Fin.ofNat 4 (q.val / 2) : Fin 4)].length ≤ s.rank (.qget q)) :
    Gives s (.qget d q true) d 0x10000#64 := by
  have r := retired_setReg s (nextPc s.me.pc) d 0x10000#64
  rw [swClearPP_noPfx h] at r
  refine ⟨_, ?_, r⟩
  show execQget d q true s = _
  unfold execQget
  refine (simple_ok h (by simp) _).trans ?_
  simp only [List.getElem?_eq_none hn, State.retire, State.me_setReg_pc]

theorem exec_qget_wait {s : State} (h : s.noPfx) (d : Reg) (q : Fin 8)
    (hn : s.my.tokq[(Fin.ofNat 4 (q.val / 2) : Fin 4)].length ≤ s.rank (.qget q)) :
    exec (.qget d q false) s = .next (s.block { kind := .qget q, tval := 0x0800 + q.val }) := by
  show execQget d q false s = _
  unfold execQget
  simp only [simple, plain_ok h, Bool.or_false, decide_eq_true_eq]
  rw [if_neg (by omega)]
  rfl

/-! ## QPUT (04 R121, R122) -/

theorem exec_qput_wait {s : State} (h : s.noPfx) (q : Fin 8) (a : Reg) {w : WaitSpec}
    (hc : s.pushChk (Fin.ofNat 4 (q.val / 2)) false true true = .wait w) : exec (.qput q a) s = .next (s.block w) := by
  show execQput q a s = _
  simp only [execQput, simple, plain_ok h, hc, run]

/-- A command queue with an operand pushed, its hold ended. -/
def Tile.pushRaw (x : Tile) (i : Fin 4) (v : Word) : Tile :=
  { x with cmdq := x.cmdq.set i (x.cmdq[i] ++ [.raw v]), hold := x.hold.set i none }

@[simp] theorem Tile.byte_pushRaw (x : Tile) (i : Fin 4) (v : Word) (sp : Spc) (o : Nat) :
    (x.pushRaw i v).byte sp o = x.byte sp o := by cases sp <;> rfl

theorem exec_qput_ok {s : State} (h : s.noPfx) (q : Fin 8) (a : Reg)
    (hc : s.pushChk (Fin.ofNat 4 (q.val / 2)) false true true = .ok) :
    exec (.qput q a) s = .next (s.modMy (fun x => x.pushRaw (Fin.ofNat 4 (q.val / 2)) (s.reg a))).retire := by
  show execQput q a s = _
  rw [execQput, simple_ok h hc]
  rfl

/-- A raw push waits for the end of another strand's hold (R122). -/
theorem pushChk_held {s : State} {i : Fin 4} {k : Fin 4} (n raw bd : Bool) (hk : s.my.hold[i] = some k) (hne : k ≠ s.ck) :
    s.pushChk i n raw bd = .wait (heldWait i n) := by
  simp only [State.pushChk, hk, if_neg hne]

/-- A raw push waits for a free entry, which goes to the strand that blocked for one earliest (R21). -/
theorem pushChk_full {s : State} {i : Fin 4} (bd : Bool)
    (hf : (s.my.hold[i] = some s.ck ∧ queueDepth (2 * i.val) ≤ s.my.cmdq[i].length)
      ∨ (s.my.hold[i] = none ∧ queueDepth (2 * i.val) - s.my.cmdq[i].length ≤ s.cmdRank i)) :
    s.pushChk i false true bd = .wait (pushWait i false bd) := by
  have hfree (n : Nat) (hle : queueDepth (2 * i.val) - s.my.cmdq[i].length ≤ n) : ¬n < s.my.cmdFree i := Nat.not_lt.mpr hle
  rcases hf with ⟨hk, hf⟩ | ⟨hk, hf⟩
  · simp only [State.pushChk, hk, if_true, if_neg (hfree 0 (by omega))]
  · simp only [State.pushChk, hk]
    rw [if_neg (fun hc => hfree _ hf hc.1)]

/-- Settles O22: QGET by the token whose turn it is, QPUT by what its push finds. -/
theorem queueInstructions : Obligations.QueueInstructions := by
  intro s d a q h i n
  refine ⟨fun tk try_ ht => ?_, fun hn => ⟨exec_qget_try h d q hn, exec_qget_wait h d q hn⟩, fun k hk hne => ?_, fun hf => ?_, fun hc => ?_⟩
  · have r := retired_setReg_modMy h (fun x => x.takeToken i n) rfl d (tk.setWidth 64)
    obtain ⟨htok, hcmd, -, -⟩ := r.queues
    rw [State.my_modMy] at htok hcmd
    refine ⟨_, exec_qget_token h d q try_ ht, r.toInTile.of_modMy, ?_, fun j hj => ?_, hcmd, r.me_pc, r.me_sw, r.regs, fun sp o => ?_⟩
    · rw [htok]; exact Vector.getElem_set_self ..
    · rw [htok]; exact Vector.getElem_set_ne i.isLt j.isLt (fun e => hj (Fin.ext e.symm))
    · rw [r.byte, State.my_modMy, Tile.byte_takeToken]
  · exact exec_qput_wait h q a (pushChk_held false true true hk hne)
  · exact exec_qput_wait h q a (pushChk_full true hf)
  · have r := retired_modMy h (fun x => x.pushRaw i (s.reg a)) rfl
    obtain ⟨htok, hcmd, hhold, hresv⟩ := r.queues
    rw [State.my_modMy] at htok hcmd hhold hresv
    refine ⟨_, exec_qput_ok h q a hc, r.toInTile.of_modMy, ?_, fun j hj => ?_, ?_, htok, hresv, r.me_pc, r.me_sw, r.regs, fun sp o => ?_⟩
    · rw [hcmd]; exact Vector.getElem_set_self ..
    · rw [hcmd]; exact Vector.getElem_set_ne i.isLt j.isLt (fun e => hj (Fin.ext e.symm))
    · rw [hhold]; exact Vector.getElem_set_self ..
    · rw [r.byte, State.my_modMy, Tile.byte_pushRaw]

/-! ## Where a latched PFX is refused (01 R31, 02 R54) -/

/-- A matrix form that its own rules refuse under every PFX. -/
theorem matOp_illegal {s : State} {i : Instr} (hi : ∀ x, s.mxLegal i x = false) : matOp i s = .next s.trapIllegal := by
  unfold matOp
  split
  · rfl
  · simp only [hi, Bool.false_and, firstOf, legal]
    rfl

section
variable {s : State} (h : swPP s.me.sw = true)
include h

theorem simple_prefixed (c : Chk) (eff : State → State) : simple s c eff = .next s.trapIllegal := by
  rw [simple, plain_prefixed h]

theorem alu_prefixed (d : Reg) (v : State → Word) : alu d v s = .next s.trapIllegal := by rw [alu, simple_prefixed h]

theorem jump_prefixed (target : Word) (eff : State → State) : jump s target eff = .next s.trapIllegal := by
  simp only [jump, noPrefix, legal, h]
  rfl

theorem execBr_prefixed (c : BrCond) (a b : Reg) (t : BitVec 48) : execBr c a b t s = .next s.trapIllegal := by
  unfold execBr
  split
  · exact jump_prefixed h _ _
  · exact simple_prefixed h _ _

theorem execLoop_prefixed (d : Reg) (t : BitVec 48) : execLoop d t s = .next s.trapIllegal := by
  unfold execLoop
  dsimp only
  split
  · exact jump_prefixed h _ _
  · exact simple_prefixed h _ _

theorem localOp_prefixed (wc : WCls) (a : LAcc) (eff : State → State) : localOp s wc a eff = .next s.trapIllegal := by
  rw [localOp, simple_prefixed h]

theorem localAtomic_prefixed (m : LAmo) (eff : State → LAcc → State) : localAtomic s m eff = .next s.trapIllegal := by
  unfold localAtomic
  rw [simple_prefixed h]

theorem blankOp_prefixed (b : BlankRef) (c : Blank → Fin 64 → Chk) (eff : Blank → State → Blank) :
    blankOp s b c eff = .next s.trapIllegal := by
  unfold blankOp
  rw [simple_prefixed h]

theorem vswOp_prefixed (w : Fin 64) (g : Option Half) : vswOp w g s = .next s.trapIllegal := by rw [vswOp, simple_prefixed h]

theorem yieldOp_prefixed (d : Reg) (q : Bool) : yieldOp d q s = .next s.trapIllegal := by rw [yieldOp, plain_prefixed h]

/-- The engine forms that take no PFX check for one first. -/
theorem run_enginePlain_prefixed (q : Fin 4) (cs : List (Unit → Chk)) (eff : State → State) :
    run s (firstOf ((fun _ => s.enginePlain q) :: cs)) eff = .next s.trapIllegal := by
  have e : s.enginePlain q = .illegal := by simp [State.enginePlain, State.pfx?, h, legal]
  simp only [firstOf, e]
  rfl

theorem copyOp_prefixed (i : Instr) (m : CpArgs) : copyOp i m s = .next s.trapIllegal := by
  unfold copyOp
  rw [run_enginePlain_prefixed h]

theorem execEpref_prefixed (a : Reg) (len : BitVec 21) (tk : Tok) : execEpref a len tk s = .next s.trapIllegal := by
  unfold execEpref
  rw [run_enginePlain_prefixed h]

theorem netIssue_prefixed (i : Instr) (f : NetForm) (a : Reg) (col : Fin 8) (tk : Tok) :
    netIssue i f a col tk s = .next s.trapIllegal := by
  unfold netIssue
  rw [run_enginePlain_prefixed h]

variable (hw : s.me.wait = none)
include hw

/-- An access that has not been sent yet is refused like any other instruction. -/
theorem remoteOp_prefixed (a : RAcc) : remoteOp s a = .next s.trapIllegal := by
  rw [remoteOp, if_neg (by simp [State.asked, hw]), plain_prefixed h]

theorem nctrOp_prefixed (d : Reg) (ctr : Fin 32) (op : ReqOp) (acq : Bool) : nctrOp s d ctr op acq = .next s.trapIllegal := by
  unfold nctrOp
  rw [if_neg (by simp [State.asked, hw]), plain_prefixed h]

theorem execLdx_prefixed (m : XLoad) : execLdx m s = .next s.trapIllegal := by
  unfold execLdx
  cases m.ak
  · exact localOp_prefixed h _ _ _
  · exact localOp_prefixed h _ _ _
  · exact remoteOp_prefixed h hw _
  · exact remoteOp_prefixed h hw _

theorem execStx_prefixed (m : XStore) : execStx m s = .next s.trapIllegal := by
  unfold execStx
  cases m.ak
  · exact localOp_prefixed h _ _ _
  · exact localOp_prefixed h _ _ _
  · exact remoteOp_prefixed h hw _
  · exact remoteOp_prefixed h hw _

theorem execSteal_prefixed (d a : Reg) (pr : Bool) : execSteal d a pr s = .next s.trapIllegal := by
  unfold execSteal
  rw [if_neg (by simp [State.asked, hw]), plain_prefixed h]

/-- While a PFX waits, every instruction that accepts none takes *illegal instruction*. -/
theorem exec_prefixed (i : Instr) (ht : takesPrefix i = false) (he : (encodeFields i).isSome = true) :
    exec i s = .next s.trapIllegal := by
  cases i
  case unassignedOpcode => rfl
  case pfx | trap | tret | wrw | brk | rel | migr | endt => unfold exec; exact plain_prefixed h _ _
  case nop | rdw | rdcyc | qget | qput | bind | fence | waitc | bdef | wait | phintSet | phintClr | phintAll | send | spawn | arm | trig
      | launch | taga | tagr | tags | tagq | vpub | vget | vgetHome | vpin | vpinOff | rwait =>
    unfold exec; exact simple_prefixed h _ _
  case add | sub | mul | mulh | div | rem | and | or | xor | andn | shl | shr | sra | rot | min | max | slt | seq | sel | clz | ctz
      | popc | bfx | bfi | li | addx | subx | widx | gta => unfold exec; exact alu_prefixed h _ _
  case jmp | call | ret | jr => unfold exec; exact jump_prefixed h _ _
  case br => unfold exec; exact execBr_prefixed h _ _ _ _
  case loop => unfold exec; exact execLoop_prefixed h _ _
  case ld | st | ldp | stp => unfold exec; exact localOp_prefixed h _ _ _
  case amo | cas => unfold exec; exact localAtomic_prefixed h _ _
  case ldg | stg | ldv | stv | amog | amov | casg | casv | acq => unfold exec; exact remoteOp_prefixed h hw _
  case ldx => unfold exec; exact execLdx_prefixed h hw _
  case stx => unfold exec; exact execStx_prefixed h hw _
  case bsetReady | bsetFill | bwait | brel => unfold exec; exact blankOp_prefixed h _ _ _
  case yield | yieldQ => unfold exec; exact yieldOp_prefixed h _ _
  case vsw | vswLat => unfold exec; exact vswOp_prefixed h _ _
  case steal => unfold exec; exact execSteal_prefixed h hw _ _ _
  case cpy | cpyf | cpyg => unfold exec; exact copyOp_prefixed h _ _
  case mcfg => unfold exec; exact matOp_illegal (fun x => by simp [State.mxLegal, State.pfx?, h])
  case mzero => unfold exec; exact matOp_illegal (fun x => by simp [State.mxLegal, State.pfx?, h])
  case epref => unfold exec; exact execEpref_prefixed h _ _ _
  case nsend | nput | nget | nrecv => unfold exec; exact netIssue_prefixed h _ _ _ _ _
  case nctrRd | nctrWt => unfold exec; exact nctrOp_prefixed h hw _ _ _ _
  case fadd | fsub | fmul | fma | fdiv | fsqrt | fmin | fmax | fcmp | fcvt | fclass | fsgn | vadd | vsub | vmul | vfma | vmin | vmax
      | vabs | vneg | vcvt | vcmp | vsel | vand | vor | vxor | vshl | vshr | vmov | vbcast | viota | vgath | vscat | vpack | vexp | vlog
      | vrcp | vrsqrt | vtanh | vsigm | vred | vscan | vsamp | vdraw | vtopk | mload | mmul | mmulRs | mdrain | mdrainRem | mdrainTree
      | egemv | rtre => exact Bool.noConfusion ht
  all_goals exact Bool.noConfusion he

end

/-- Settles O17: NOP, RDCYC and PFX by what retires, the refusals by the check that every form without PFX makes first. -/
theorem systemAndPrefix : Obligations.SystemAndPrefix := by
  refine ⟨fun s d c p h => ⟨passes_simple h rfl, gives_rdcyc h d, givesRegs_rdcyc h d c, _, exec_pfx h p, retired_pfx h p⟩,
    fun s i h hw ht he => exec_prefixed h hw i ht he⟩

end Machine
end Sys2Proof
end

section
/-! Totality: every instruction and every unit's step answers a next state, and where a step stops (log 6, log 10). -/

namespace Sys2Proof
namespace Machine

/-! ## What goes on -/

/-- The meaning answers a next state. -/
def Answers (o : Out State) : Prop := ∃ t, o = .next t

theorem answers_next (s : State) : Answers (.next s) := ⟨s, rfl⟩

theorem answers_run (s : State) (c : Chk) (eff : State → State) : Answers (run s c eff) := run_next s c eff

theorem answers_plain (s : State) (c : Chk) (eff : State → State) : Answers (plain s c eff) := answers_run s _ eff

theorem answers_simple (s : State) (c : Chk) (eff : State → State) : Answers (simple s c eff) := by
  unfold simple
  exact answers_plain ..

theorem answers_alu (d : Reg) (v : State → Word) (s : State) : Answers (alu d v s) := by
  unfold alu
  exact answers_simple ..

theorem answers_transfer (s : State) (pc : Word) (eff : State → State) : Answers (transfer s pc eff) := by
  unfold transfer
  split
  · exact answers_run ..
  · split
    · split
      · exact answers_next _
      · exact answers_run ..
    · exact answers_next _

theorem answers_jump (s : State) (pc : Word) (eff : State → State) : Answers (jump s pc eff) := by
  unfold jump
  split
  · exact answers_transfer ..
  · exact answers_run ..

theorem answers_execBr (c : BrCond) (a b : Reg) (t : BitVec 48) (s : State) : Answers (execBr c a b t s) := by
  unfold execBr
  split
  · exact answers_jump ..
  · exact answers_simple ..

theorem answers_execLoop (d : Reg) (t : BitVec 48) (s : State) : Answers (execLoop d t s) := by
  unfold execLoop
  dsimp only
  split
  · exact answers_jump ..
  · exact answers_simple ..

theorem answers_fpOp (d : Reg) (dbl : Bool) (v : State → RMode → Num × FpFlags) (s : State) : Answers (fpOp d dbl v s) := by
  unfold fpOp
  exact answers_run ..

theorem answers_fpMove (d : Reg) (dbl : Bool) (v : State → Word × FpFlags) (s : State) : Answers (fpMove d dbl v s) := by
  unfold fpMove
  exact answers_run ..

theorem answers_localOp (s : State) (wc : WCls) (a : LAcc) (eff : State → State) : Answers (localOp s wc a eff) :=
  answers_simple s _ eff

theorem answers_localAtomic (s : State) (m : LAmo) (eff : State → LAcc → State) : Answers (localAtomic s m eff) :=
  answers_simple s _ _

theorem answers_remoteOp (s : State) (a : RAcc) : Answers (remoteOp s a) := by
  unfold remoteOp
  split
  · exact answers_next _
  · exact answers_plain ..

theorem answers_execLdx (m : XLoad) (s : State) : Answers (execLdx m s) := by
  unfold execLdx
  cases m.ak
  · exact answers_localOp ..
  · exact answers_localOp ..
  · exact answers_remoteOp ..
  · exact answers_remoteOp ..

theorem answers_execStx (m : XStore) (s : State) : Answers (execStx m s) := by
  unfold execStx
  cases m.ak
  · exact answers_localOp ..
  · exact answers_localOp ..
  · exact answers_remoteOp ..
  · exact answers_remoteOp ..

theorem answers_nctrOp (s : State) (d : Reg) (ctr : Fin 32) (op : ReqOp) (acq : Bool) : Answers (nctrOp s d ctr op acq) := by
  unfold nctrOp
  dsimp only
  split
  · exact answers_next _
  · exact answers_plain ..

theorem answers_execSteal (d a : Reg) (pr : Bool) (s : State) : Answers (execSteal d a pr s) := by
  unfold execSteal
  dsimp only
  split
  · exact answers_next _
  · exact answers_plain ..

theorem answers_blankOp (s : State) (b : BlankRef) (c : Blank → Fin 64 → Chk) (eff : Blank → State → Blank) :
    Answers (blankOp s b c eff) := by
  unfold blankOp
  exact answers_simple ..

theorem answers_vswOp (w : Fin 64) (g : Option Half) (s : State) : Answers (vswOp w g s) := by
  unfold vswOp
  exact answers_simple ..

theorem answers_yieldOp (d : Reg) (q : Bool) (s : State) : Answers (yieldOp d q s) := by
  unfold yieldOp
  exact answers_plain ..

theorem answers_copyOp (i : Instr) (m : CpArgs) (s : State) : Answers (copyOp i m s) := by
  unfold copyOp
  exact answers_run ..

theorem answers_netIssue (i : Instr) (f : NetForm) (a : Reg) (col : Fin 8) (tk : Tok) (s : State) :
    Answers (netIssue i f a col tk s) := by
  unfold netIssue
  exact answers_run ..

theorem answers_execFcvt (fn : CvtFn) (d a : Reg) (dbl : Bool) (s : State) : Answers (execFcvt fn d a dbl s) := by
  unfold execFcvt
  exact answers_run ..

theorem answers_execEpref (a : Reg) (len : BitVec 21) (tk : Tok) (s : State) : Answers (execEpref a len tk s) := by
  unfold execEpref
  exact answers_run ..

theorem answers_vecOp (i : Instr) (s : State) : Answers (vecOp i s) := by
  unfold vecOp
  split <;> exact answers_run ..

theorem answers_matOp (i : Instr) (s : State) : Answers (matOp i s) := by
  unfold matOp
  split <;> exact answers_run ..

theorem answers_execEgemv (d a b : Reg) (tk : Tok) (s : State) : Answers (execEgemv d a b tk s) := by
  unfold execEgemv
  split <;> exact answers_run ..

theorem answers_execRtre (fn : RedFn) (a : Reg) (slot : BitVec 8) (tk : Tok) (s : State) : Answers (execRtre fn a slot tk s) := by
  unfold execRtre
  split <;> exact answers_run ..

theorem answers_onReq (s : State) (m : Nat) (ok : Req → Bool) (eff : Req → State → State) : Answers (onReq s m ok eff) := by
  unfold onReq
  split <;> exact answers_next _

theorem answers_onMsg (s : State) (m : Nat) (ok : TMsg → Bool) (eff : TMsg → State → State) : Answers (onMsg s m ok eff) := by
  unfold onMsg
  split <;> exact answers_next _

theorem answers_arrive (s : State) (m : Nat) (ok : TMsg → Bool) (eff : TMsg → State → State) : Answers (arrive s m ok eff) :=
  answers_onMsg s m _ _

theorem answers_execStolenReply (m : Nat) (s : State) : Answers (execStolenReply m s) := by
  unfold execStolenReply
  split
  · exact answers_onMsg ..
  · exact answers_arrive ..

/-- Every instruction and every step of a unit answers a next state. -/
theorem exec_answers (i : Instr) (s : State) : Answers (exec i s) := by
  cases i
  -- instructions of strands
  case pfx | trap | tret | wrw | brk | rel | migr | endt => unfold exec; exact answers_plain ..
  case nop | rdw | rdcyc | qget | qput | bind | fence | waitc | bdef | wait | phintSet | phintClr | phintAll | send | spawn | arm | trig
      | launch | taga | tagr | tags | tagq | vpub | vget | vgetHome | vpin | vpinOff | rwait =>
    unfold exec; exact answers_simple ..
  case bsetReady | bsetFill | bwait | brel => unfold exec; exact answers_blankOp ..
  case vsw | vswLat => unfold exec; exact answers_vswOp ..
  case yield | yieldQ => unfold exec; exact answers_yieldOp ..
  case add | sub | mul | mulh | div | rem | and | or | xor | andn | shl | shr | sra | rot | min | max | slt | seq | sel | clz | ctz
      | popc | bfx | bfi | li | addx | subx | widx | gta => unfold exec; exact answers_alu ..
  case fadd | fsub | fmul | fma | fdiv | fsqrt => unfold exec; exact answers_fpOp ..
  case fmin | fmax | fcmp | fclass | fsgn => unfold exec; exact answers_fpMove ..
  case fcvt => unfold exec; exact answers_execFcvt ..
  case unassignedOpcode => unfold exec; exact answers_run ..
  case cpy | cpyf | cpyg => unfold exec; exact answers_copyOp ..
  case epref => unfold exec; exact answers_execEpref ..
  case nsend | nput | nget | nrecv => unfold exec; exact answers_netIssue ..
  case br => unfold exec; exact answers_execBr ..
  case loop => unfold exec; exact answers_execLoop ..
  case jmp | call | ret | jr => unfold exec; exact answers_jump ..
  case ld | st | ldp | stp => unfold exec; exact answers_localOp ..
  case amo | cas => unfold exec; exact answers_localAtomic ..
  case ldg | stg | ldv | stv | amog | amov | casg | casv | acq => unfold exec; exact answers_remoteOp ..
  case ldx => unfold exec; exact answers_execLdx ..
  case stx => unfold exec; exact answers_execStx ..
  case nctrRd | nctrWt => unfold exec; exact answers_nctrOp ..
  case steal => unfold exec; exact answers_execSteal ..
  case vadd | vsub | vmul | vfma | vmin | vmax | vabs | vneg | vcvt | vcmp | vsel | vand | vor | vxor | vshl | vshr | vmov | vbcast
      | viota | vgath | vscat | vpack | vexp | vlog | vrcp | vrsqrt | vtanh | vsigm | vred | vscan | vsamp | vdraw | vtopk =>
    unfold exec; exact answers_vecOp ..
  case mcfg | mload | mzero | mmul | mmulRs | mdrain | mdrainRem | mdrainTree => unfold exec; exact answers_matOp ..
  case egemv => unfold exec; exact answers_execEgemv ..
  case rtre => unfold exec; exact answers_execRtre ..
  -- steps of units that concern one request or one message
  case remoteRequest | remoteReply | remoteAck | remoteRefusal | gateRequestResend | virtualAccess => unfold exec; exact answers_onReq ..
  case stealRequest | taskMessageAck | taskMessageNack | taskMessageRetry | stageQueueAccept => unfold exec; exact answers_onMsg ..
  case triggerArrival | spawnArrival | migrArrival | bounceArrival => unfold exec; exact answers_arrive ..
  case stolenReply => unfold exec; exact answers_execStolenReply ..
  -- steps without a branch
  case fptailWrite | shootdownGo | partitionEnable | partitionRelease | stateDescheduled | statePaused | stateRunning | vdevReset
      | roundCombine | treeDelivery | firmwareRecord | keyGeneration | readBufferEntryAgeOut | referenceInputChange | warmReset | powerLoss
      | managementReset | attestationReport | meterSnapshot | translationResponse | serviceRestart => exact answers_next _
  case taskStart | stageDispatch | elasticReassignment | automaticSteal =>
    simp only [exec, execTaskStart, execStageDispatch, execElasticReassignment, execAutomaticSteal]
    repeat' split
    all_goals exact answers_next _
  case codeLineRepair | islandStrandAction | waitExpired | postedRefusalTrap | sliceEndSignal | yieldDeadline | settledReport |
      gangStop =>
    simp only [exec, execCodeLineRepair, execIslandStrandAction, execWaitExpired, execPostedRefusalTrap, execSliceEndSignal,
      execYieldDeadline, execSettledReport, execGangStop]
    repeat' split
    all_goals exact answers_next _
  case matrixCommandStart | matrixCompletion | remoteDrainCompletion | vectorOperationStart | vectorCompletion | copyStart |
      copyCompletion | copyFailure | egemvAccept | egemvPass | eprefWarmingEnd | contributionAccepted =>
    simp only [exec, execMatrixCommandStart, execMatrixCompletion, execRemoteDrainCompletion, execVectorOperationStart,
      execVectorCompletion, execCopyStart, execCopyCompletion, execCopyFailure, execEgemvAccept, execEgemvPass,
      execEprefWarmingEnd, execContributionAccepted]
    repeat' split
    all_goals exact answers_next _
  case networkCommandStart | packetArrival | sackArrival | rtoExpiry | notReadyRetry =>
    simp only [exec, execNetworkCommandStart, execPacketArrival, execSackArrival, execRtoExpiry, execNotReadyRetry]
    repeat' split
    all_goals exact answers_next _
  case shootdownComplete | versionSwitchPass | tagRetirementComplete =>
    simp only [exec, execShootdownComplete, execVersionSwitchPass, execTagRetirementComplete]
    repeat' split
    all_goals exact answers_next _
  case lnch | launchChoice | deficitUpdate | sliceExpiry | launchStart | loadBeat | firstTasksFire | streamDispatch |
      quiescenceDetected | eventDelivery | drainEnd | launchSuspended | restore | restoreRelease | watchdogExpiry =>
    simp only [exec, execLnch, execLaunchChoice, execDeficitUpdate, execSliceExpiry, execLaunchStart, execLoadBeat,
      execFirstTasksFire, execStreamDispatch, execQuiescenceDetected, execEventDelivery, execDrainEnd, execLaunchSuspended,
      execRestore, execRestoreRelease, execWatchdogExpiry]
    repeat' split
    all_goals exact answers_next _
  case partitionStop | scrubComplete | configWrite | coldBoot | bootImageFetched | bootFetchRetry | securityVersionFloorRaise |
      meterShadowAdd | deferredKeyGeneration | serviceCall | reportComplete =>
    simp only [exec, execPartitionStop, execScrubComplete, execConfigWrite, execColdBoot, execBootImageFetched,
      execBootFetchRetry, execSecurityVersionFloorRaise, execMeterShadowAdd, execDeferredKeyGeneration, execServiceCall,
      execReportComplete]
    repeat' split
    all_goals exact answers_next _
  case powerControlPeriod | stackThermalHold | stackThermalRelease | thermalTrip | thermalResetRelease | undervoltage |
      undervoltageRecovery | overvoltage | linkBeatResend | patrolScrub =>
    simp only [exec, execPowerControlPeriod, execStackThermalHold, execStackThermalRelease, execThermalTrip,
      execThermalResetRelease, execUndervoltage, execUndervoltageRecovery, execOvervoltage, execLinkBeatResend, execPatrolScrub]
    repeat' split
    all_goals exact answers_next _

end Machine
end Sys2Proof
end

section
/-! One step: where it stops, and what it runs. -/

namespace Sys2Proof
namespace Machine

/-! ## Where a step stops (log 6) -/

theorem close_answers (s : State) (i : Instr) (who : Option (TileId × Fin 4)) {o : Out State} (h : Answers o) :
    Answers (s.close i who o) := by
  obtain ⟨t, rfl⟩ := h
  exact answers_next _

/-- A deed stops only without power. -/
theorem deed_stop {s : State} {m : Mover} {due : Bool} {f : Fault} (h : s.deed m due = .stop f) :
    f = .noPower ∧ s.power.on = false := by
  unfold State.deed at h
  cases m with
  | event e =>
    dsimp only at h
    split at h
    · rename_i hp
      cases h
      exact ⟨rfl, by simpa using (Bool.and_eq_true_iff.mp hp).1⟩
    · split at h <;> cases h
  | strand t k =>
    dsimp only at h
    split at h
    · rename_i hp
      cases h
      exact ⟨rfl, by simpa using hp⟩
    · split at h
      · cases h
      · split at h
        · cases h
        · split at h <;> cases h
        · split at h <;> cases h
  | hart k =>
    dsimp only at h
    split at h
    · rename_i hp
      cases h
      exact ⟨rfl, by simpa using hp⟩
    · split at h
      · cases h
      · split at h
        · cases h
        · cases h
        · split at h <;> cases h

/-- A deed is refused only at a word of a hart that the model does not take over. -/
theorem deed_refuse {s : State} {m : Mover} {due : Bool} {r : Refusal} (h : s.deed m due = .refuse r) :
    r = .hartBase ∧ ∃ k u w, m = .hart k ∧ s.fetchHart k = .base u w ∧ u.hartBase w = none := by
  unfold State.deed at h
  cases m with
  | event e =>
    dsimp only at h
    split at h
    · cases h
    · split at h <;> cases h
  | strand t k =>
    dsimp only at h
    split at h
    · cases h
    · split at h
      · cases h
      · split at h
        · cases h
        · split at h <;> cases h
        · split at h <;> cases h
  | hart k =>
    dsimp only at h
    split at h
    · cases h
    · split at h
      · cases h
      · split at h
        · cases h
        · cases h
        · rename_i u w hf
          split at h
          · cases h
          · rename_i hb
            cases h
            exact ⟨rfl, k, u, w, rfl, hf, hb⟩

/-- A step goes on, or its deed stops or is refused. -/
theorem step_cases (s : State) : Answers (step s) ∨ (∃ f, s.nextDeed = .stop f ∧ step s = .fault f)
    ∨ ∃ r, s.nextDeed = .refuse r ∧ step s = .refused r := by
  unfold step
  split
  · exact .inl (close_answers _ _ _ (exec_answers _ _))
  · split
    · exact .inl (answers_next _)
    · exact .inl (close_answers _ _ _ (exec_answers _ _))
    · exact .inl (answers_next _)
    · rename_i f hd
      exact .inr (.inl ⟨f, hd, rfl⟩)
    · rename_i r hd
      exact .inr (.inr ⟨r, hd, rfl⟩)

/-- A deed that is not `still` is a mover's. -/
theorem nextDeed_of_who {s : State} {m : Mover} (h : s.pick.who = some m) : s.nextDeed = s.begin.deed m s.pick.due := by
  simp only [State.nextDeed, h]

theorem nextDeed_still {s : State} (h : s.pick.who = none) : s.nextDeed = .still s.begin := by simp only [State.nextDeed, h]

/-- Settles O60: no meaning stops, and a step stops only by its deed. -/
theorem everyInstructionAnswers : Obligations.EveryInstructionAnswers := by
  refine ⟨exec_answers, fun s f h => ?_, fun s r h => ?_⟩
  · rcases step_cases s with ⟨t, e⟩ | ⟨g, hd, e⟩ | ⟨r, hd, e⟩ <;> rw [e] at h <;> cases h
    cases hw : s.pick.who with
    | none => rw [nextDeed_still hw] at hd; cases hd
    | some m => exact deed_stop ((nextDeed_of_who hw).symm.trans hd)
  · rcases step_cases s with ⟨t, e⟩ | ⟨g, hd, e⟩ | ⟨r, hd, e⟩ <;> rw [e] at h <;> cases h
    cases hw : s.pick.who with
    | none => rw [nextDeed_still hw] at hd; cases hd
    | some m =>
      obtain ⟨hr, k, u, w, rfl, hf, hb⟩ := deed_refuse ((nextDeed_of_who hw).symm.trans hd)
      exact ⟨hr, k, u, w, rfl, hf, hb⟩

end Machine
end Sys2Proof
end

section
/-! A step runs what its mover fetches (02 R36 to R42), and the mover is what is due first. -/

namespace Sys2Proof
namespace Machine

/-! ## What a step's deed comes to -/

theorem step_of_run {s u : State} {m : Mover} {i : Instr} {who : Option (TileId × Fin 4)} (hs : s.dueStop = none)
    (hw : s.pick.who = some m) (hd : s.begin.deed m s.pick.due = .run i u who) : step s = u.close i who (exec i u) := by
  rw [← nextDeed_of_who hw] at hd
  simp only [step, hs, hd]

theorem step_of_did {s u v : State} {m : Mover} (hs : s.dueStop = none)
    (hw : s.pick.who = some m) (hd : s.begin.deed m s.pick.due = .did u v) : step s = .next (u.finish v) := by
  rw [← nextDeed_of_who hw] at hd
  simp only [step, hs, hd]

/-! ## A strand's turn -/

theorem power_on_of_noIssue {s : State} (h : s.noIssue = false) : s.power.on = true := by
  simp only [State.noIssue, Bool.or_eq_false_iff, Bool.not_eq_false'] at h
  obtain ⟨⟨⟨⟨-, hp⟩, -⟩, -⟩, -⟩ := h
  exact hp

/-- The deed of a strand that issues in its turn. -/
theorem deed_strand_run {s u : State} {t : TileId} {k : Fin 4} {due : Bool} {i : Instr} (hn : s.noIssue = false)
    (ht : (due || s.inTurn t k) = true) (hf : s.fetchStrand t k = .issue u i) (hst : s.stalls t k i = false)
    (ha : (due || !u.afterArrival t i) = true) : s.deed (.strand t k) due = .run i u (some (t, k)) := by
  have ha : (!due && u.afterArrival t i) = false := by
    rw [← Bool.not_eq_true', Bool.not_and, Bool.not_not]
    exact ha
  simp only [State.deed, power_on_of_noIssue hn, hn, ht, hf, hst, ha, Bool.not_true, Bool.false_eq_true, if_false, Bool.or_false]

/-- A slot that decodes is issued from the line that the strand holds. -/
theorem fetchStrand_held {s : State} {t : TileId} {k : Fin 4} {l : HeldLine} {i : Instr} (hr : s.ready t k = true)
    (hl : (s.strand t k).late = none) (hi : decodeSlot (lineSlot l.bits (field (s.strand t k).pc 0 3)) = some i)
    (hz : (s.strand t k).line = some l)
    (hp : l.addr = lineOf (s.strand t k).pc ∧ pcOk (s.strand t k).pc = true ∧ (s.strand t k).pc.toNat < 0x10000) :
    s.fetchStrand t k = .issue (s.issuing t k (lineSlot l.bits (field (s.strand t k).pc 0 3))) i := by
  have hr : State.ready { s with cur := (t, k) } t k = true := hr
  have hl : (State.strand { s with cur := (t, k) } t k).late = none := hl
  have hz : (State.strand { s with cur := (t, k) } t k).line = some l := hz
  have hslot : State.issueSlot { s with cur := (t, k) } t k l
      = .issue (s.issuing t k (lineSlot l.bits (field (s.strand t k).pc 0 3))) i := by
    show (match decodeSlot (lineSlot l.bits (field (s.strand t k).pc 0 3)) with | some i => _ | none => _) = _
    rw [hi]
    rfl
  simp only [State.fetchStrand, hr, hl, hz, Bool.not_true, Bool.false_eq_true, if_false]
  exact (if_pos hp).trans hslot

/-- A slot that decodes is issued from a line that the strand enters by its checks. -/
theorem fetchStrand_entered {s : State} {t : TileId} {k : Fin 4} {l : HeldLine} {i : Instr} (hr : s.ready t k = true)
    (hl : (s.strand t k).late = none) (hi : decodeSlot (lineSlot l.bits (field (s.strand t k).pc 0 3)) = some i)
    (hz : (s.strand t k).line = none) (he : (s.tile t).enterAt (s.strand t k).pc = .ok l) :
    s.fetchStrand t k = .issue ((s.entered t k l).issuing t k (lineSlot l.bits (field (s.strand t k).pc 0 3))) i := by
  have hr : State.ready { s with cur := (t, k) } t k = true := hr
  have hl : (State.strand { s with cur := (t, k) } t k).late = none := hl
  have hz : (State.strand { s with cur := (t, k) } t k).line = none := hz
  have he : (State.tile { s with cur := (t, k) } t).enterAt (State.strand { s with cur := (t, k) } t k).pc = .ok l := he
  have hpc : ((s.entered t k l).strand t k).pc = (s.strand t k).pc := by
    rw [State.entered, State.modStrand_eq, State.strand_setTile, Tile.strand_setStrand]
  simp only [State.fetchStrand, hr, hl, hz, Bool.not_true, Bool.false_eq_true, if_false, State.enterLine, he]
  show (match decodeSlot (lineSlot l.bits (field ((s.entered t k l).strand t k).pc 0 3)) with | some i => _ | none => _) = _
  rw [hpc, hi]
  show Fetched.issue ((s.entered t k l).issuing t k (lineSlot l.bits (field ((s.entered t k l).strand t k).pc 0 3))) i = _
  rw [hpc]

/-! ## A unit's turn, and a hart's -/

/-- The deed of a unit whose step is not put off. -/
theorem deed_event_run {s : State} {e : Instr} {due : Bool} (hu : isUnitStep e = true) (hp : (s.power.on || e == .coldBoot) = true)
    (hr : (!s.inReset || isModuleStep e) = true) (hb : (!s.boot.stopped || isResetStep e) = true) (ho : s.putOff e due = false) :
    s.deed (.event e) due = .run e s none := by
  have hp : (!s.power.on && e != .coldBoot) = false := by
    rw [bne, ← Bool.not_or, hp]
    rfl
  simp only [State.deed, hp, hu, hr, hb, ho, Bool.false_eq_true, if_false, Bool.not_false, Bool.and_self, if_true]

theorem deed_hart_run {s u : State} {h : Fin 384} {due : Bool} {i : Instr} (hp : s.power.on = true) (hr : s.inReset = false)
    (hb : s.boot.stopped = false) (hf : s.fetchHart h = .issue u i) : s.deed (.hart h) due = .run i u none := by
  simp only [State.deed, hp, hr, hb, hf, Bool.not_true, Bool.or_self, Bool.false_eq_true, if_false]

theorem deed_hart_did {s u v : State} {h : Fin 384} {due : Bool} {w : BitVec 32} (hp : s.power.on = true)
    (hr : s.inReset = false) (hb : s.boot.stopped = false) (hf : s.fetchHart h = .base u w) (hv : u.hartBase w = some v) :
    s.deed (.hart h) due = .did u v := by
  simp only [State.deed, hp, hr, hb, hf, hv, Bool.not_true, Bool.or_self, Bool.false_eq_true, if_false]

/-- What a hart that runs fetches: an instruction of custom-0 (R305), or a word of its base set (log 6). -/
theorem fetchHart_word {s : State} {h : Fin 384} {pa : Nat} (hon : s.hartsOn = true)
    (hi : s.boot.noIsland.contains (h.val / 8) = false)
    (ha : (s.ofHart h).hartAcc (s.ofHart h).hart (s.ofHart h).hart.pc .fetch 4 = .ok pa) :
    let w := BitVec.ofNat 32 (mval s.hbm pa 4)
    (∀ i, isCustom0 w = true → decodeHart w = some i → s.fetchHart h = .issue (s.ofHart h) i)
    ∧ (isCustom0 w = false → s.fetchHart h = .base (s.ofHart h) w) := by
  have hgo : ¬ (!s.hartsOn || s.boot.noIsland.contains (h.val / 8)) = true := by simp only [hon, hi]; decide
  have ha : State.hartAcc { s with curHart := h } (State.hart { s with curHart := h }) (State.hart { s with curHart := h }).pc .fetch 4
      = .ok pa := ha
  unfold State.fetchHart
  dsimp only
  rw [if_neg hgo, ha]
  dsimp only
  refine ⟨fun i hc hd => ?_, fun hc => ?_⟩
  · rw [hc, hd]
    rfl
  · rw [hc]
    rfl

/-! ## The mover -/

theorem pick_of_agenda {s : State} {m : Mover} {l : List Turn} (ha : s.agenda = ⟨0, m⟩ :: l)
    (h : s.asleep = true ∨ s.overdue = none) : s.pick.who = some m ∧ s.pick.due = false := by
  have ht : s.nextTurn = ⟨0, m⟩ := by simp only [State.nextTurn, ha]
  cases hs : s.asleep with
  | true => simp [State.pick, hs, ht]
  | false =>
    have h : s.overdue = none := h.resolve_left (by simp [hs])
    simp [State.pick, hs, h, ht]

theorem pick_of_overdue {s : State} {e : Instr} (hs : s.asleep = false) (he : s.overdue = some e) :
    s.pick.who = some (.event e) ∧ s.pick.due = true := by
  simp [State.pick, hs, he]

/-- With no key generation and no watchdog due, the period's end and then the meters' shadows are due. -/
theorem overdue_eq {s : State} (hk : ∀ v : Fin 64, (s.keys[v]).pend = none) (hd : s.dogDue = none) :
    s.overdue = s.periodDue.or (if s.now < s.meters.addedAt + period14k then none else some .meterShadowAdd) := by
  have hk : s.keyDue = none := by
    simp only [State.keyDue, Option.map_eq_none_iff, List.find?_eq_none, Bool.and_eq_true, not_and]
    intro v _ hv
    rw [show (s.keys[v]).pend = none from hk v] at hv
    cases hv
  simp only [State.overdue, hk, hd, Option.map_none, Option.none_or]

/-- Settles O5, by what each mover fetches and by the order of what is due. -/
theorem stepRunsDecodedInstruction : Obligations.StepRunsDecodedInstruction := by
  refine ⟨?strand, ?unit, ?hart, ?stop, fun s t i who => ⟨rfl, rfl⟩, ?mover⟩
  case strand =>
    intro s t k l i b z x hs hw c d hn ht hst hr hl hi
    refine ⟨fun hz ha hp hpc haf => ?_, fun hz he haf => ?_⟩
    · exact step_of_run hs hw (deed_strand_run hn ht (fetchStrand_held hr hl hi hz ⟨ha, hp, hpc⟩) hst haf)
    · exact step_of_run hs hw (deed_strand_run hn ht (fetchStrand_entered hr hl hi hz he) hst haf)
  case unit =>
    intro s e hs hw hu hp hr hb ho
    exact step_of_run hs hw (deed_event_run hu hp hr hb ho)
  case hart =>
    intro s h pa b w hs hw hp hr hb hon hi ha
    obtain ⟨hcustom, hbase⟩ := fetchHart_word (s := s.begin) hon hi ha
    refine ⟨fun i hc hd => ?_, fun u hc hu => ?_⟩
    · exact step_of_run hs hw (deed_hart_run hp hr hb (hcustom i hc hd))
    · exact step_of_did hs hw (deed_hart_did hp hr hb (hbase hc) hu)
  case stop =>
    intro s p c h
    simp only [step, h]
  case mover =>
    intro s m l ha
    refine ⟨pick_of_agenda ha, fun e => pick_of_overdue, fun _ hk hd => ⟨fun hp => ?_, fun hp hm => ?_, fun hp hm => ?_⟩⟩ <;>
      rw [overdue_eq hk hd, State.periodDue, period14k]
    · rw [if_neg (Nat.not_lt.mpr hp)]
      exact ⟨_, _, rfl⟩
    · rw [if_pos hp, if_neg (Nat.not_lt.mpr hm)]
      rfl
    · rw [if_pos hp, if_pos hm]
      rfl

end Machine
end Sys2Proof
end

section
/-! What happens to a strand from outside (01 R30, R40, 07 R203, 08 R211, 15 R362 to R366). -/

namespace Sys2Proof
namespace Machine

/-! ## Waits that expire (07 R203), and refusals that wait for a boundary (08 R211) -/

theorem State.endReqWait_eq (s : State) (r : Req) : s.endReqWait r = { s with etuWaits := (s.endReqWait r).etuWaits } := by
  unfold State.endReqWait
  generalize s.virtAcc r = a
  cases r.phase with
  | event id => rfl
  | frame => cases a <;> rfl
  | _ => rfl

/-- A request that its strand withdraws leaves the plane, with its wait at an ETU, and nothing else changes. -/
theorem State.withdraw_eq (s : State) (m : Option Nat) :
    s.withdraw m = { s with etuWaits := (s.withdraw m).etuWaits, plane := s.plane.filter (fun q => some q.id != m) } := by
  cases m with
  | none =>
    have hall : s.plane.filter (fun q => some q.id != none) = s.plane := List.filter_eq_self.mpr (fun _ _ => rfl)
    rw [hall]
    rfl
  | some n =>
    have hw : s.withdraw (some n) = (match s.req n with | some r => (s.endReqWait r).dropReq r.id | none => s) := rfl
    cases hr : s.req n with
    | none =>
      have hall : s.plane.filter (fun q => some q.id != some n) = s.plane := by
        simpa [State.req, List.filter_eq_self] using hr
      rw [hw, hr, hall]
    | some r =>
      have hid : r.id = n := by simpa using List.find?_some hr
      rw [hw, hr, ← hid]
      show (s.endReqWait r).dropReq r.id = _
      rw [s.endReqWait_eq r]
      rfl

theorem State.plane_withdraw (s : State) (m : Option Nat) :
    (s.withdraw m).plane = s.plane.filter (fun q => some q.id != m) := by rw [s.withdraw_eq m]

/-- The state in which the expired wait `w` is withdrawn (log 50). -/
def State.unwaited (s : State) (t : TileId) (w : WaitRec) : State :=
  match w.kind with
  | .counter => s.withdraw w.req
  | .vsw n => s.modTile t (fun x => x.unarrive n)
  | _ => s

theorem exec_waitExpired {s : State} {t : TileId} {k : Fin 4} {w : WaitRec} (hw : (s.strand t k).wait = some w)
    (he : s.expires t k = true) :
    exec (.waitExpired t k) s = .next (((s.unwaited t w).modStrand t k (fun z => { z with wait := none })).takeTrapAt t k
      (if w.kind = .tag then ⟨.tagExhaustion, (s.strand t k).pc, 0#64⟩ else ⟨.waitExpired, (s.strand t k).pc, w.tval⟩)) := by
  show execWaitExpired t k s = _
  simp only [execWaitExpired, he, hw, Bool.not_true, Bool.false_eq_true, if_false]
  obtain ⟨kind⟩ := w
  cases kind <;> rfl

theorem exec_postedRefusalTrap {s : State} {t : TileId} {k : Fin 4} {c : Cause} {v : Word} (hr : s.ready t k = true)
    (hl : (s.strand t k).late = some (c, v)) :
    exec (.postedRefusalTrap t k) s
      = .next ((s.modStrand t k (fun z => { z with late := none })).takeTrapAt t k ⟨c, (s.strand t k).pc, v⟩) := by
  show execPostedRefusalTrap t k s = _
  simp only [execPostedRefusalTrap, hr, hl, Bool.not_true, Bool.false_eq_true, if_false]

/-! ## The repair of a code line (01 R40) -/

theorem length_imageBytes (s : State) (t : TileId) (a n : Nat) : (s.imageBytes t a n).length = n := by
  simp only [State.imageBytes, List.length_append, List.length_replicate]
  exact Nat.add_sub_cancel' (List.length_take_le _ _)

/-- The tile `x` whose held line has been rewritten with the bytes `bs`; its strands are released. -/
def Tile.repaired (x : Tile) (h : CodeHold) (bs : List Byte) : Tile :=
  { ((x.putBytes .code h.addr bs).unpoison .code h.addr 64).setStrand h.slot { x.strand h.slot with fixed := some h.addr } with
    chold := none }

theorem Tile.byte_repaired (x : Tile) (h : CodeHold) (bs : List Byte) (a : Nat) :
    (x.repaired h bs).byte .code a = mget (mwrite x.code h.addr bs) a := rfl

theorem exec_codeLineRepair {s : State} {t : TileId} {h : CodeHold} (hh : (s.tile t).chold = some h)
    (hw : (s.tile t).written.contains h.addr = false) :
    exec (.codeLineRepair t) s = .next (s.setTile t ((s.tile t).repaired h (s.imageBytes t h.addr 64))) := by
  show execCodeLineRepair t s = _
  simp only [execCodeLineRepair, hh, hw, Bool.false_eq_true, if_false]
  rfl

/-- A line that the copy engine has written stops the partition. -/
theorem exec_codeLineRepair_written {s : State} {t : TileId} {h : CodeHold} (hh : (s.tile t).chold = some h)
    (hw : (s.tile t).written.contains h.addr = true) : exec (.codeLineRepair t) s
      = .next (s.stopAt t { kind := 0x14, d0 := BitVec.ofNat 64 h.addr, d1 := 0#64, row := rowOf t, col := colOf t }) := by
  show execCodeLineRepair t s = _
  simp only [execCodeLineRepair, hh, hw, if_true]

@[simp] theorem State.parts_modPart_self (s : State) (p : Fin 24) (f : Part → Part) :
    (s.modPart p f).parts[p] = f s.parts[p] := Vector.getElem_set_self p.isLt

theorem State.stopAt_due {s : State} {t : TileId} {p : Fin 24} (hp : s.partOf t = some p) (c : StopCause) :
    (((s.stopAt t c).parts[p]).stopDue).isSome = true ∧ (s.stopAt t c).tiles = s.tiles := by
  have he : s.stopAt t c = s.modPart p (fun q => { q with stopDue := some (q.stopDue.getD c) }) := by
    simp only [State.stopAt, hp]
  rw [he, State.parts_modPart_self]
  exact ⟨rfl, rfl⟩

/-! ## The island's action on a held strand (01 R30) -/

/-- The trap words that the island gives back. -/
def TileWords.givenBack (cw : TileWords) (w : TrapWords) : TileWords :=
  { cw with tcause := w.tcause &&& 0xFF#64, tepc := w.tepc, tval := w.tval, tpxl := w.tpxl.zeroExtend 64 }

/-- The tile whose strand `k` goes on in its handler with new trap words. -/
def Tile.resumed (x : Tile) (k : Fin 4) (w : TrapWords) : Tile :=
  { x.setStrand k { x.strand k with held := none } with cw := x.cw.givenBack w, lastH := k }

/-- The tile whose strand `k` is freed with all that it held. -/
def Tile.freed (x : Tile) (k : Fin 4) : Tile := ((x.freeHeld k).freeStrand k).nextPending k

theorem exec_islandStrandAction_resume {s : State} {t : TileId} {k : Fin 4} (hl : (s.strand t k).live = true)
    (hh : (s.strand t k).held.isSome = true) (hm : swMode (s.strand t k).sw = true) (w : TrapWords) :
    exec (.islandStrandAction t k (.resume w)) s = .next (s.setTile t ((s.tile t).resumed k w)) := by
  have hgo : (!((s.tile t).strand k).live || ((s.tile t).strand k).held.isNone) = false := by
    rw [Bool.or_eq_false_iff, Bool.not_eq_false', Option.isNone_eq_false_iff]
    exact ⟨hl, hh⟩
  show execIslandStrandAction t k (.resume w) s = _
  simp only [execIslandStrandAction, hgo, Bool.false_eq_true, if_false]
  rw [Tile.nextPending_of_inHandler k (by rw [Tile.strand_setStrand]; exact Bool.and_eq_true_iff.mpr ⟨hl, hm⟩)]
  rfl

theorem exec_islandStrandAction_free {s : State} {t : TileId} {k : Fin 4} (hl : (s.strand t k).live = true)
    (hh : (s.strand t k).held.isSome = true) :
    exec (.islandStrandAction t k .free) s = .next (s.setTile t ((s.tile t).freed k)) := by
  have hgo : (!((s.tile t).strand k).live || ((s.tile t).strand k).held.isNone) = false := by
    rw [Bool.or_eq_false_iff, Bool.not_eq_false', Option.isNone_eq_false_iff]
    exact ⟨hl, hh⟩
  show execIslandStrandAction t k .free s = _
  simp only [execIslandStrandAction, hgo, Bool.false_eq_true, if_false]
  rfl

/-- `y` has the strands of `x` and its inbox: the end of a hold touches queues, blanks, locks and posted accesses only (R122). -/
structure SameStrands (x y : Tile) : Prop where
  strands : y.strands = x.strands
  inbox   : y.inbox = x.inbox

theorem SameStrands.refl (x : Tile) : SameStrands x x := ⟨rfl, rfl⟩

theorem SameStrands.trans {x y z : Tile} (h : SameStrands x y) (h' : SameStrands y z) : SameStrands x z :=
  ⟨h'.strands.trans h.strands, h'.inbox.trans h.inbox⟩

theorem Tile.modBlanks_eq (x : Tile) (bs : List (Fin 64)) (f : Blank → Blank) :
    x.modBlanks bs f = { x with blanks := (x.modBlanks bs f).blanks } := by
  induction bs generalizing x with
  | nil => rfl
  | cons b bs ih => exact ih { x with blanks := x.blanks.set b (f x.blanks[b]) }

/-- What a withdrawn command gives back. -/
theorem Tile.withdraw_eq (x : Tile) (c : Cmd) : x.withdraw c
    = { x with blanks := (x.withdraw c).blanks, locks := (x.withdraw c).locks, posted := (x.withdraw c).posted } := by
  unfold Tile.withdraw Tile.endOps
  rw [Tile.modBlanks_eq (Tile.modBlanks _ _ _), Tile.modBlanks_eq (Tile.unlock _ _)]
  rfl

theorem Tile.hold_endHold (x : Tile) (k q : Fin 4) :
    (x.endHold k q).hold = if x.hold[q] = some k then x.hold.set q none else x.hold := by
  unfold Tile.endHold
  by_cases h : x.hold[q] = some k
  · rw [if_pos h, if_pos h]
    dsimp only
    split
    · rw [Tile.withdraw_eq]
      split <;> rfl
    · rfl
  · rw [if_neg h, if_neg h]

theorem Tile.sameStrands_endHold (x : Tile) (k q : Fin 4) : SameStrands x (x.endHold k q) := by
  unfold Tile.endHold
  split
  · dsimp only
    split
    · rw [Tile.withdraw_eq]
      split <;> exact ⟨rfl, rfl⟩
    · exact ⟨rfl, rfl⟩
  · exact SameStrands.refl x

theorem foldl_endHold_sameStrands (x : Tile) (k : Fin 4) (qs : List (Fin 4)) :
    SameStrands x (qs.foldl (fun x q => x.endHold k q) x) := by
  induction qs generalizing x with
  | nil => exact SameStrands.refl x
  | cons q qs ih => exact (x.sameStrands_endHold k q).trans (ih _)

theorem Tile.endHold_not_held (x : Tile) {k q j : Fin 4} (h : j = q ∨ x.hold[j] ≠ some k) : (x.endHold k q).hold[j] ≠ some k := by
  rw [Tile.hold_endHold]
  by_cases hq : x.hold[q] = some k
  · rw [if_pos hq]
    by_cases hjq : j = q
    · subst hjq
      rw [show (x.hold.set j none)[j] = none from Vector.getElem_set_self j.isLt]
      exact fun e => nomatch e
    · rw [show (x.hold.set q none)[j] = x.hold[j] from
        Vector.getElem_set_ne q.isLt j.isLt (fun e => hjq (Fin.ext e.symm))]
      exact h.resolve_left hjq
  · rw [if_neg hq]
    rcases h with rfl | h
    · exact hq
    · exact h

theorem foldl_endHold_not_held (x : Tile) {k j : Fin 4} (qs : List (Fin 4)) (h : j ∈ qs ∨ x.hold[j] ≠ some k) :
    (qs.foldl (fun x q => x.endHold k q) x).hold[j] ≠ some k := by
  induction qs generalizing x with
  | nil => exact h.resolve_left List.not_mem_nil
  | cons q qs ih =>
    refine ih _ ?_
    rcases h with hm | hn
    · rcases List.mem_cons.mp hm with hq | hm
      · exact .inr (x.endHold_not_held (.inl hq))
      · exact .inl hm
    · exact .inr (x.endHold_not_held (.inr hn))

@[simp] theorem Tile.hold_nextPending (x : Tile) (k : Fin 4) : (x.nextPending k).hold = x.hold := by
  rcases x.nextPending_cases k with e | ⟨i, r, -, -, e⟩ <;> exact (congrArg Tile.hold e).trans rfl

@[simp] theorem Tile.inbox_nextPending (x : Tile) (k : Fin 4) : (x.nextPending k).inbox = x.inbox := by
  rcases x.nextPending_cases k with e | ⟨i, r, -, -, e⟩ <;> exact (congrArg Tile.inbox e).trans rfl

/-- The tile behind the freeing of a slot, before a pending trap enters the handler. -/
theorem Tile.freeStrand_cases (x : Tile) (k : Fin 4) :
    let y := (x.setInbox (x.strand k).inbox false).setStrand k {}
    x.freeStrand k = y ∨ x.freeStrand k = y.nextPending k := by
  by_cases h : swMode (x.strand k).sw = true
  · exact .inr (if_pos h)
  · exact .inl (if_neg h)

theorem Tile.hold_freeStrand (x : Tile) (k : Fin 4) : (x.freeStrand k).hold = x.hold := by
  have hi : (x.setInbox (x.strand k).inbox false).hold = x.hold := by cases h : (x.strand k).inbox <;> rfl
  rcases x.freeStrand_cases k with e | e <;> rw [e]
  · exact hi
  · rw [Tile.hold_nextPending]
    exact hi

theorem Tile.inbox_freeStrand (x : Tile) {k : Fin 4} {e : Fin 16} (h : (x.strand k).inbox = some e) :
    (x.freeStrand k).inbox[e] = false := by
  have hi : (x.setInbox (x.strand k).inbox false).inbox[e] = false := by
    rw [h]
    exact Vector.getElem_set_self e.isLt
  rcases x.freeStrand_cases k with he | he <;> rw [he]
  · exact hi
  · rw [Tile.inbox_nextPending]
    exact hi

/-- The slot of a freed strand is empty: a trap enters the handler only in a slot where it waits. -/
theorem Tile.strand_freeStrand (x : Tile) (k : Fin 4) : (x.freeStrand k).strand k = {} := by
  rcases x.freeStrand_cases k with e | e <;> rw [e]
  · exact Tile.strand_setStrand _ k _
  · rw [Tile.strand_nextPending (by rw [Tile.strand_setStrand]), Tile.strand_setStrand]

theorem Tile.strand_freed (x : Tile) (k : Fin 4) : (x.freed k).strand k = {} := by
  rw [Tile.freed, Tile.strand_nextPending (by rw [Tile.strand_freeStrand]), Tile.strand_freeStrand]

theorem Tile.inbox_freed (x : Tile) {k : Fin 4} {e : Fin 16} (h : (x.strand k).inbox = some e) : (x.freed k).inbox[e] = false := by
  have hs : (x.freeHeld k).strand k = x.strand k :=
    congrArg (fun v : Vector Strand 4 => v[k]) (foldl_endHold_sameStrands x k (List.finRange 4)).strands
  rw [Tile.freed, Tile.inbox_nextPending]
  exact Tile.inbox_freeStrand _ (by rw [hs, h])

theorem Tile.hold_freed (x : Tile) (k q : Fin 4) : (x.freed k).hold[q] ≠ some k := by
  rw [Tile.freed, Tile.hold_nextPending, Tile.hold_freeStrand]
  exact foldl_endHold_not_held x _ (.inl (List.mem_finRange q))

/-! ## The end of a slice and the halt (15 R362 to R366) -/

/-- What a halt of tile `t` leaves as it was: HBM, the partitions, the launches, the other tiles, and of each strand of `t` its
registers, its PC and its status word. -/
structure HaltFrame (t : TileId) (s u : State) : Prop where
  hbm      : u.hbm = s.hbm
  parts    : u.parts = s.parts
  launches : u.launches = s.launches
  others   : ∀ v, v ≠ t → u.tile v = s.tile v
  strands  : ∀ j, (u.strand t j).regs = (s.strand t j).regs ∧ (u.strand t j).pc = (s.strand t j).pc
    ∧ (u.strand t j).sw = (s.strand t j).sw

theorem HaltFrame.refl (t : TileId) (s : State) : HaltFrame t s s := ⟨rfl, rfl, rfl, fun _ _ => rfl, fun _ => ⟨rfl, rfl, rfl⟩⟩

theorem HaltFrame.trans {t : TileId} {s u w : State} (h : HaltFrame t s u) (h' : HaltFrame t u w) : HaltFrame t s w where
  hbm := h'.hbm.trans h.hbm
  parts := h'.parts.trans h.parts
  launches := h'.launches.trans h.launches
  others v hv := (h'.others v hv).trans (h.others v hv)
  strands j := by
    obtain ⟨hr, hp, hs⟩ := h.strands j
    obtain ⟨hr', hp', hs'⟩ := h'.strands j
    exact ⟨hr'.trans hr, hp'.trans hp, hs'.trans hs⟩

theorem haltFrame_withdraw (t : TileId) (s : State) (m : Option Nat) : HaltFrame t s (s.withdraw m) := by
  rw [s.withdraw_eq m]
  exact ⟨rfl, rfl, rfl, fun _ _ => rfl, fun _ => ⟨rfl, rfl, rfl⟩⟩

theorem haltFrame_endWait (t : TileId) (s : State) (k : Fin 4) :
    HaltFrame t s (s.modStrand t k (fun z => { z with wait := none })) where
  hbm := rfl
  parts := rfl
  launches := rfl
  others v hv := State.tile_setTile_ne s _ hv
  strands j := by
    rw [State.modStrand_eq, State.strand_setTile]
    by_cases h : j = k
    · subst h
      rw [Tile.strand_setStrand]
      exact ⟨rfl, rfl, rfl⟩
    · rw [Tile.strand_setStrand_ne _ _ h]
      exact ⟨rfl, rfl, rfl⟩

theorem haltFrame_haltStrand (t : TileId) (s : State) (k : Fin 4) : HaltFrame t s (s.haltStrand t k) := by
  unfold State.haltStrand
  split
  · exact .refl t s
  · split
    · exact .refl t s
    · dsimp only
      split
      · exact (haltFrame_withdraw t s _).trans (haltFrame_endWait t _ k)
      · exact haltFrame_endWait t s k

theorem haltFrame_foldl_haltStrand (t : TileId) (s : State) (ks : List (Fin 4)) :
    HaltFrame t s (ks.foldl (fun s k => s.haltStrand t k) s) := by
  induction ks generalizing s with
  | nil => exact .refl t s
  | cons k ks ih => exact (haltFrame_haltStrand t s k).trans (ih _)

theorem haltFrame_setHalted (t : TileId) (s : State) (b : Bool) :
    HaltFrame t s (s.modTile t (fun x => { x with settled := b, halted := true })) where
  hbm := rfl
  parts := rfl
  launches := rfl
  others v hv := State.tile_setTile_ne s _ hv
  strands j := by
    rw [State.modTile_eq, State.strand_setTile]
    exact ⟨rfl, rfl, rfl⟩

theorem haltFrame_haltTile (t : TileId) (s : State) : HaltFrame t s (s.haltTile t) := by
  unfold State.haltTile
  exact (haltFrame_foldl_haltStrand t s (List.finRange 4)).trans (haltFrame_setHalted t _ (s.settledTile t))

theorem halted_haltTile (s : State) (t : TileId) : ((s.haltTile t).tile t).halted = true := by
  rw [State.haltTile, State.modTile_eq, State.tile_setTile]

/-- A tile that has halted stays halted when another halts. -/
theorem halted_haltTile_of_halted {s : State} {v : TileId} (t : TileId) (h : (s.tile v).halted = true) :
    ((s.haltTile t).tile v).halted = true := by
  by_cases hv : v = t
  · subst hv
    exact halted_haltTile s v
  · rw [(haltFrame_haltTile t s).others v hv]
    exact h

/-- What the halt of all placed tiles leaves as it was. -/
theorem foldl_haltTile_frame (s : State) (ts : List TileId) : (ts.foldl State.haltTile s).hbm = s.hbm
    ∧ (ts.foldl State.haltTile s).parts = s.parts ∧ (ts.foldl State.haltTile s).launches = s.launches := by
  induction ts generalizing s with
  | nil => exact ⟨rfl, rfl, rfl⟩
  | cons t ts ih =>
    obtain ⟨hh, hp, hl⟩ := ih (s.haltTile t)
    have hf := haltFrame_haltTile t s
    rw [List.foldl_cons, hh, hp, hl]
    exact ⟨hf.hbm, hf.parts, hf.launches⟩

theorem foldl_haltTile_halted (s : State) (ts : List TileId) {v : TileId} (h : v ∈ ts ∨ (s.tile v).halted = true) :
    ((ts.foldl State.haltTile s).tile v).halted = true := by
  induction ts generalizing s with
  | nil => exact h.resolve_left List.not_mem_nil
  | cons t ts ih =>
    rw [List.foldl_cons]
    refine ih _ ?_
    rcases h with hm | hh
    · rcases List.mem_cons.mp hm with rfl | hm
      · exact .inr (halted_haltTile s v)
      · exact .inl hm
    · exact .inr (halted_haltTile_of_halted t hh)

theorem State.tiles_afterHalt (s : State) (p : Fin 24) : (s.afterHalt p).tiles = s.tiles := by
  unfold State.afterHalt
  split <;> rfl

theorem State.hbm_afterHalt (s : State) (p : Fin 24) : (s.afterHalt p).hbm = s.hbm := by
  unfold State.afterHalt
  split <;> rfl

theorem State.tile_afterHalt (s : State) (p : Fin 24) (t : TileId) : (s.afterHalt p).tile t = s.tile t := by
  rw [State.tile, State.tiles_afterHalt]
  rfl

theorem exec_yieldDeadline {s : State} {t : TileId} {p : Fin 24} {c : Nat} (hs : s.stoppingAt t = true) (hp : s.partOf t = some p)
    (hc : (s.tile t).sliceEnd = some c) (hh : (s.tile t).halted = false) (hd : c + (s.tile t).cw.ydl.toNat ≤ s.now) :
    exec (.yieldDeadline t) s = .next ((s.haltTile t).afterHalt p) := by
  show execYieldDeadline t s = _
  simp only [execYieldDeadline, hp, hc, hs, hh, decide_eq_true hd, Bool.not_false, Bool.and_self, if_true]

/-- The state in which all placed tiles of a launch have halted, and partition `p` has noted the gang stop. -/
def State.gangHalted (s : State) (p : Fin 24) (ts : List TileId) : State :=
  (ts.foldl State.haltTile s).modPart p (fun q => { q with gangStop := true })

theorem exec_gangStop {s : State} {p : Fin 24} {l : Launch} (hl : s.curLaunch p = some l) (hs : l.st = .stopping)
    (hg : (s.parts[p]).gangStop = false) (hd : (s.parts[p]).draining = false)
    (ha : l.placed.all (fun t => (s.tile t).settled) = true) :
    exec (.gangStop p) s = .next ((s.gangHalted p l.placed).afterHalt p) := by
  show execGangStop p s = _
  simp only [execGangStop, hl, hs, hg, hd, ha, beq_self_eq_true, Bool.not_false, Bool.and_self, if_true]
  rfl

theorem parts_gangHalted (s : State) (p : Fin 24) (ts : List TileId) :
    (s.gangHalted p ts).parts[p] = { s.parts[p] with gangStop := true } := by
  obtain ⟨-, hp, -⟩ := foldl_haltTile_frame s ts
  rw [State.gangHalted, State.parts_modPart_self, hp]

/-- The halts change no launch, so that the tiles placed are those that have halted. -/
theorem placed_gangHalted {s : State} {p : Fin 24} {l : Launch} (hl : s.curLaunch p = some l) (ts : List TileId) :
    (s.gangHalted p ts).placed p = l.placed := by
  obtain ⟨-, -, hla⟩ := foldl_haltTile_frame s ts
  have hc : (s.gangHalted p ts).curLaunch p = s.curLaunch p := by
    have hid (n : Nat) : (s.gangHalted p ts).launch n = s.launch n :=
      congrArg (List.find? (fun (l : Launch) => l.id == n)) hla
    rw [State.curLaunch, parts_gangHalted, funext hid]
    rfl
  rw [State.placed, hc, hl]
  rfl

theorem afterHalt_gangHalted {s : State} {p : Fin 24} {l : Launch} (hl : s.curLaunch p = some l) :
    (s.gangHalted p l.placed).afterHalt p = (s.gangHalted p l.placed).modPart p (fun q => { q with draining := true }) := by
  have hall : ((s.gangHalted p l.placed).placed p).all (fun t => ((s.gangHalted p l.placed).tile t).halted) = true := by
    rw [placed_gangHalted hl, List.all_eq_true]
    exact fun v hv => foldl_haltTile_halted s l.placed (.inl hv)
  rw [State.afterHalt, if_pos hall]

/-! ## The statement -/

/-- Settles O52: each event's outcome, then what it leaves as it was. -/
theorem strandEvents : Obligations.StrandEvents := by
  intro s t k x z
  refine ⟨fun w hw he => ?expired, fun c v hr hl => ⟨_, exec_postedRefusalTrap hr hl, rfl⟩, fun h hh hw => ?repair,
    fun h p hh hw hp => ⟨_, exec_codeLineRepair_written hh hw, State.stopAt_due hp _⟩, fun hl hh => ⟨fun w hm => ?resume, ?free⟩,
    fun hs => ⟨fun hn => ?signal, fun hc hn hh hset => ?report, fun p c hp hc hh hd => ?deadline⟩,
    fun p l hl hst hg hd ha => ?gang⟩
  case expired =>
    have h := exec_waitExpired hw he
    refine ⟨fun hk => ⟨?_, s.plane_withdraw w.req⟩, fun n hk => ?_, fun hc hv => ?_⟩
    · rwa [show s.unwaited t w = s.withdraw w.req by rw [State.unwaited, hk]] at h
    · rwa [show s.unwaited t w = s.modTile t (fun x => x.unarrive n) by rw [State.unwaited, hk]] at h
    · rwa [show s.unwaited t w = s by
        unfold State.unwaited
        split
        · exact absurd ‹_› hc
        · exact absurd ‹_› (hv _)
        · rfl] at h
  case repair =>
    refine ⟨_, exec_codeLineRepair hh hw, ?_, fun hok i hi => ?_, fun a ha => ?_, fun v hv => State.tile_setTile_ne _ _ hv⟩
    · rw [State.tile_setTile]
      rfl
    · have hlen : i < (s.imageBytes t h.addr 64).length := by rw [length_imageBytes]; exact hi
      rw [State.byteAt, State.tile_setTile, Tile.byte_repaired, mget_mwrite_in (State.memOk_tile hok t).1 _ _ _ hlen,
        getElem!_pos _ i hlen]
    · rw [State.byteAt, State.tile_setTile, Tile.byte_repaired, mget_mwrite_out _ _ _ (by rw [length_imageBytes]; exact ha)]
      rfl
  case resume =>
    refine ⟨_, exec_islandStrandAction_resume hl hh hm w, ?_⟩
    have hs : ((s.tile t).resumed k w).strand k = { s.strand t k with held := none } := Tile.strand_setStrand (s.tile t) k _
    rw [State.strand_setTile, hs, State.tile_setTile]
    exact ⟨rfl, rfl, rfl, rfl, rfl, rfl, rfl, fun v hv => State.tile_setTile_ne _ _ hv⟩
  case free =>
    refine ⟨_, exec_islandStrandAction_free hl hh, ?_⟩
    rw [State.strand_setTile, State.tile_setTile, Tile.strand_freed]
    exact ⟨rfl, fun e he => Tile.inbox_freed _ he, Tile.hold_freed _ k, fun v hv => State.tile_setTile_ne _ _ hv⟩
  case signal =>
    show execSliceEndSignal t s = _
    simp only [execSliceEndSignal, hs, show (s.tile t).sliceEnd = none from hn, Option.isNone_none, Bool.and_self, if_true]
  case report =>
    show execSettledReport t s = _
    simp only [execSettledReport, hs, show (s.tile t).sliceEnd.isSome = true from hc, show (s.tile t).settled = false from hn,
      show (s.tile t).halted = false from hh, hset, Bool.not_false, Bool.and_self, if_true]
  case deadline =>
    obtain ⟨hhbm, -, -, hother, hstr⟩ := haltFrame_haltTile t s
    refine ⟨_, exec_yieldDeadline hs hp hc hh hd, ?_, by rw [State.hbm_afterHalt, hhbm], fun j => ?_, fun v hv => ?_⟩
    · rw [State.tile_afterHalt]
      exact halted_haltTile s t
    · rw [State.strand, State.tile_afterHalt]
      exact hstr j
    · rw [State.tile_afterHalt]
      exact hother v hv
  case gang =>
    obtain ⟨hhbm, -, -⟩ := foldl_haltTile_frame s l.placed
    refine ⟨_, (exec_gangStop hl hst hg hd ha).trans (congrArg _ (afterHalt_gangHalted hl)),
      fun v hv => foldl_haltTile_halted s l.placed (.inl hv), ?_, ?_, hhbm⟩
    · rw [State.parts_modPart_self, parts_gangHalted]
    · rw [State.parts_modPart_self]

end Machine
end Sys2Proof
end

section
/-! Scalar floating point: the forms that round deliver their exact result rounded once (04 R103, R104, R106, 03 R72, R76). -/

namespace Sys2Proof
namespace Machine

/-! ## A tile whose generator gives n values -/

/-- The generator lies in the control words; which words they then are is left open, so that no reading of another field computes them. -/
theorem Tile.rngAdvance_cw (x : Tile) (n : Nat) : ∃ w, x.rngAdvance n = { x with cw := w } := ⟨_, rfl⟩

@[simp] theorem Tile.strands_rngAdvance (x : Tile) (n : Nat) : (x.rngAdvance n).strands = x.strands := by
  obtain ⟨w, e⟩ := x.rngAdvance_cw n
  rw [e]

/-- Taking no value leaves the counter, and the tile, as they were. -/
theorem Tile.rngAdvance_zero (x : Tile) : x.rngAdvance 0 = x := by
  have h := x.cw.ctrh.isLt
  have l := x.cw.ctrl.isLt
  have hlo : BitVec.ofNat 64 ((x.rngCtr + 0) % 2 ^ 128 % 2 ^ 64) = x.cw.ctrl :=
    BitVec.eq_of_toNat_eq (by rw [BitVec.toNat_ofNat, Tile.rngCtr]; omega)
  have hhi : BitVec.ofNat 64 ((x.rngCtr + 0) % 2 ^ 128 / 2 ^ 64) = x.cw.ctrh :=
    BitVec.eq_of_toNat_eq (by rw [BitVec.toNat_ofNat, Tile.rngCtr]; omega)
  simp only [Tile.rngAdvance, hlo, hhi]

/-- What has retired in `s` has retired in `s` with its tile written back. -/
theorem Retired.of_modMy_self {s t : State} {pc sw : Word} {ln : Option HeldLine} {rf : Reg → Word} (h : Retired s t pc sw ln rf)
    {f : Tile → Tile} (hf : f s.my = s.my) : Retired (s.modMy f) t pc sw ln rf where
  machine := h.machine
  tiles u hu := (h.tiles u hu).trans (State.tile_setTile_ne s _ hu).symm
  tile := by rw [State.my_modMy, hf]; exact h.tile
  strands j hj := by rw [State.my_modMy, hf]; exact h.strands j hj
  me := by rw [State.me_modMy (congrArg Tile.strands hf)]; exact h.me
  regs := h.regs

/-! ## A floating-point result delivered -/

theorem State.regsWith_of_me {s u : State} (h : u.me = s.me) (d : Reg) (v : Word) : u.regsWith d v = s.regsWith d v :=
  funext fun r => by rw [State.regsWith, State.regsWith, State.reg_def, State.reg_def, h]

theorem retired_fpDone (s : State) (d : Reg) (v : Word) (fl : FpFlags) :
    Retired s (s.fpDone d v fl) (nextPc s.me.pc) (swOr (swClearPP s.me.sw) fl) s.me.line (s.regsWith d v) := by
  have r := (retired_setReg s (nextPc s.me.pc) d v).withSw (fun sw => swOr sw fl)
  rwa [State.fpDone, State.retire, State.me_setReg_pc]

/-- The values of the generator that an instruction under the strand's rounding mode uses (03 R76). -/
def State.fpDraws (s : State) : Nat := if rmodeOf s.roundCode = .sr then 1 else 0

/-- round(f, mode, v) under the issuing strand's mode, draw and flush bit: the code and the flags. -/
def State.fpRounded (s : State) (f : Nat) (v : Num) : Nat × FpFlags :=
  let md := rmodeOf s.roundCode
  roundNum f md (if md = .sr then drawHi s.my.rngCtr s.my.rngKey else 0) (f == 0 && swFR s.me.sw .c32) false v

theorem State.fpRound_eq (s : State) (f : Nat) (d : Reg) (v : Num) (fl : FpFlags) :
    s.fpRound f d v fl = (if rmodeOf s.roundCode = .sr then s.modMy (fun x => x.rngAdvance 1) else s).fpDone d
      (BitVec.ofNat 64 (s.fpRounded f v).1) (fl ||| (s.fpRounded f v).2) := by
  unfold State.fpRound State.fpRounded
  rfl

/-- A rounded result: the value once rounded, its flags beside those of the operation, and one value of the generator under SR. -/
theorem retired_fpRound (s : State) (f : Nat) (d : Reg) (v : Num) (fl : FpFlags) :
    Retired (s.modMy (fun x => x.rngAdvance s.fpDraws)) (s.fpRound f d v fl) (nextPc s.me.pc)
      (swOr (swClearPP s.me.sw) (fl ||| (s.fpRounded f v).2)) s.me.line
      (s.regsWith d (BitVec.ofNat 64 (s.fpRounded f v).1)) := by
  rw [State.fpRound_eq, State.fpDraws]
  split
  case isTrue =>
    have hme : (s.modMy (fun x => x.rngAdvance 1)).me = s.me :=
      State.me_modMy (Tile.strands_rngAdvance s.my 1)
    have r := retired_fpDone (s.modMy (fun x => x.rngAdvance 1)) d (BitVec.ofNat 64 (s.fpRounded f v).1)
      (fl ||| (s.fpRounded f v).2)
    rwa [State.regsWith_of_me hme, hme] at r
  case isFalse => exact (retired_fpDone s d _ _).of_modMy_self (Tile.rngAdvance_zero s.my)

theorem fpGives_of_fpRound {s : State} {i : Instr} {f : Nat} {d : Reg} {v : Num} {fl : FpFlags}
    (h : exec i s = .next (s.fpRound f d v fl)) :
    FpGives s i d (BitVec.ofNat 64 (s.fpRounded f v).1) (fl ||| (s.fpRounded f v).2) s.fpDraws :=
  ⟨_, h, retired_fpRound s f d v fl⟩

/-- A form that rounds, with its PFX, if any, accepted (R103). -/
theorem fpOp_ok {s : State} {dbl : Bool} (h : s.fpPfxOk (fpFmt dbl) (fpFmt dbl) (fpFmt dbl) true = true) (d : Reg)
    (v : State → RMode → Num × FpFlags) :
    fpOp d dbl v s = .next (s.fpRound (fpFmt dbl) d (v s (rmodeOf s.roundCode)).1 (v s (rmodeOf s.roundCode)).2) := by
  rw [fpOp, h]; rfl

theorem execFcvt_ok {s : State} {fn : CvtFn} {dbl : Bool}
    (h : s.fpPfxOk (cvtFormats fn dbl).2.2.1 0 (cvtFormats fn dbl).2.2.2 true = true) (d a : Reg) :
    execFcvt fn d a dbl s = .next (s.fpRound (cvtFormats fn dbl).2.1 d
      (readNum (cvtFormats fn dbl).1 ((cvtFormats fn dbl).1 == 0 && swFI s.me.sw .c32)
        (lowBits (s.reg a) (fwidth (cvtFormats fn dbl).1))) 0#5) := by
  unfold execFcvt
  generalize cvtFormats fn dbl = k at *
  obtain ⟨sf, df, pa, pd⟩ := k
  dsimp only at h ⊢
  rw [h]; rfl

/-- Settles O12: every form that rounds delivers its exact value by `fpRound`. -/
theorem floatingPointArithmetic : Obligations.FloatingPointArithmetic := by
  refine ⟨?_, ?_⟩
  · intro s o c f h md n r g
    have op {i : Instr} {d : Reg} (v : State → RMode → Num × FpFlags) (e : exec i s = fpOp d o.dbl v s) : g i d (v s md) :=
      fpGives_of_fpRound (e.trans (fpOp_ok h d v))
    exact ⟨op (fun s md => sumNum md [s.fpA o, s.fpB o]) rfl, op (fun s md => sumNum md [s.fpA o, (s.fpB o).neg]) rfl,
      op (fun s _ => mulNum (s.fpA o) (s.fpB o)) rfl, op (fun s md => fmaNum md (s.fpA o) (s.fpB o) (s.fpVal o.dbl (s.reg c))) rfl,
      op (fun s _ => divNum (s.fpA o) (s.fpB o)) rfl, op (fun s _ => sqrtNum (s.fpVal o.dbl (s.reg o.a))) rfl⟩
  · intro s fn d a dbl k h md v r
    have g := fpGives_of_fpRound (i := .fcvt fn d a dbl) (execFcvt_ok h d a)
    rwa [BitVec.zero_or] at g

end Machine
end Sys2Proof
end

section
/-! Number formats: NaN operands, values that a format holds, and block scales (03 R65 to R69, R72, R78). -/

namespace Sys2Proof
namespace Machine

/-! ## No PFX before the instruction -/

theorem State.pfx?_noPfx {s : State} (h : s.noPfx) : s.pfx? = none := by
  rw [State.pfx?, h]; rfl

theorem fpPfxOk_noPfx {s : State} (h : s.noPfx) (fa fb fd : Nat) (rounds : Bool) : s.fpPfxOk fa fb fd rounds = true := by
  rw [State.fpPfxOk, State.pfx?_noPfx h]

/-- With no PFX and DRM = 0 the mode is RNE, and no value of the generator is used. -/
theorem fpDraws_rne {s : State} (hp : s.noPfx) (hr : swDRM s.me.sw = 0) : s.fpDraws = 0 := by
  rw [State.fpDraws, State.roundCode, State.pfx?_noPfx hp, hr]; rfl

/-! ## A NaN operand -/

theorem Num.isNan_iff (v : Num) : v.isNan = true ↔ ∃ q, v = .nan q := by cases v <;> simp [Num.isNan]

@[simp] theorem Num.isNan_neg (v : Num) : v.neg.isNan = v.isNan := by cases v <;> rfl
@[simp] theorem Num.isSig_neg (v : Num) : v.neg.isSig = v.isSig := by cases v <;> rfl

/-- Of two addends one of which is a NaN, not both are infinities. -/
theorem not_both_inf_of_nan {a b : Num} (h : (a.isNan || b.isNan) = true) :
    ([a, b].any (fun x => x == .inf false) && [a, b].any (fun x => x == .inf true)) = false := by
  rw [Bool.eq_false_iff]
  intro hc
  simp only [List.any_cons, List.any_nil, Bool.or_false, Bool.and_eq_true, Bool.or_eq_true, beq_iff_eq] at hc h
  obtain ⟨rfl | rfl, hn⟩ := hc <;> simp_all [Num.isNan]

theorem sumNum_nan (md : RMode) {a b : Num} (h : (a.isNan || b.isNan) = true) :
    sumNum md [a, b] = (.nan false, flagIf (a.isSig || b.isSig) fNV) := by
  have hn : [a, b].any (·.isNan) = true := by simpa using h
  have hs : [a, b].any (·.isSig) = (a.isSig || b.isSig) := by simp
  simp only [sumNum, not_both_inf_of_nan h, hn, hs, Bool.or_false, if_true]

theorem mulNum_nan {a b : Num} (h : (a.isNan || b.isNan) = true) :
    mulNum a b = (.nan false, flagIf (a.isSig || b.isSig) fNV) := if_pos h

theorem divNum_nan {a b : Num} (h : (a.isNan || b.isNan) = true) :
    divNum a b = (.nan false, flagIf (a.isSig || b.isSig) fNV) := if_pos h

theorem fpRounded_nan (s : State) (dbl : Bool) :
    s.fpRounded (fpFmt dbl) (.nan false) = (if dbl then 0x7FF8000000000000 else 0x7FC00000, 0#5) := by cases dbl <;> rfl

/-- A form whose exact result is a NaN gives the canonical one, with the flags of the operation alone. -/
theorem fpGives_nan {s : State} {i : Instr} {d : Reg} {dbl : Bool} {w : State → RMode → Num × FpFlags} {nv : FpFlags}
    (hp : s.noPfx) (hr : swDRM s.me.sw = 0) (e : exec i s = fpOp d dbl w s) (hw : ∀ md, w s md = (.nan false, nv)) :
    FpGives s i d (if dbl then 0x7FF8000000000000#64 else 0x7FC00000#64) nv 0 := by
  have g := fpGives_of_fpRound (e.trans (fpOp_ok (fpPfxOk_noPfx hp _ _ _ true) d w))
  rw [hw, fpRounded_nan, fpDraws_rne hp hr, BitVec.or_zero] at g
  cases dbl <;> exact g

/-- A NaN operand of a sum, difference, product or quotient: the canonical NaN, and NV where an operand is signalling (03 R78, R79). -/
theorem fpGives_nan_operand {s : State} {o : Fp} (hp : s.noPfx) (hr : swDRM s.me.sw = 0)
    (h : ((s.fpA o).isNan || (s.fpB o).isNan) = true) {v : Word} {nv : FpFlags}
    (hv : v = if o.dbl then 0x7FF8000000000000#64 else 0x7FC00000#64) (hnv : nv = flagIf ((s.fpA o).isSig || (s.fpB o).isSig) fNV) :
    FpGives s (.fadd o) o.d v nv 0 ∧ FpGives s (.fsub o) o.d v nv 0 ∧ FpGives s (.fmul o) o.d v nv 0
      ∧ FpGives s (.fdiv o) o.d v nv 0 := by
  have hneg : ((s.fpA o).isNan || (s.fpB o).neg.isNan) = true := by rwa [Num.isNan_neg]
  subst hv hnv
  refine ⟨?_, ?_, ?_, ?_⟩
  · exact fpGives_nan (w := fun s md => sumNum md [s.fpA o, s.fpB o]) hp hr rfl (fun md => sumNum_nan md h)
  · exact fpGives_nan (w := fun s md => sumNum md [s.fpA o, (s.fpB o).neg]) hp hr rfl
      (fun md => (sumNum_nan md hneg).trans (by rw [Num.isSig_neg]))
  · exact fpGives_nan (w := fun s _ => mulNum (s.fpA o) (s.fpB o)) hp hr rfl (fun _ => mulNum_nan h)
  · exact fpGives_nan (w := fun s _ => divNum (s.fpA o) (s.fpB o)) hp hr rfl (fun _ => divNum_nan h)

/-! ## Values of a format -/

theorem roundUnits_of_le {q e : Int} (h : q ≤ e) (md : RMode) (neg : Bool) (d m : Nat) :
    roundUnits md neg d m e q = (m * pow2 (e - q), true) := if_pos h

/-- The exponent of the unit in the last place that `roundFloat` rounds m·2^e to. -/
def ulpExp (fw bias m : Nat) (e : Int) : Int :=
  let top : Int := e + (bitLen m : Int) - 1
  (if top ≤ 1 - (bias : Int) then 1 - (bias : Int) else top) - fw

/-- A number that a floating-point format holds: an infinity where it has them, or a multiple of the unit in its last place that is
not beyond the largest finite value. -/
def Num.inFormat (f : Nat) : Num → Bool
  | .nan _ => false
  | .inf _ => hasInf f
  | .fin _ m e => match fkind f with
    | .float _ fw bias =>
      let q := ulpExp fw bias m e
      decide (q ≤ e) && !magLt (fmax f).1 (fmax f).2 (m * pow2 (e - q)) q
    | _ => false

/-- Rounding a multiple of the unit is exact: neither the mode nor the draw decides anything (03 R72). -/
theorem roundFloat_inFormat {f ew fw bias m : Nat} {e : Int} (hq : ulpExp fw bias m e ≤ e)
    (hm : magLt (fmax f).1 (fmax f).2 (m * pow2 (e - ulpExp fw bias m e)) (ulpExp fw bias m e) = false)
    (md : RMode) (d : Nat) (neg : Bool) :
    roundFloat f ew fw bias md d false neg m e
      = (encodeMag ew fw bias neg (m * pow2 (e - ulpExp fw bias m e)) (ulpExp fw bias m e), 0#5) := by
  have htop : e + (bitLen m : Int) - 1 - fw ≤ e := by
    refine Int.le_trans ?_ hq
    simp only [ulpExp]; split <;> omega
  unfold ulpExp at *
  simp only [roundFloat, roundUnits_of_le hq, roundUnits_of_le htop, hm]
  simp [flagIf]

/-- round(f, mode, v) of a value that the format holds is the same in every mode and for every draw. -/
theorem roundNum_inFormat {f : Nat} {v : Num} (h : v.inFormat f = true) (md : RMode) (d : Nat) :
    roundNum f md d false false v = roundNum f .rtz 0 false false v := by
  cases v with
  | nan _ => rfl
  | inf _ => rfl
  | fin n m e =>
    cases hk : fkind f with
    | ds8 | int => simp [Num.inFormat, hk] at h
    | float ew fw bias =>
      simp only [Num.inFormat, hk, Bool.and_eq_true, Bool.not_eq_true', decide_eq_true_eq] at h
      obtain ⟨hq, hm⟩ := h
      cases m with
      | zero => simp only [roundNum, hk]
      | succ m => simp only [roundNum, hk, roundFloat_inFormat hq hm]

/-- The formats E4M3, E5M2 and E2M1 (03 R65), with their widths. -/
def smallFormats : List (Nat × Nat) := [(3, 8), (4, 8), (5, 4)]

/-- Their codes that are no NaN stand for values of the format and are those values' codes: rounded in one mode, each comes back. -/
theorem decodeNum_inFormat : ∀ c : Fin 256, ∀ p ∈ smallFormats, (decodeNum p.1 (c.val % 2 ^ p.2)).isNan = false →
    (decodeNum p.1 (c.val % 2 ^ p.2)).inFormat p.1 = true
    ∧ roundNum p.1 .rtz 0 false false (decodeNum p.1 (c.val % 2 ^ p.2)) = (c.val % 2 ^ p.2, 0#5) := by decide +kernel

theorem roundNum_decodeNum (c : Fin 256) {f w : Nat} (hf : (f, w) ∈ smallFormats) (md : RMode) (d : Nat)
    (hn : (decodeNum f (c.val % 2 ^ w)).isNan = false) :
    roundNum f md d false false (decodeNum f (c.val % 2 ^ w)) = (c.val % 2 ^ w, 0#5) := by
  obtain ⟨hv, hc⟩ := decodeNum_inFormat c (f, w) hf hn
  exact (roundNum_inFormat hv md d).trans hc

/-- Settles O15: a NaN operand makes the exact result a NaN, and a value of a format rounds as it does in RTZ. -/
theorem numberFormats : Obligations.NumberFormats := by
  refine ⟨?_, ?_⟩
  · intro s o hp hr sig nv v h
    have hsig (x : Num) : sig x = x.isSig := by cases x <;> rfl
    refine fpGives_nan_operand hp hr ?_ rfl ?_
    · rwa [Bool.or_eq_true, Num.isNan_iff, Num.isNan_iff]
    · rw [← hsig, ← hsig]; rfl
  · intro c md d back
    have h {f w : Nat} (hf : (f, w) ∈ smallFormats) : back f w := fun v e hn => e ▸ roundNum_decodeNum c hf md d (e ▸ hn)
    exact ⟨h (by decide), h (by decide), h (by decide)⟩

/-! ## Block scales -/

theorem scaleNum_of_ne {e : Nat} (h : e ≠ 0xFF) (v : Num) : scaleNum e v = v.shift ((e : Int) - 127) := if_neg h

/-- Settles O16: a scale byte other than 0xFF shifts a value's exponent, which an infinity has not. -/
theorem blockScaleValue : Obligations.BlockScaleValue := by
  refine ⟨fun e n m x h => ?_, fun e n h => ?_, fun v => rfl⟩
  · exact scaleNum_of_ne (by omega) (.fin n m x)
  · exact scaleNum_of_ne (by omega) (.inf n)

end Machine
end Sys2Proof
end
